-- ==== Sys2Proof/Word.lean ====
section
/-! DEFINITION. The word types of the machine (00_scope.md, R1 to R3). -/

namespace Sys2Proof

/-- A scalar register, a control register or an address (R84). -/
abbrev Word := BitVec 64

/-- The smallest addressable unit of memory (R2). -/
abbrev Byte := BitVec 8

/-- The number of a register; the operand's place gives its class (R77). -/
abbrev Reg := BitVec 6

/-- A brick: 16,384 bits (R110). -/
abbrev Brick := BitVec 16384

/-- A predicate, or an entry of the mask stack: 4,096 bits (R9, R167). -/
abbrev Pred := BitVec 4096

/-- A scale register: 128 bytes (R141). -/
abbrev Scale := BitVec 1024

/-- A vat tile: 32 KiB (R247). -/
abbrev Tile := BitVec 262144

end Sys2Proof
end

