-- ==== Sys2Proof/Syntax.lean ====
section
/-! DEFINITION. The syntax of the machine: one constructor for each row of the opcode table, the instructions of R76 with
their operands and the events of 95_what_each_step_holds.md with what each event brings from outside. -/

namespace Sys2Proof

/-- The three forms of an instruction: one, two or three words (R66). -/
inductive Form where
  | c | s | l
  deriving DecidableEq, Repr

/-- An offset of a brick operand along x, y and z, each 3-bit two's complement (R73). -/
structure Off where
  x : BitVec 3 := 0
  y : BitVec 3 := 0
  z : BitVec 3 := 0
  deriving DecidableEq, Repr

/-- What every instruction of a form may carry beside its operands: guard (R71), last-read marks (R72), offsets (R73) and
the hint byte of the L form (R74). -/
structure Mods where
  form : Form := .c
  g : BitVec 6 := 0
  gn : Bool := false
  la : Bool := false
  lb : Bool := false
  lc : Bool := false
  oa : Off := {}
  ob : Off := {}
  oc : Off := {}
  hint : BitVec 8 := 0
  deriving DecidableEq, Repr

/-- A source that the L form replaces by its literal K (R86). -/
inductive Src where
  | reg (r : Reg)
  | lit (k : BitVec 32)
  deriving DecidableEq, Repr

/-- The literal of li: imm10 in the C form, K in the L form (R92). -/
inductive Lit where
  | short (i : BitVec 10)
  | long (k : BitVec 32)
  deriving DecidableEq, Repr

/-- The sixteen element formats (R114). -/
inductive Fmt where
  | i8 | n8 | i16 | n16 | i32 | n32 | i64 | n64 | i4 | n4 | f16 | bf16 | f32 | f64 | m8 | m4
  deriving DecidableEq, Repr

/-- The address spaces (R187). -/
inductive Space where
  | g | s | c
  deriving DecidableEq, Repr

/-- The scopes of the memory model (R293). -/
inductive Scope where
  | cor | clu | tow | dev | sys
  deriving DecidableEq, Repr

/-- The order attribute of an atomic (R207). -/
inductive Ord where
  | none | acq | rel | ar
  deriving DecidableEq, Repr

/-- Sizes of a scalar access: 1, 2, 4, 8 and 16 bytes (R203). -/
inductive MSize where
  | b | h | w | d | q
  deriving DecidableEq, Repr

/-- Sizes of a vector element in memory: 4, 8, 16, 32 and 64 bits (R216). -/
inductive VSize where
  | n | b | h | w | d
  deriving DecidableEq, Repr

/-- Conditions of cmp (R93). -/
inductive Cc where
  | eq | ne | lt | ltu | le | leu
  deriving DecidableEq, Repr

/-- Conditions of vcmp (R163). -/
inductive ICc where
  | eq | ne | lt | le | gt | ge
  deriving DecidableEq, Repr

/-- Conditions of vfcmp (R173). -/
inductive FCc where
  | eq | ne | lt | le | gt | ge | un | or
  deriving DecidableEq, Repr

/-- The rounding field (R76, R143). -/
inductive Rm where
  | rne | rup | rdn | rtz | rsr | dyn
  deriving DecidableEq, Repr

/-- What vid writes (R166). -/
inductive Axis where
  | e | x | y | z
  deriving DecidableEq, Repr

/-- Operations of atom (R208). -/
inductive AtomOp where
  | add | and | or | xor | min | max | minu | maxu | xchg | fadd
  deriving DecidableEq, Repr

/-- Variants of vfsgn (R172). -/
inductive SgnOp where
  | cp | neg | xor
  deriving DecidableEq, Repr

/-- Kinds of mflush (R260). -/
inductive MKind where
  | f32 | i32 | f64
  deriving DecidableEq, Repr

/-- Where a soft error strikes (R365). -/
inductive SoftErr where
  /-- a memory line with no clean copy -/
  | line (pa : BitVec 64)
  /-- a unit of context `id`, with the register or block index -/
  | unit (id : Nat) (u : BitVec 8) (idx : BitVec 16)
  deriving DecidableEq, Repr

/-- A request of a Releb peer (R311, R383). -/
inductive PeerReq where
  | read (pa : BitVec 64) (sz : MSize)
  | write (pa : BitVec 64) (sz : MSize) (v : BitVec 128)
  | atomic (pa : BitVec 64) (op : AtomOp) (dbl : Bool) (v : BitVec 64)
  deriving DecidableEq, Repr

set_option maxRecDepth 4000 in
/-- One constructor for each row of the opcode table. In an instruction, `m` holds the form, guard, marks, offsets and
hints; the other operands are named by their fields in R68 to R70. -/
inductive Instr where
  /-- R86. -/
  | add (m : Mods) (d a : Reg) (b : Src)
  /-- R86. -/
  | sub (m : Mods) (d a : Reg) (b : Src)
  /-- R86. -/
  | and (m : Mods) (d a : Reg) (b : Src)
  /-- R86. -/
  | or (m : Mods) (d a : Reg) (b : Src)
  /-- R86. -/
  | xor (m : Mods) (d a : Reg) (b : Src)
  /-- R86. -/
  | andn (m : Mods) (d a : Reg) (b : Src)
  /-- R86. -/
  | shl (m : Mods) (d a : Reg) (b : Src)
  /-- R86. -/
  | shr (m : Mods) (d a : Reg) (b : Src)
  /-- R86. -/
  | sra (m : Mods) (d a : Reg) (b : Src)
  /-- R86. -/
  | rol (m : Mods) (d a : Reg) (b : Src)
  /-- R86. -/
  | min (m : Mods) (d a : Reg) (b : Src)
  /-- R86. -/
  | minu (m : Mods) (d a : Reg) (b : Src)
  /-- R86. -/
  | max (m : Mods) (d a : Reg) (b : Src)
  /-- R86. -/
  | maxu (m : Mods) (d a : Reg) (b : Src)
  /-- R87. -/
  | addImm (d a : Reg) (i : BitVec 10)
  /-- R87. -/
  | andImm (d a : Reg) (i : BitVec 10)
  /-- R87. -/
  | orImm (d a : Reg) (i : BitVec 10)
  /-- R87. -/
  | xorImm (d a : Reg) (i : BitVec 10)
  /-- R87. -/
  | shlImm (d a i : Reg)
  /-- R87. -/
  | shrImm (d a i : Reg)
  /-- R87. -/
  | sraImm (d a i : Reg)
  /-- R87. -/
  | rolImm (d a i : Reg)
  /-- R88. -/
  | mul (m : Mods) (d a b : Reg)
  /-- R88. -/
  | mulh (m : Mods) (d a b : Reg)
  /-- R88. -/
  | mulhu (m : Mods) (d a b : Reg)
  /-- R88. -/
  | div (m : Mods) (d a b : Reg)
  /-- R88. -/
  | divu (m : Mods) (d a b : Reg)
  /-- R88. -/
  | rem (m : Mods) (d a b : Reg)
  /-- R88. -/
  | remu (m : Mods) (d a b : Reg)
  /-- R89. -/
  | clz (m : Mods) (d a : Reg)
  /-- R89. -/
  | ctz (m : Mods) (d a : Reg)
  /-- R89. -/
  | popc (m : Mods) (d a : Reg)
  /-- R90. -/
  | lea (m : Mods) (d a b : Reg) (sh : BitVec 4) (disp : BitVec 8)
  /-- R91. -/
  | sext (d a n : Reg)
  /-- R91. -/
  | zext (d a n : Reg)
  /-- R92. -/
  | li (m : Mods) (d : Reg) (v : Lit)
  /-- R92. -/
  | lih (m : Mods) (d : Reg) (k : BitVec 32)
  /-- R93. -/
  | cmp (m : Mods) (d a : Reg) (b : Src) (cc : Cc)
  /-- R94. -/
  | sel (m : Mods) (d a b c : Reg)
  /-- R95. -/
  | pand (m : Mods) (d a b : Reg)
  /-- R95. -/
  | por (m : Mods) (d a b : Reg)
  /-- R95. -/
  | pxor (m : Mods) (d a b : Reg)
  /-- R95. -/
  | pnot (m : Mods) (d a : Reg)
  /-- R96. -/
  | pget (m : Mods) (d a b : Reg)
  /-- R96. -/
  | pset (m : Mods) (d a b : Reg)
  /-- R96. -/
  | pcount (m : Mods) (d a : Reg)
  /-- R96. -/
  | pfirst (m : Mods) (d a : Reg)
  /-- R97. -/
  | br (m : Mods) (disp : BitVec 32)
  /-- R97. -/
  | jal (m : Mods) (d : Reg) (disp : BitVec 32)
  /-- R98. -/
  | jr (m : Mods) (d a : Reg)
  /-- R99. -/
  | jtab (m : Mods) (a : Reg) (n : BitVec 12) (disp : BitVec 32)
  /-- R100. -/
  | bmz (m : Mods) (disp : BitVec 32)
  /-- R100. -/
  | bmnz (m : Mods) (disp : BitVec 32)
  /-- R102. -/
  | strip (m : Mods) (d a : Reg)
  /-- R103. -/
  | snext (m : Mods) (d : Reg) (disp : BitVec 32)
  /-- R106. -/
  | press (m : Mods) (len1 a : Reg) (k : BitVec 32)
  /-- R109. -/
  | exit
  /-- R109. -/
  | yield
  /-- R109. -/
  | nop
  /-- R204. -/
  | ld (m : Mods) (d a : Reg) (sz : MSize) (sx : Bool) (sp : Space) (acq : Option Scope) (disp : BitVec 32)
  /-- R205. -/
  | st (m : Mods) (d a : Reg) (sz : MSize) (sp : Space) (rel : Option Scope) (disp : BitVec 32)
  /-- R206. -/
  | ldro (m : Mods) (d a : Reg) (sz : MSize) (sx : Bool) (disp : BitVec 32)
  /-- R206. -/
  | ldtag (m : Mods) (d a : Reg) (sp : Space) (disp : BitVec 32)
  /-- R208. -/
  | atom (m : Mods) (d a b c : Reg) (op : AtomOp) (dbl : Bool) (ord : Ord) (sc : Scope) (sp : Space) (disp : BitVec 24)
  /-- R209. -/
  | cas (m : Mods) (d a b c : Reg) (sz : MSize) (ord : Ord) (sc : Scope) (sp : Space) (disp : BitVec 24)
  /-- R210. -/
  | fence (kinds : BitVec 6) (sc : Scope)
  /-- R211. -/
  | drain
  /-- R212. -/
  | flush (m : Mods) (ack : Bool) (a b : Reg)
  /-- R212. -/
  | inval (m : Mods) (ack : Bool) (a b : Reg)
  /-- R212. -/
  | seal (m : Mods) (a b : Reg)
  /-- R214. -/
  | cavecfg (d a : Reg)
  /-- R215. -/
  | cavewb (d a : Reg)
  /-- R117. -/
  | vtype (m : Mods) (d : Reg) (img : BitVec 24)
  /-- R118. -/
  | vlset (m : Mods) (d a : Reg)
  /-- R121. -/
  | quire (m : Mods) (n a b c : Reg)
  /-- R131. -/
  | sscaleFromBrick (m : Mods) (d a : Reg)
  /-- R131. -/
  | sscaleToBrick (m : Mods) (d a : Reg)
  /-- R131. -/
  | sscaleLoad (m : Mods) (d a : Reg) (sp : Space) (disp : BitVec 8)
  /-- R131. -/
  | sscaleStore (m : Mods) (d a : Reg) (sp : Space) (disp : BitVec 8)
  /-- R159. -/
  | vadd (m : Mods) (d a b : Reg)
  /-- R159. -/
  | vsub (m : Mods) (d a b : Reg)
  /-- R159. -/
  | vand (m : Mods) (d a b : Reg)
  /-- R159. -/
  | vor (m : Mods) (d a b : Reg)
  /-- R159. -/
  | vxor (m : Mods) (d a b : Reg)
  /-- R159. -/
  | vshl (m : Mods) (d a b : Reg)
  /-- R159. -/
  | vshr (m : Mods) (d a b : Reg)
  /-- R159. -/
  | vsra (m : Mods) (d a b : Reg)
  /-- R159. -/
  | vmin (m : Mods) (d a b : Reg)
  /-- R159. -/
  | vmax (m : Mods) (d a b : Reg)
  /-- R160. -/
  | vmul (m : Mods) (d a b : Reg)
  /-- R160. -/
  | vmulh (m : Mods) (d a b : Reg)
  /-- R161. -/
  | vsadd (m : Mods) (d a b : Reg)
  /-- R161. -/
  | vssub (m : Mods) (d a b : Reg)
  /-- R162. -/
  | vdot (m : Mods) (d a b : Reg) (sf : Fmt)
  /-- R163. -/
  | vcmp (m : Mods) (d a b : Reg) (cc : ICc)
  /-- R164. -/
  | vsel (m : Mods) (d a b c : Reg)
  /-- R165. -/
  | vbcast (m : Mods) (d : Reg) (a : Src)
  /-- R166. -/
  | vid (m : Mods) (d : Reg) (ax : Axis)
  /-- R167. -/
  | mpush (m : Mods) (a : Reg)
  /-- R167. -/
  | mpop (m : Mods)
  /-- R167. -/
  | minv (m : Mods)
  /-- R167. -/
  | mtop (m : Mods) (d : Reg)
  /-- R179. -/
  | vfetch (m : Mods) (disp : BitVec 32)
  /-- R179. -/
  | vfetchOrd (m : Mods) (disp : BitVec 32)
  /-- R179. -/
  | vend
  /-- R169. -/
  | vfadd (m : Mods) (d a b : Reg) (rm : Rm)
  /-- R169. -/
  | vfsub (m : Mods) (d a b : Reg) (rm : Rm)
  /-- R169. -/
  | vfmul (m : Mods) (d a b : Reg) (rm : Rm)
  /-- R169. -/
  | vfdiv (m : Mods) (d a b : Reg) (rm : Rm)
  /-- R171. -/
  | vfma (m : Mods) (d a b c : Reg) (rm : Rm)
  /-- R171. -/
  | vfnma (m : Mods) (d a b c : Reg) (rm : Rm)
  /-- R170. -/
  | vfmin (m : Mods) (d a b : Reg)
  /-- R170. -/
  | vfmax (m : Mods) (d a b : Reg)
  /-- R172. -/
  | vfsgn (m : Mods) (d a b : Reg) (v : SgnOp)
  /-- R173. -/
  | vfcmp (m : Mods) (d a b : Reg) (cc : FCc)
  /-- R174. -/
  | vfsqrt (m : Mods) (d a : Reg) (rm : Rm)
  /-- R175. -/
  | vcvt (m : Mods) (d a : Reg) (sf : Fmt) (rm : Rm)
  /-- R176. -/
  | vpack (m : Mods) (d a b : Reg) (rm : Rm)
  /-- R176. -/
  | vunpack (m : Mods) (d a : Reg) (half bf : Bool) (rm : Rm)
  /-- R177. -/
  | vexp2 (m : Mods) (d a : Reg)
  /-- R177. -/
  | vlog2 (m : Mods) (d a : Reg)
  /-- R177. -/
  | vrcp (m : Mods) (d a : Reg)
  /-- R177. -/
  | vrsqrt (m : Mods) (d a : Reg)
  /-- R177. -/
  | vsinpi (m : Mods) (d a : Reg)
  /-- R177. -/
  | vcospi (m : Mods) (d a : Reg)
  /-- R177. -/
  | vtanh (m : Mods) (d a : Reg)
  /-- R177. -/
  | vsigm (m : Mods) (d a : Reg)
  /-- R178. -/
  | vrand (m : Mods) (d a b : Reg) (k : BitVec 32)
  /-- R178. -/
  | vrandU (m : Mods) (d a b : Reg) (k : BitVec 32)
  /-- R217. -/
  | vld (m : Mods) (d a : Reg) (sz : VSize) (sp : Space) (wm : Option Reg) (disp : BitVec 32)
  /-- R218. -/
  | vst (m : Mods) (d a : Reg) (sz : VSize) (sp : Space) (disp : BitVec 32)
  /-- R218. -/
  | vstu (m : Mods) (d a : Reg) (sz : VSize) (sp : Space) (disp : BitVec 32)
  /-- R219. -/
  | vlds (m : Mods) (d a b : Reg) (sz : VSize) (sp : Space) (disp : BitVec 32)
  /-- R219. -/
  | vsts (m : Mods) (d a b : Reg) (sz : VSize) (sp : Space) (disp : BitVec 32)
  /-- R220. -/
  | vldx (m : Mods) (d a b : Reg) (sz : VSize) (sp : Space) (w64 : Bool) (sh : BitVec 3)
  /-- R220. -/
  | vstx (m : Mods) (d a b : Reg) (sz : VSize) (sp : Space) (w64 : Bool) (sh : BitVec 3)
  /-- R221. -/
  | vscadd (m : Mods) (d a b : Reg) (rm : Rm) (sp : Space) (w64 : Bool) (sh : BitVec 3)
  /-- R217. -/
  | vldro (m : Mods) (d a : Reg) (sz : VSize) (disp : BitVec 32)
  /-- R245. -/
  | sld (m : Mods) (d h : Reg)
  /-- R245. -/
  | sst (m : Mods) (d h : Reg)
  /-- R184. -/
  | vperm (m : Mods) (d a b : Reg)
  /-- R184. -/
  | vrot (m : Mods) (d a b : Reg)
  /-- R184. -/
  | vxget (m : Mods) (d a b : Reg)
  /-- R184. -/
  | vxput (m : Mods) (d a b : Reg)
  /-- R185. -/
  | vredsum (m : Mods) (d a b : Reg) (rm : Rm)
  /-- R185. -/
  | vredsumu (m : Mods) (d a b : Reg) (rm : Rm)
  /-- R185. -/
  | vscan (m : Mods) (d a b : Reg) (rm : Rm)
  /-- R185. -/
  | vredmax (m : Mods) (d a b : Reg)
  /-- R185. -/
  | vredmin (m : Mods) (d a b : Reg)
  /-- R186. -/
  | vcompress (m : Mods) (d a : Reg)
  /-- R186. -/
  | vexpand (m : Mods) (d a : Reg)
  /-- R255. -/
  | mopa (m : Mods) (d a b : Reg)
  /-- R255. -/
  | mopaRows (m : Mods) (d a b : Reg)
  /-- R258. -/
  | mzero (d : Reg)
  /-- R259. -/
  | mrd (m : Mods) (d a b : Reg)
  /-- R259. -/
  | mwr (m : Mods) (d a b : Reg)
  /-- R260. -/
  | mflush (m : Mods) (kind : MKind) (sp : Space) (a b c : Reg) (disp : BitVec 32)
  /-- R262. -/
  | mwait
  /-- R242. -/
  | rowact (m : Mods) (d a : Reg)
  /-- R243. -/
  | rowclose (m : Mods) (d : Reg)
  /-- R244. -/
  | rowstat (m : Mods) (d : Reg)
  /-- R244. -/
  | rowstatH (m : Mods) (d a : Reg)
  /-- R239. -/
  | fbind (m : Mods) (d a : Reg)
  /-- R241. -/
  | fseek (m : Mods) (d a : Reg)
  /-- R240. -/
  | frel (m : Mods) (d : Reg)
  /-- R272. -/
  | enq (m : Mods) (d a b : Reg) (gt : Bool)
  /-- R273. -/
  | enqb (m : Mods) (d a b : Reg) (gt : Bool)
  /-- R274. -/
  | epop (m : Mods) (d : Reg) (gt : Bool)
  /-- R274. -/
  | epopSus (m : Mods) (d : Reg) (gt : Bool)
  /-- R275. -/
  | estat (m : Mods) (d : Reg) (gt : Bool)
  /-- R275. -/
  | estatN (m : Mods) (d a : Reg)
  /-- R283. -/
  | qpush (m : Mods) (d a : Reg)
  /-- R283. -/
  | qpushBrick (m : Mods) (d a : Reg)
  /-- R283. -/
  | qpop (m : Mods) (d a : Reg)
  /-- R283. -/
  | qpopBrick (m : Mods) (d a : Reg)
  /-- R278. -/
  | gload (m : Mods) (a b : Reg)
  /-- R280. -/
  | gsig (m : Mods) (a : Reg)
  /-- R281. -/
  | gwait (m : Mods) (a : Reg)
  /-- R281. -/
  | gwaitSus (m : Mods) (a : Reg)
  /-- R286. -/
  | wmpub (m : Mods) (d a : Reg)
  /-- R286. -/
  | wmpubInit (m : Mods) (d a : Reg)
  /-- R287. -/
  | wmrd (m : Mods) (d a : Reg)
  /-- R287. -/
  | wmrdBound (m : Mods) (d a : Reg)
  /-- R334. -/
  | spawn (m : Mods) (d a b c : Reg)
  /-- R335. -/
  | suspend (m : Mods)
  /-- R335. -/
  | suspendLd (m : Mods) (d a : Reg)
  /-- R335. -/
  | suspendRow (m : Mods) (d a : Reg)
  /-- R336. -/
  | tdone (m : Mods)
  /-- R337. -/
  | kpt (m : Mods)
  /-- R338. -/
  | bnd (m : Mods) (a : Reg)
  /-- R339. -/
  | incupd (m : Mods) (d a b : Reg)
  /-- R339. -/
  | incupdSet (m : Mods) (d a b : Reg)
  /-- R340. -/
  | incrd (m : Mods) (d a : Reg)
  /-- R340. -/
  | incrdSh (m : Mods) (d a : Reg)
  /-- R341. -/
  | regl (m : Mods) (d a : Reg)
  /-- R367. -/
  | ctlr (m : Mods) (d : Reg) (n : BitVec 12)
  /-- R367. -/
  | ctlw (m : Mods) (d a : Reg) (n : BitVec 12)
  /-- R367. -/
  | ctlwSet (m : Mods) (d a : Reg) (n : BitVec 12)
  /-- R367. -/
  | ctlwClr (m : Mods) (d a : Reg) (n : BitVec 12)
  /-- R368. -/
  | sys (code : BitVec 12)
  /-- R369. -/
  | eret
  /-- R368. -/
  | brk (code : BitVec 12)
  /-- R370. -/
  | snap (d : Reg)
  /-- R371. -/
  | tlbinvAll
  /-- R371. -/
  | tlbinvAsid (b : Reg)
  /-- R371. -/
  | tlbinvPage (a b : Reg)
  /-- R371. -/
  | tlbinvGpage (a : Reg)
  /-- R371. -/
  | tlbinvUser
  /-- R67: a word 0 whose bits 1:0 are 11. -/
  | illLen (w0 : BitVec 32)
  /-- R77: a pair or an f4 that R76 does not list. -/
  | illOp (w0 w1 : BitVec 32)
  /-- R79: fetching the word at `va` fails translation, or access when `access`. -/
  | fetchXlate (va : BitVec 64) (access : Bool)
  /-- R351: the context in focus takes its oldest pending asynchronous trap. -/
  | asyncTrap
  /-- R46: a host write of that register of launch port `page`. -/
  | lpAddr (page : BitVec 6) (v : BitVec 64)
  /-- R46: a host write of that register of launch port `page`. -/
  | lpArg (page : BitVec 6) (v : BitVec 64)
  /-- R46: a host write of that register of launch port `page`. -/
  | lpToken (page : BitVec 6) (v : BitVec 64)
  /-- R46: a host write of that register of launch port `page`. -/
  | lpFlags (page : BitVec 6) (v : BitVec 64)
  /-- R46: a host write of that register of launch port `page`. -/
  | lpGo (page : BitVec 6) (v : BitVec 64)
  /-- R42: the launch captured at port `page` is read and checked. -/
  | launchCheck (page : BitVec 6)
  /-- R51: launch `l` leaves the launch queue when nothing holds it there. -/
  | launchDequeue (l : Nat)
  /-- R56: the placement unit of tower `t` makes one draw and places the winner. -/
  | placementDraw (t : BitVec 3)
  /-- R324: a record is taken for context slot `id`, which waits for a task. -/
  | poolDispatch (id : Nat)
  /-- R357: context `id` is switched out. -/
  | preemptSwitchOut (id : Nat)
  /-- R361: context `id` is resumed on `core`. -/
  | contextResume (id : Nat) (core : BitVec 12)
  /-- R242: the stalled activation of handle `h` starts (context `id`). -/
  | rowActivation (id : Nat) (h : BitVec 4)
  /-- R231: the open window of handle `h` ends (context `id`). -/
  | rowOpenDone (id : Nat) (h : BitVec 4)
  /-- R232: the hold limit of handle `h` ends (context `id`). -/
  | rowHoldExpiry (id : Nat) (h : BitVec 4)
  /-- R243: the close of the layer starts. -/
  | rowClose (core : BitVec 12) (y : BitVec 3)
  /-- R231: the close window of the layer ends. -/
  | rowCloseDone (core : BitVec 12) (y : BitVec 3)
  /-- R245: a group opened for streaming is closed. -/
  | streamGroupClose (core : BitVec 12) (y : BitVec 3)
  /-- R236: extent `ext` of folio `idx` moves to its spare. -/
  | extentRelocation (t : BitVec 3) (idx : BitVec 12) (ext : BitVec 3)
  /-- R199: the 2 MiB page at `va` moves to `frame` in tower `t`. -/
  | pagePromotion (t : BitVec 3) (ptb va frame : BitVec 64)
  /-- R294: pending access `n`, a store, is performed. -/
  | storePerform (n : Nat)
  /-- R294: pending access `n`, a load, is performed. -/
  | loadPerform (n : Nat)
  /-- R305: an atomic of another agent is performed at its ordering point. -/
  | atomicPerform (pa : BitVec 64) (op : AtomOp) (dbl : Bool) (v : BitVec 64)
  /-- R261: pending access `n`, a flushed element, is added. -/
  | mflushAddition (n : Nat)
  /-- R221: pending access `n`, a per-address sum, is added. -/
  | vscaddUpdate (n : Nat)
  /-- R213: the walkers of range instruction `n` finish. -/
  | rangeWalkDone (n : Nat)
  /-- R250: the engine of `core` runs the head of its queue. -/
  | matrixEngineStart (core : BitVec 12)
  /-- R276: an engine starts the head of the FIFO of context `id`. -/
  | engineCommandStart (id : Nat) (gt : Bool)
  /-- R270: the oldest finished command of the channel posts its result. -/
  | engineResultPost (id : Nat) (gt : Bool)
  /-- R277: a WAITING node with count 0 starts. -/
  | graphNodeStart (core : BitVec 12) (n : Reg)
  /-- R279: a RUNNING node's command ends. -/
  | graphNodeComplete (core : BitVec 12) (n : Reg)
  /-- R39: engine graph leaf `n` of launch `l` loads its nodes. -/
  | graphLeafLoad (l n : Nat)
  /-- R284: every live member of the gang copy is stalled on a pipe. -/
  | gangDeadlock (l n copy : Nat)
  /-- R335: entry `n` of the suspension buffer becomes a record. -/
  | suspendComplete (t : BitVec 3) (n : Nat)
  /-- R329: an incupd of another agent is performed at the grader. -/
  | graderUpdate (k : BitVec 4) (key : BitVec 64)
  /-- R330: a shadow takes the incumbent's key. -/
  | shadowRefresh (tower : Bool) (core : BitVec 12) (k : BitVec 4)
  /-- R377: node `n` of launch `l` retires when its condition holds. -/
  | regionRetire (l n : Nat)
  /-- R387: device reset. -/
  | deviceReset
  /-- R387: tower `t` finishes training. -/
  | towerTrained (t : BitVec 3)
  /-- R388: a firmware image is offered; `ok` when its signature verifies. -/
  | firmwareImage (digest : BitVec 256) (ok : Bool)
  /-- R388: certificate retrieval. -/
  | spdmCertificate
  /-- R388: challenge. -/
  | spdmChallenge (nonce : BitVec 256)
  /-- R388: measurements of the firmware digest and DMODE. -/
  | spdmMeasurements
  /-- R388: key exchange. -/
  | spdmKeyExchange (share : BitVec 256)
  /-- R363: slice crosses 95 C. -/
  | firstThreshold (t : BitVec 3) (sl : BitVec 4)
  /-- R363: slice crosses 105 C. -/
  | secondThreshold (t : BitVec 3) (sl : BitVec 4)
  /-- R363: slice crosses 115 C. -/
  | thirdThreshold (t : BitVec 3) (sl : BitVec 4)
  /-- R363: slice finishes evacuating. -/
  | evacuationEnd (t : BitVec 3) (sl : BitVec 4)
  /-- R363: slice falls below the first threshold. -/
  | belowFirstThreshold (t : BitVec 3) (sl : BitVec 4)
  /-- R363: every slice of the tower is below 90 C. -/
  | tlimClear (t : BitVec 3)
  /-- R364: cached service resumes in the tower. -/
  | caveRecover (t : BitVec 3)
  /-- R365: an uncorrectable soft error. -/
  | softError (e : SoftErr)
  /-- R390: the clock of cluster `cl` is stretched. -/
  | supplySag (cl : BitVec 10)
  /-- R21: the power manager lowers clocks. -/
  | throttleStart
  /-- R330: throttling ends. -/
  | throttleEnd
  /-- R309: a host CXL.mem read. -/
  | cxlMemRead (pa : BitVec 64) (sz : MSize)
  /-- R309: a host CXL.mem write. -/
  | cxlMemWrite (pa : BitVec 64) (sz : MSize) (v : BitVec 128)
  /-- R382: a host snoop of a line cached over CXL.cache. -/
  | hostSnoop (pa : BitVec 64)
  /-- R310: the host completes the AtomicOp of context `id`, or reports it unsupported. -/
  | atomicopCompletion (id : Nat) (ok : Bool)
  /-- R311: a request arriving over Releb. -/
  | relebRequest (r : PeerReq)
  /-- R383: the peer access of context `id` gets no completion. -/
  | relebTimeout (id : Nat)
  /-- R385: a host write of DMODE. -/
  | dmode (v : BitVec 64)
  /-- R386: answer 0 to a translation fault. -/
  | respWalkAgain (seq : BitVec 32)
  /-- R386: answer 1 to a translation fault. -/
  | respRaiseTrap (seq : BitVec 32)
  /-- R386: the policy for an unhandled fault. -/
  | respPolicy (seq : BitVec 32) (pol : BitVec 2)
  /-- R386: the context resumes from the save window. -/
  | respResume (seq : BitVec 32)
  /-- R386: the markers of the region are cleared. -/
  | respClearPoison (seq : BitVec 32)
  /-- R386: the markers of the region are kept. -/
  | respKeepPoison (seq : BitVec 32)
  /-- R386: the launch is accepted. -/
  | respAcceptLaunch (seq : BitVec 32)
  /-- R386: the launch is rejected with a code. -/
  | respRejectLaunch (seq : BitVec 32) (code : BitVec 8)
  /-- R389: a host write of TRIG. -/
  | snapshotTrigger
  /-- R389: a host write of REL. -/
  | snapshotRelease
  /-- R381: a host write to the device register space at an offset with no event of its own. -/
  | registerWrite (off : BitVec 24) (v : BitVec 64)
  /-- R386: a host write of the event ring's consumer index. -/
  | evcons (v : BitVec 32)
  /-- R384: the supervisor sets up queue pair `qp`. -/
  | queuePairTable (qp : BitVec 16) (up : Bool)
  /-- R364: the host clears a region's poison markers. -/
  | poisonMarkerClear (pa : BitVec 64)
  /-- R44, R350: a launch port page is granted. -/
  | portPageGrant (page : BitVec 6) (check : BitVec 32) (asid : BitVec 16) (root : BitVec 64) (sup : Bool)
  deriving DecidableEq, Repr

end Sys2Proof
end

