-- ==== Sys2Proof/WellFormed.lean ====
section
/-! DEFINITION. Well-formed instructions: what the encodings of R68 to R76 can carry, and the register classes of R77. -/

namespace Sys2Proof

/-- The C form carries no guard, mark, offset or hint (R68). -/
def Mods.cForm (m : Mods) : Bool := m == {}

/-- The S form carries a guard, the marks of a and b and the offset of a (R69, R73). -/
def Mods.sForm (m : Mods) : Bool :=
  m.form == .s && !m.lc && m.ob == {} && m.oc == {} && m.hint == 0

/-- The settings of the hint byte that R74 allows. -/
def hintOk (h : BitVec 8) : Bool :=
  let first := h.getLsbD 3
  let last := h.getLsbD 4
  let lvl := h.extractLsb' 0 3
  decide (lvl.toNat < 6) && !(first && last) && (lvl == 0 || first || last)

/-- The L form carries a hint byte within R74. -/
def Mods.lForm (m : Mods) : Bool := m.form == .l && hintOk m.hint

def Mods.csForm (m : Mods) : Bool := m.cForm || m.sForm
def Mods.slForm (m : Mods) : Bool := m.sForm || m.lForm
def Mods.clForm (m : Mods) : Bool := m.cForm || m.lForm
def Mods.anyForm (m : Mods) : Bool := m.cForm || m.sForm || m.lForm

/-- Word 2 is a literal, or there is none: it holds no offset and no mark (R70). -/
def Mods.noX (m : Mods) : Bool := !m.lc && m.ob == {} && m.oc == {}

/-- Word 2 is the extension word (R70). -/
def Mods.xWord (_ : Mods) : Bool := true

/-- The press takes no guard (R106). -/
def Mods.unguarded (m : Mods) : Bool := m.g == 0 && !m.gn

/-- The L form names a literal and the others a register (R86). -/
def Src.fits (s : Src) (f : Form) : Bool :=
  match s, f with
  | .lit _, .l => true
  | .reg _, .c => true
  | .reg _, .s => true
  | _, _ => false

/-- A literal shift amount lies from 0 to 63 (R86). -/
def Src.shiftOk : Src → Bool
  | .lit k => decide (k.toNat < 64)
  | .reg _ => true

def Lit.fits (v : Lit) (f : Form) : Bool :=
  match v, f with
  | .short _, .c => true
  | .long _, .l => true
  | _, _ => false

/-- A displacement that the form can carry: none in the C form, imm8 in the S form, K in the L form (R75, R203). -/
def fitsForm (f : Form) (disp : BitVec 32) : Bool :=
  match f with
  | .c => disp == 0
  | .s => disp == (disp.setWidth 8).signExtend 32
  | .l => true

/-- Sign extension is not named for 8 and 16 bytes (R203). -/
def MSize.signOk (sz : MSize) (sx : Bool) : Bool :=
  match sz with
  | .d | .q => !sx
  | _ => true

/-- cas acts on 4, 8 or 16 bytes (R209). -/
def MSize.casOk : MSize → Bool
  | .w | .d | .q => true
  | _ => false

/-- The integer formats, codes 0x0 to 0x9 (R154). -/
def Fmt.isInt : Fmt → Bool
  | .f16 | .bf16 | .f32 | .f64 | .m8 | .m4 => false
  | _ => true

/-- Bits 23:0 of a vtype image without a reserved bit and without a logarithm of 7 (R114, R117). -/
def imageOk (img : BitVec 24) : Bool :=
  img.extractLsb' 13 3 == 0 && img.extractLsb' 4 3 != 7 && img.extractLsb' 7 3 != 7 && img.extractLsb' 10 3 != 7

def isEven (r : Reg) : Bool := !r.getLsbD 0

/-- What the encodings can carry (R68 to R76); ILL_ENC is raised for what they cannot. -/
def Instr.encodable : Instr → Bool
  | .add m _ _ b => m.anyForm && m.noX && b.fits m.form
  | .sub m _ _ b => m.anyForm && m.noX && b.fits m.form
  | .and m _ _ b => m.anyForm && m.noX && b.fits m.form
  | .or m _ _ b => m.anyForm && m.noX && b.fits m.form
  | .xor m _ _ b => m.anyForm && m.noX && b.fits m.form
  | .andn m _ _ b => m.anyForm && m.noX && b.fits m.form
  | .shl m _ _ b => m.anyForm && m.noX && b.fits m.form && b.shiftOk
  | .shr m _ _ b => m.anyForm && m.noX && b.fits m.form && b.shiftOk
  | .sra m _ _ b => m.anyForm && m.noX && b.fits m.form && b.shiftOk
  | .rol m _ _ b => m.anyForm && m.noX && b.fits m.form && b.shiftOk
  | .min m _ _ b => m.anyForm && m.noX && b.fits m.form
  | .minu m _ _ b => m.anyForm && m.noX && b.fits m.form
  | .max m _ _ b => m.anyForm && m.noX && b.fits m.form
  | .maxu m _ _ b => m.anyForm && m.noX && b.fits m.form
  | .addImm _ _ _ => true
  | .andImm _ _ _ => true
  | .orImm _ _ _ => true
  | .xorImm _ _ _ => true
  | .shlImm _ _ _ => true
  | .shrImm _ _ _ => true
  | .sraImm _ _ _ => true
  | .rolImm _ _ _ => true
  | .mul m _ _ _ => m.csForm && m.noX
  | .mulh m _ _ _ => m.csForm && m.noX
  | .mulhu m _ _ _ => m.csForm && m.noX
  | .div m _ _ _ => m.csForm && m.noX
  | .divu m _ _ _ => m.csForm && m.noX
  | .rem m _ _ _ => m.csForm && m.noX
  | .remu m _ _ _ => m.csForm && m.noX
  | .clz m _ _ => m.csForm && m.noX
  | .ctz m _ _ => m.csForm && m.noX
  | .popc m _ _ => m.csForm && m.noX
  | .lea m _ _ _ sh disp => m.csForm && m.noX && decide (sh.toNat ≤ 4) && (m.form != .c || disp == 0)
  | .sext _ _ _ => true
  | .zext _ _ _ => true
  | .li m _ v => m.clForm && m.noX && v.fits m.form
  | .lih m _ _ => m.lForm && m.noX
  | .cmp m _ _ b _ => m.anyForm && m.noX && b.fits m.form
  | .sel m _ _ _ _ => m.sForm && m.noX
  | .pand m _ _ _ => m.csForm && m.noX
  | .por m _ _ _ => m.csForm && m.noX
  | .pxor m _ _ _ => m.csForm && m.noX
  | .pnot m _ _ => m.csForm && m.noX
  | .pget m _ _ _ => m.csForm && m.noX
  | .pset m _ _ _ => m.csForm && m.noX
  | .pcount m _ _ => m.csForm && m.noX
  | .pfirst m _ _ => m.csForm && m.noX
  | .br m disp => m.slForm && m.noX && fitsForm m.form disp
  | .jal m _ disp => m.slForm && m.noX && fitsForm m.form disp
  | .jr m _ _ => m.csForm && m.noX
  | .jtab m _ _ disp => m.slForm && m.noX && fitsForm m.form disp
  | .bmz m disp => m.slForm && m.noX && fitsForm m.form disp
  | .bmnz m disp => m.slForm && m.noX && fitsForm m.form disp
  | .strip m _ _ => m.csForm && m.noX
  | .snext m _ disp => m.slForm && m.noX && fitsForm m.form disp
  | .press m len1 _ _ => m.lForm && m.noX && decide (len1.toNat < 32) && m.unguarded && m.hint == 0
  | .exit => true
  | .yield => true
  | .nop => true
  | .ld m _ _ sz sx _ _ disp => m.anyForm && m.noX && sz.signOk sx && fitsForm m.form disp
  | .st m _ _ _ _ _ disp => m.anyForm && m.noX && fitsForm m.form disp
  | .ldro m _ _ sz sx disp => m.anyForm && m.noX && sz.signOk sx && fitsForm m.form disp
  | .ldtag m _ _ sp disp => m.anyForm && m.noX && sp != .s && fitsForm m.form disp
  | .atom m _ _ _ _ _ _ ord sc _ disp => m.slForm && m.noX && (ord != .none || sc == .cor) && (m.form == .l || disp == 0)
  | .cas m _ _ _ _ sz ord sc _ disp => m.slForm && m.noX && sz.casOk && (ord != .none || sc == .cor) && (m.form == .l || disp == 0)
  | .fence kinds _ => kinds != 0
  | .drain => true
  | .flush m _ _ _ => m.csForm && m.noX
  | .inval m _ _ _ => m.csForm && m.noX
  | .seal m _ _ => m.csForm && m.noX
  | .cavecfg _ _ => true
  | .cavewb _ _ => true
  | .vtype m _ img => m.slForm && m.noX && imageOk img
  | .vlset m _ _ => m.csForm && m.noX
  | .quire m _ _ _ c => m.csForm && m.noX && (m.form != .c || c == 0)
  | .sscaleFromBrick m _ _ => m.csForm && m.noX
  | .sscaleToBrick m _ _ => m.csForm && m.noX
  | .sscaleLoad m _ _ _ disp => m.csForm && m.noX && (m.form != .c || disp == 0)
  | .sscaleStore m _ _ _ disp => m.csForm && m.noX && (m.form != .c || disp == 0)
  | .vadd m _ _ _ => m.anyForm && m.xWord
  | .vsub m _ _ _ => m.anyForm && m.xWord
  | .vand m _ _ _ => m.anyForm && m.xWord
  | .vor m _ _ _ => m.anyForm && m.xWord
  | .vxor m _ _ _ => m.anyForm && m.xWord
  | .vshl m _ _ _ => m.anyForm && m.xWord
  | .vshr m _ _ _ => m.anyForm && m.xWord
  | .vsra m _ _ _ => m.anyForm && m.xWord
  | .vmin m _ _ _ => m.anyForm && m.xWord
  | .vmax m _ _ _ => m.anyForm && m.xWord
  | .vmul m _ _ _ => m.anyForm && m.xWord
  | .vmulh m _ _ _ => m.anyForm && m.xWord
  | .vsadd m _ _ _ => m.anyForm && m.xWord
  | .vssub m _ _ _ => m.anyForm && m.xWord
  | .vdot m _ _ _ sf => m.slForm && m.xWord && sf.isInt
  | .vcmp m _ _ _ cc => m.anyForm && m.xWord && (m.form != .c || cc == .eq)
  | .vsel m _ _ _ _ => m.slForm && m.xWord
  | .vbcast m _ a => m.anyForm && m.noX && a.fits m.form
  | .vid m _ _ => m.csForm && m.noX
  | .mpush m _ => m.csForm && m.noX
  | .mpop m => m.csForm && m.noX
  | .minv m => m.csForm && m.noX
  | .mtop m _ => m.csForm && m.noX
  | .vfetch m disp => m.slForm && m.noX && fitsForm m.form disp
  | .vfetchOrd m disp => m.slForm && m.noX && fitsForm m.form disp
  | .vend => true
  | .vfadd m _ _ _ _ => m.anyForm && m.xWord
  | .vfsub m _ _ _ _ => m.anyForm && m.xWord
  | .vfmul m _ _ _ _ => m.anyForm && m.xWord
  | .vfdiv m _ _ _ _ => m.anyForm && m.xWord
  | .vfma m _ _ _ _ _ => m.slForm && m.xWord
  | .vfnma m _ _ _ _ _ => m.slForm && m.xWord
  | .vfmin m _ _ _ => m.anyForm && m.xWord
  | .vfmax m _ _ _ => m.anyForm && m.xWord
  | .vfsgn m _ _ _ v => m.anyForm && m.xWord && (m.form != .c || v == .cp)
  | .vfcmp m _ _ _ cc => m.anyForm && m.xWord && (m.form != .c || cc == .eq)
  | .vfsqrt m _ _ _ => m.anyForm && m.xWord
  | .vcvt m _ _ _ _ => m.anyForm && m.xWord
  | .vpack m _ _ _ _ => m.anyForm && m.xWord
  | .vunpack m _ _ _ _ _ => m.anyForm && m.xWord
  | .vexp2 m _ _ => m.anyForm && m.xWord
  | .vlog2 m _ _ => m.anyForm && m.xWord
  | .vrcp m _ _ => m.anyForm && m.xWord
  | .vrsqrt m _ _ => m.anyForm && m.xWord
  | .vsinpi m _ _ => m.anyForm && m.xWord
  | .vcospi m _ _ => m.anyForm && m.xWord
  | .vtanh m _ _ => m.anyForm && m.xWord
  | .vsigm m _ _ => m.anyForm && m.xWord
  | .vrand m _ _ _ k => m.slForm && m.noX && (m.form == .l || k == 0)
  | .vrandU m _ _ _ k => m.slForm && m.noX && (m.form == .l || k == 0)
  | .vld m _ _ _ _ wm disp => m.anyForm && m.noX && (m.form != .c || wm == none) && fitsForm m.form disp
  | .vst m _ _ _ _ disp => m.anyForm && m.noX && fitsForm m.form disp
  | .vstu m _ _ _ _ disp => m.anyForm && m.noX && fitsForm m.form disp
  | .vlds m _ _ _ _ _ disp => m.slForm && m.noX && fitsForm m.form disp
  | .vsts m _ _ _ _ _ disp => m.slForm && m.noX && fitsForm m.form disp
  | .vldx m _ _ _ _ _ _ sh => m.slForm && m.xWord && decide (sh.toNat ≤ 4)
  | .vstx m _ _ _ _ _ _ sh => m.slForm && m.xWord && decide (sh.toNat ≤ 4)
  | .vscadd m _ _ _ _ _ _ sh => m.slForm && m.xWord && decide (sh.toNat ≤ 4)
  | .vldro m _ _ _ disp => m.anyForm && m.noX && fitsForm m.form disp
  | .sld m _ _ => m.csForm && m.noX
  | .sst m _ _ => m.csForm && m.noX
  | .vperm m _ _ _ => m.csForm && m.noX
  | .vrot m _ _ _ => m.csForm && m.noX
  | .vxget m _ _ _ => m.csForm && m.noX
  | .vxput m _ _ _ => m.csForm && m.noX
  | .vredsum m _ _ _ _ => m.csForm && m.noX
  | .vredsumu m _ _ _ _ => m.csForm && m.noX
  | .vscan m _ _ _ _ => m.csForm && m.noX
  | .vredmax m _ _ _ => m.csForm && m.noX
  | .vredmin m _ _ _ => m.csForm && m.noX
  | .vcompress m _ _ => m.csForm && m.noX
  | .vexpand m _ _ => m.csForm && m.noX
  | .mopa m _ _ _ => m.slForm && m.xWord
  | .mopaRows m _ _ _ => m.slForm && m.xWord
  | .mzero _ => true
  | .mrd m _ _ _ => m.csForm && m.noX
  | .mwr m _ _ _ => m.csForm && m.noX
  | .mflush m _ sp _ _ c disp => m.anyForm && m.noX && sp != .s && (m.form != .c || c == 0) && fitsForm m.form disp
  | .mwait => true
  | .rowact m _ _ => m.csForm && m.noX
  | .rowclose m _ => m.csForm && m.noX
  | .rowstat m _ => m.csForm && m.noX
  | .rowstatH m _ _ => m.csForm && m.noX
  | .fbind m _ _ => m.csForm && m.noX
  | .fseek m _ _ => m.csForm && m.noX
  | .frel m _ => m.csForm && m.noX
  | .enq m _ _ _ _ => m.csForm && m.noX
  | .enqb m _ _ _ _ => m.csForm && m.noX
  | .epop m _ _ => m.csForm && m.noX
  | .epopSus m _ _ => m.csForm && m.noX
  | .estat m _ _ => m.csForm && m.noX
  | .estatN m _ _ => m.csForm && m.noX
  | .qpush m _ _ => m.csForm && m.noX
  | .qpushBrick m _ _ => m.csForm && m.noX
  | .qpop m _ _ => m.csForm && m.noX
  | .qpopBrick m _ _ => m.csForm && m.noX
  | .gload m _ _ => m.csForm && m.noX
  | .gsig m _ => m.csForm && m.noX
  | .gwait m _ => m.csForm && m.noX
  | .gwaitSus m _ => m.csForm && m.noX
  | .wmpub m _ _ => m.csForm && m.noX
  | .wmpubInit m _ _ => m.csForm && m.noX
  | .wmrd m _ _ => m.csForm && m.noX
  | .wmrdBound m _ _ => m.csForm && m.noX
  | .spawn m _ _ _ c => m.csForm && m.noX && (m.form != .c || c == 0)
  | .suspend m => m.csForm && m.noX
  | .suspendLd m _ _ => m.csForm && m.noX
  | .suspendRow m _ _ => m.csForm && m.noX
  | .tdone m => m.csForm && m.noX
  | .kpt m => m.csForm && m.noX
  | .bnd m _ => m.csForm && m.noX
  | .incupd m _ _ _ => m.csForm && m.noX
  | .incupdSet m _ _ _ => m.csForm && m.noX
  | .incrd m _ _ => m.csForm && m.noX
  | .incrdSh m _ _ => m.csForm && m.noX
  | .regl m _ _ => m.csForm && m.noX
  | .ctlr m _ _ => m.slForm && m.noX
  | .ctlw m _ _ _ => m.slForm && m.noX
  | .ctlwSet m _ _ _ => m.slForm && m.noX
  | .ctlwClr m _ _ _ => m.slForm && m.noX
  | .sys _ => true
  | .eret => true
  | .brk _ => true
  | .snap _ => true
  | .tlbinvAll => true
  | .tlbinvAsid _ => true
  | .tlbinvPage _ _ => true
  | .tlbinvGpage _ => true
  | .tlbinvUser => true
  | .illLen _ => true
  | .illOp _ _ => true
  | .fetchXlate _ _ => true
  | .asyncTrap => true
  | .lpAddr _ _ => true
  | .lpArg _ _ => true
  | .lpToken _ _ => true
  | .lpFlags _ _ => true
  | .lpGo _ _ => true
  | .launchCheck _ => true
  | .launchDequeue _ => true
  | .placementDraw _ => true
  | .poolDispatch _ => true
  | .preemptSwitchOut _ => true
  | .contextResume _ _ => true
  | .rowActivation _ _ => true
  | .rowOpenDone _ _ => true
  | .rowHoldExpiry _ _ => true
  | .rowClose _ _ => true
  | .rowCloseDone _ _ => true
  | .streamGroupClose _ _ => true
  | .extentRelocation _ _ _ => true
  | .pagePromotion _ _ _ _ => true
  | .storePerform _ => true
  | .loadPerform _ => true
  | .atomicPerform _ _ _ _ => true
  | .mflushAddition _ => true
  | .vscaddUpdate _ => true
  | .rangeWalkDone _ => true
  | .matrixEngineStart _ => true
  | .engineCommandStart _ _ => true
  | .engineResultPost _ _ => true
  | .graphNodeStart _ _ => true
  | .graphNodeComplete _ _ => true
  | .graphLeafLoad _ _ => true
  | .gangDeadlock _ _ _ => true
  | .suspendComplete _ _ => true
  | .graderUpdate _ _ => true
  | .shadowRefresh _ _ _ => true
  | .regionRetire _ _ => true
  | .deviceReset => true
  | .towerTrained _ => true
  | .firmwareImage _ _ => true
  | .spdmCertificate => true
  | .spdmChallenge _ => true
  | .spdmMeasurements => true
  | .spdmKeyExchange _ => true
  | .firstThreshold _ _ => true
  | .secondThreshold _ _ => true
  | .thirdThreshold _ _ => true
  | .evacuationEnd _ _ => true
  | .belowFirstThreshold _ _ => true
  | .tlimClear _ => true
  | .caveRecover _ => true
  | .softError _ => true
  | .supplySag _ => true
  | .throttleStart => true
  | .throttleEnd => true
  | .cxlMemRead _ _ => true
  | .cxlMemWrite _ _ _ => true
  | .hostSnoop _ => true
  | .atomicopCompletion _ _ => true
  | .relebRequest _ => true
  | .relebTimeout _ => true
  | .dmode _ => true
  | .respWalkAgain _ => true
  | .respRaiseTrap _ => true
  | .respPolicy _ _ => true
  | .respResume _ => true
  | .respClearPoison _ => true
  | .respKeepPoison _ => true
  | .respAcceptLaunch _ => true
  | .respRejectLaunch _ _ => true
  | .snapshotTrigger => true
  | .snapshotRelease => true
  | .registerWrite _ _ => true
  | .evcons _ => true
  | .queuePairTable _ _ => true
  | .poisonMarkerClear _ => true
  | .portPageGrant _ _ _ _ _ => true

/-- Every register lies in its class (R77, item 7). -/
def Instr.classesOk : Instr → Bool
  | .add _ _ _ _ => true
  | .sub _ _ _ _ => true
  | .and _ _ _ _ => true
  | .or _ _ _ _ => true
  | .xor _ _ _ _ => true
  | .andn _ _ _ _ => true
  | .shl _ _ _ _ => true
  | .shr _ _ _ _ => true
  | .sra _ _ _ _ => true
  | .rol _ _ _ _ => true
  | .min _ _ _ _ => true
  | .minu _ _ _ _ => true
  | .max _ _ _ _ => true
  | .maxu _ _ _ _ => true
  | .addImm _ _ _ => true
  | .andImm _ _ _ => true
  | .orImm _ _ _ => true
  | .xorImm _ _ _ => true
  | .shlImm _ _ _ => true
  | .shrImm _ _ _ => true
  | .sraImm _ _ _ => true
  | .rolImm _ _ _ => true
  | .mul _ _ _ _ => true
  | .mulh _ _ _ _ => true
  | .mulhu _ _ _ _ => true
  | .div _ _ _ _ => true
  | .divu _ _ _ _ => true
  | .rem _ _ _ _ => true
  | .remu _ _ _ _ => true
  | .clz _ _ _ => true
  | .ctz _ _ _ => true
  | .popc _ _ _ => true
  | .lea _ _ _ _ _ _ => true
  | .sext _ _ _ => true
  | .zext _ _ _ => true
  | .li _ _ _ => true
  | .lih _ _ _ => true
  | .cmp _ _ _ _ _ => true
  | .sel _ _ _ _ _ => true
  | .pand _ _ _ _ => true
  | .por _ _ _ _ => true
  | .pxor _ _ _ _ => true
  | .pnot _ _ _ => true
  | .pget _ _ _ _ => true
  | .pset _ _ _ _ => true
  | .pcount _ _ _ => true
  | .pfirst _ _ _ => true
  | .br _ _ => true
  | .jal _ _ _ => true
  | .jr _ _ _ => true
  | .jtab _ _ _ _ => true
  | .bmz _ _ => true
  | .bmnz _ _ => true
  | .strip _ _ _ => true
  | .snext _ _ _ => true
  | .press _ _ _ _ => true
  | .exit => true
  | .yield => true
  | .nop => true
  | .ld _ d _ sz _ _ _ _ => (sz != .q || isEven d)
  | .st _ d _ sz _ _ _ => (sz != .q || isEven d)
  | .ldro _ d _ sz _ _ => (sz != .q || isEven d)
  | .ldtag _ _ _ _ _ => true
  | .atom _ _ _ _ _ _ _ _ _ _ _ => true
  | .cas _ d _ b _ sz _ _ _ _ => (sz != .q || isEven d) && (sz != .q || isEven b)
  | .fence _ _ => true
  | .drain => true
  | .flush _ _ _ _ => true
  | .inval _ _ _ _ => true
  | .seal _ _ _ => true
  | .cavecfg _ _ => true
  | .cavewb _ _ => true
  | .vtype _ _ _ => true
  | .vlset _ _ _ => true
  | .quire _ n _ _ _ => decide (n.toNat ≤ 3)
  | .sscaleFromBrick _ d _ => decide (d.toNat ≤ 7)
  | .sscaleToBrick _ _ a => decide (a.toNat ≤ 7)
  | .sscaleLoad _ d _ _ _ => decide (d.toNat ≤ 7)
  | .sscaleStore _ d _ _ _ => decide (d.toNat ≤ 7)
  | .vadd _ _ _ _ => true
  | .vsub _ _ _ _ => true
  | .vand _ _ _ _ => true
  | .vor _ _ _ _ => true
  | .vxor _ _ _ _ => true
  | .vshl _ _ _ _ => true
  | .vshr _ _ _ _ => true
  | .vsra _ _ _ _ => true
  | .vmin _ _ _ _ => true
  | .vmax _ _ _ _ => true
  | .vmul _ _ _ _ => true
  | .vmulh _ _ _ _ => true
  | .vsadd _ _ _ _ => true
  | .vssub _ _ _ _ => true
  | .vdot _ _ _ _ _ => true
  | .vcmp _ _ _ _ _ => true
  | .vsel _ _ _ _ _ => true
  | .vbcast _ _ _ => true
  | .vid _ _ _ => true
  | .mpush _ _ => true
  | .mpop _ => true
  | .minv _ => true
  | .mtop _ _ => true
  | .vfetch _ _ => true
  | .vfetchOrd _ _ => true
  | .vend => true
  | .vfadd _ _ _ _ _ => true
  | .vfsub _ _ _ _ _ => true
  | .vfmul _ _ _ _ _ => true
  | .vfdiv _ _ _ _ _ => true
  | .vfma _ _ _ _ _ _ => true
  | .vfnma _ _ _ _ _ _ => true
  | .vfmin _ _ _ _ => true
  | .vfmax _ _ _ _ => true
  | .vfsgn _ _ _ _ _ => true
  | .vfcmp _ _ _ _ _ => true
  | .vfsqrt _ _ _ _ => true
  | .vcvt _ _ _ _ _ => true
  | .vpack _ _ _ _ _ => true
  | .vunpack _ _ _ _ _ _ => true
  | .vexp2 _ _ _ => true
  | .vlog2 _ _ _ => true
  | .vrcp _ _ _ => true
  | .vrsqrt _ _ _ => true
  | .vsinpi _ _ _ => true
  | .vcospi _ _ _ => true
  | .vtanh _ _ _ => true
  | .vsigm _ _ _ => true
  | .vrand _ _ _ _ _ => true
  | .vrandU _ _ _ _ _ => true
  | .vld _ _ _ _ _ _ _ => true
  | .vst _ _ _ _ _ _ => true
  | .vstu _ _ _ _ _ _ => true
  | .vlds _ _ _ _ _ _ _ => true
  | .vsts _ _ _ _ _ _ _ => true
  | .vldx _ _ _ _ _ _ _ _ => true
  | .vstx _ _ _ _ _ _ _ _ => true
  | .vscadd _ _ _ _ _ _ _ _ => true
  | .vldro _ _ _ _ _ => true
  | .sld _ _ h => decide (h.toNat ≤ 15)
  | .sst _ _ h => decide (h.toNat ≤ 15)
  | .vperm _ _ _ _ => true
  | .vrot _ _ _ _ => true
  | .vxget _ _ _ _ => true
  | .vxput _ _ _ _ => true
  | .vredsum _ _ _ _ _ => true
  | .vredsumu _ _ _ _ _ => true
  | .vscan _ _ _ _ _ => true
  | .vredmax _ _ _ _ => true
  | .vredmin _ _ _ _ => true
  | .vcompress _ _ _ => true
  | .vexpand _ _ _ => true
  | .mopa _ d _ _ => decide (d.toNat ≤ 3)
  | .mopaRows _ d _ b => decide (d.toNat ≤ 3) && decide (b.toNat ≤ 15)
  | .mzero d => decide (d.toNat ≤ 3)
  | .mrd _ _ a _ => decide (a.toNat ≤ 3)
  | .mwr _ d _ _ => decide (d.toNat ≤ 3)
  | .mflush _ _ _ _ b _ _ => decide (b.toNat ≤ 3)
  | .mwait => true
  | .rowact _ d _ => decide (d.toNat ≤ 15)
  | .rowclose _ d => decide (d.toNat ≤ 15)
  | .rowstat _ _ => true
  | .rowstatH _ _ a => decide (a.toNat ≤ 15)
  | .fbind _ d _ => decide (d.toNat ≤ 15)
  | .fseek _ d _ => decide (d.toNat ≤ 15)
  | .frel _ d => decide (d.toNat ≤ 15)
  | .enq _ _ _ _ _ => true
  | .enqb _ _ _ _ _ => true
  | .epop _ d _ => isEven d
  | .epopSus _ d _ => isEven d
  | .estat _ _ _ => true
  | .estatN _ _ _ => true
  | .qpush _ d _ => decide (d.toNat ≤ 7)
  | .qpushBrick _ d _ => decide (d.toNat ≤ 7)
  | .qpop _ _ a => decide (a.toNat ≤ 7)
  | .qpopBrick _ _ a => decide (a.toNat ≤ 7)
  | .gload _ _ _ => true
  | .gsig _ _ => true
  | .gwait _ _ => true
  | .gwaitSus _ _ => true
  | .wmpub _ _ _ => true
  | .wmpubInit _ _ _ => true
  | .wmrd _ _ _ => true
  | .wmrdBound _ _ _ => true
  | .spawn _ _ _ _ _ => true
  | .suspend _ => true
  | .suspendLd _ d _ => d.extractLsb' 0 3 == 0
  | .suspendRow _ d _ => decide (d.toNat ≤ 15)
  | .tdone _ => true
  | .kpt _ => true
  | .bnd _ _ => true
  | .incupd _ _ _ b => decide (b.toNat ≤ 15)
  | .incupdSet _ _ _ b => decide (b.toNat ≤ 15)
  | .incrd _ _ a => decide (a.toNat ≤ 15)
  | .incrdSh _ _ a => decide (a.toNat ≤ 15)
  | .regl _ _ _ => true
  | .ctlr _ _ _ => true
  | .ctlw _ _ _ _ => true
  | .ctlwSet _ _ _ _ => true
  | .ctlwClr _ _ _ _ => true
  | .sys _ => true
  | .eret => true
  | .brk _ => true
  | .snap _ => true
  | .tlbinvAll => true
  | .tlbinvAsid _ => true
  | .tlbinvPage _ _ => true
  | .tlbinvGpage _ => true
  | .tlbinvUser => true
  | .illLen _ => true
  | .illOp _ _ => true
  | .fetchXlate _ _ => true
  | .asyncTrap => true
  | .lpAddr _ _ => true
  | .lpArg _ _ => true
  | .lpToken _ _ => true
  | .lpFlags _ _ => true
  | .lpGo _ _ => true
  | .launchCheck _ => true
  | .launchDequeue _ => true
  | .placementDraw _ => true
  | .poolDispatch _ => true
  | .preemptSwitchOut _ => true
  | .contextResume _ _ => true
  | .rowActivation _ _ => true
  | .rowOpenDone _ _ => true
  | .rowHoldExpiry _ _ => true
  | .rowClose _ _ => true
  | .rowCloseDone _ _ => true
  | .streamGroupClose _ _ => true
  | .extentRelocation _ _ _ => true
  | .pagePromotion _ _ _ _ => true
  | .storePerform _ => true
  | .loadPerform _ => true
  | .atomicPerform _ _ _ _ => true
  | .mflushAddition _ => true
  | .vscaddUpdate _ => true
  | .rangeWalkDone _ => true
  | .matrixEngineStart _ => true
  | .engineCommandStart _ _ => true
  | .engineResultPost _ _ => true
  | .graphNodeStart _ _ => true
  | .graphNodeComplete _ _ => true
  | .graphLeafLoad _ _ => true
  | .gangDeadlock _ _ _ => true
  | .suspendComplete _ _ => true
  | .graderUpdate _ _ => true
  | .shadowRefresh _ _ _ => true
  | .regionRetire _ _ => true
  | .deviceReset => true
  | .towerTrained _ => true
  | .firmwareImage _ _ => true
  | .spdmCertificate => true
  | .spdmChallenge _ => true
  | .spdmMeasurements => true
  | .spdmKeyExchange _ => true
  | .firstThreshold _ _ => true
  | .secondThreshold _ _ => true
  | .thirdThreshold _ _ => true
  | .evacuationEnd _ _ => true
  | .belowFirstThreshold _ _ => true
  | .tlimClear _ => true
  | .caveRecover _ => true
  | .softError _ => true
  | .supplySag _ => true
  | .throttleStart => true
  | .throttleEnd => true
  | .cxlMemRead _ _ => true
  | .cxlMemWrite _ _ _ => true
  | .hostSnoop _ => true
  | .atomicopCompletion _ _ => true
  | .relebRequest _ => true
  | .relebTimeout _ => true
  | .dmode _ => true
  | .respWalkAgain _ => true
  | .respRaiseTrap _ => true
  | .respPolicy _ _ => true
  | .respResume _ => true
  | .respClearPoison _ => true
  | .respKeepPoison _ => true
  | .respAcceptLaunch _ => true
  | .respRejectLaunch _ _ => true
  | .snapshotTrigger => true
  | .snapshotRelease => true
  | .registerWrite _ _ => true
  | .evcons _ => true
  | .queuePairTable _ _ => true
  | .poisonMarkerClear _ => true
  | .portPageGrant _ _ _ _ _ => true

/-- A well-formed instruction. -/
def Instr.wf (i : Instr) : Bool := i.encodable && i.classesOk

end Sys2Proof
end

