-- ==== Sys2Proof/Decode.lean ====
section
/-! DEFINITION. The decoder of R66 to R77, total on any words, and the encoder, written from the same field tables. -/

namespace Sys2Proof

/-- The fields of an instruction as its words hold them (R68 to R70). imm8 is hint8 in the L form; w2 is word 2. -/
structure Enc where
  form : Form := .c
  op : BitVec 8 := 0
  f4 : BitVec 4 := 0
  b : BitVec 6 := 0
  a : BitVec 6 := 0
  d : BitVec 6 := 0
  g : BitVec 6 := 0
  gn : Bool := false
  la : Bool := false
  lb : Bool := false
  oa : Off := {}
  c : BitVec 6 := 0
  imm8 : BitVec 8 := 0
  w2 : BitVec 32 := 0
  deriving DecidableEq, Repr

def b1 (x : Bool) : BitVec 1 := BitVec.ofBool x
def b4 (x : Bool) : BitVec 4 := (BitVec.ofBool x).setWidth 4
def low8 (d : BitVec 32) : BitVec 8 := d.setWidth 8

/-! ### Codes of the named fields -/

def Form.code : Form → BitVec 2
  | .c => 0 | .s => 1 | .l => 2

/-- The number of words of a form (R66). -/
def Form.words : Form → Nat
  | .c => 1 | .s => 2 | .l => 3

def Off.bits (o : Off) : BitVec 9 := o.z ++ o.y ++ o.x
def Off.ofBits (v : BitVec 9) : Off := ⟨v.extractLsb' 0 3, v.extractLsb' 3 3, v.extractLsb' 6 3⟩

def Fmt.code : Fmt → BitVec 4
  | .i8 => 0 | .n8 => 1 | .i16 => 2 | .n16 => 3 | .i32 => 4 | .n32 => 5 | .i64 => 6 | .n64 => 7
  | .i4 => 8 | .n4 => 9 | .f16 => 10 | .bf16 => 11 | .f32 => 12 | .f64 => 13 | .m8 => 14 | .m4 => 15
def Fmt.ofCode (v : BitVec 4) : Fmt :=
  match v.toNat with
  | 0 => .i8 | 1 => .n8 | 2 => .i16 | 3 => .n16 | 4 => .i32 | 5 => .n32 | 6 => .i64 | 7 => .n64
  | 8 => .i4 | 9 => .n4 | 10 => .f16 | 11 => .bf16 | 12 => .f32 | 13 => .f64 | 14 => .m8 | _ => .m4
def Fmt.reg (f : Fmt) : Reg := f.code.setWidth 6
def Fmt.ofReg (r : Reg) : Option Fmt := if r.toNat < 16 then some (Fmt.ofCode (r.setWidth 4)) else none
/-- The source format of vdot: codes 0 to 9 (R162). -/
def Fmt.ofDot (r : Reg) : Option Fmt := if r.toNat < 10 then some (Fmt.ofCode (r.setWidth 4)) else none

def Space.code : Space → BitVec 2
  | .g => 0 | .s => 1 | .c => 2
def Space.of (v : BitVec 2) : Option Space :=
  match v.toNat with
  | 0 => some .g | 1 => some .s | 2 => some .c | _ => none
def Space.ofCode (r : Reg) : Option Space := Space.of (r.extractLsb' 0 2)
/-- mflush takes g: and c: (R260). -/
def Space.ofFlush (r : Reg) : Option Space := Space.of (r.extractLsb' 0 2)
def Space.ofAtt (v : BitVec 8) : Option Space := Space.of (v.extractLsb' 0 2)

def Scope.code : Scope → BitVec 3
  | .cor => 0 | .clu => 1 | .tow => 2 | .dev => 3 | .sys => 4
def Scope.reg (s : Scope) : Reg := s.code.setWidth 6
def Scope.ofCode (v : BitVec 3) : Option Scope :=
  match v.toNat with
  | 0 => some .cor | 1 => some .clu | 2 => some .tow | 3 => some .dev | 4 => some .sys | _ => none
/-- The order bit b[2] and the scope b[5:3] of a scalar access (R203). -/
def Scope.ofB (r : Reg) : Option (Option Scope) :=
  if r.getLsbD 2 then (Scope.ofCode (r.extractLsb' 3 3)).map some else some none

/-- The b field of a memory access: SP, the order bit and the scope (R203). -/
def memB (sp : Space) (o : Option Scope) : Reg :=
  match o with
  | none => sp.code.setWidth 6
  | some s => s.code ++ (1#1 ++ sp.code)
/-- The b field of vld: SP and WM (R217). -/
def vldB (sp : Space) (wm : Option Reg) : Reg := (b1 wm.isSome ++ sp.code).setWidth 6

def Ord.code : Ord → BitVec 2
  | .none => 0 | .acq => 1 | .rel => 2 | .ar => 3
def Ord.ofAtt (v : BitVec 8) : Ord :=
  match (v.extractLsb' 2 2).toNat with
  | 0 => .none | 1 => .acq | 2 => .rel | _ => .ar
/-- The attribute byte of an atomic (R207). -/
def attByte (dbl : Bool) (o : Ord) (sc : Scope) (sp : Space) : BitVec 8 := b1 dbl ++ sc.code ++ o.code ++ sp.code
def attWord (att : BitVec 8) (disp : BitVec 24) : BitVec 32 := disp ++ att

def MSize.code : MSize → BitVec 4
  | .b => 0 | .h => 1 | .w => 2 | .d => 3 | .q => 4
def MSize.ofCode (v : BitVec 4) : Option MSize :=
  match (v.extractLsb' 0 3).toNat with
  | 0 => some .b | 1 => some .h | 2 => some .w | 3 => some .d | 4 => some .q | _ => none
def memF4 (sz : MSize) (sx : Bool) : BitVec 4 := sz.code ||| (b4 sx <<< 3)
def casF4 : MSize → BitVec 4
  | .d => 1 | .q => 2 | _ => 0
def casSize (v : BitVec 4) : Option MSize :=
  match v.toNat with
  | 0 => some .w | 1 => some .d | 2 => some .q | _ => none

def VSize.code : VSize → BitVec 4
  | .n => 0 | .b => 1 | .h => 2 | .w => 3 | .d => 4
def VSize.ofCode (v : BitVec 4) : Option VSize :=
  match v.toNat with
  | 0 => some .n | 1 => some .b | 2 => some .h | 3 => some .w | 4 => some .d | _ => none

def Cc.code : Cc → BitVec 4
  | .eq => 0 | .ne => 1 | .lt => 2 | .ltu => 3 | .le => 4 | .leu => 5
def Cc.ofCode (v : BitVec 4) : Option Cc :=
  match v.toNat with
  | 0 => some .eq | 1 => some .ne | 2 => some .lt | 3 => some .ltu | 4 => some .le | 5 => some .leu | _ => none

def ICc.reg : ICc → Reg
  | .eq => 0 | .ne => 1 | .lt => 2 | .le => 3 | .gt => 4 | .ge => 5
def ICc.ofReg (v : Reg) : Option ICc :=
  match v.toNat with
  | 0 => some .eq | 1 => some .ne | 2 => some .lt | 3 => some .le | 4 => some .gt | 5 => some .ge | _ => none

def FCc.reg : FCc → Reg
  | .eq => 0 | .ne => 1 | .lt => 2 | .le => 3 | .gt => 4 | .ge => 5 | .un => 6 | .or => 7
def FCc.ofReg (v : Reg) : Option FCc :=
  match v.toNat with
  | 0 => some .eq | 1 => some .ne | 2 => some .lt | 3 => some .le | 4 => some .gt | 5 => some .ge | 6 => some .un
  | 7 => some .or | _ => none

def Rm.code : Rm → BitVec 4
  | .rne => 0 | .rup => 1 | .rdn => 2 | .rtz => 3 | .rsr => 4 | .dyn => 7
def Rm.ofCode (v : BitVec 4) : Option Rm :=
  match v.toNat with
  | 0 => some .rne | 1 => some .rup | 2 => some .rdn | 3 => some .rtz | 4 => some .rsr | 7 => some .dyn | _ => none

def Axis.code : Axis → BitVec 4
  | .e => 0 | .x => 1 | .y => 2 | .z => 3
def Axis.ofCode (v : BitVec 4) : Option Axis :=
  match v.toNat with
  | 0 => some .e | 1 => some .x | 2 => some .y | 3 => some .z | _ => none

def AtomOp.code : AtomOp → BitVec 4
  | .add => 0 | .and => 1 | .or => 2 | .xor => 3 | .min => 4 | .max => 5 | .minu => 6 | .maxu => 7 | .xchg => 8 | .fadd => 9
def AtomOp.ofCode (v : BitVec 4) : Option AtomOp :=
  match v.toNat with
  | 0 => some .add | 1 => some .and | 2 => some .or | 3 => some .xor | 4 => some .min | 5 => some .max | 6 => some .minu
  | 7 => some .maxu | 8 => some .xchg | 9 => some .fadd | _ => none

def SgnOp.reg : SgnOp → Reg
  | .cp => 0 | .neg => 1 | .xor => 2
def SgnOp.ofReg (v : Reg) : Option SgnOp :=
  match v.toNat with
  | 0 => some .cp | 1 => some .neg | 2 => some .xor | _ => none

def MKind.code : MKind → BitVec 4
  | .f32 => 0 | .i32 => 1 | .f64 => 2
def MKind.ofCode (v : BitVec 4) : Option MKind :=
  match v.toNat with
  | 0 => some .f32 | 1 => some .i32 | 2 => some .f64 | _ => none

def idxShift (r : Reg) : Option (BitVec 3) := if (r.extractLsb' 3 3).toNat ≤ 4 then some (r.extractLsb' 3 3) else none
/-- The c field of an indexed access: SH, IW and SP (R220). -/
def idxC (sp : Space) (w64 : Bool) (sh : BitVec 3) : Reg := sh ++ (b1 w64 ++ sp.code)
/-- The b field of vunpack (R176). -/
def unpB (half bf : Bool) : Reg := (b1 bf ++ b1 half).setWidth 6

def srcReg : Src → Reg
  | .reg r => r | .lit _ => 0
def srcLit : Src → BitVec 32
  | .reg _ => 0 | .lit k => k
def litShort : Lit → BitVec 10
  | .short i => i | .long _ => 0
def litLong : Lit → BitVec 32
  | .short _ => 0 | .long k => k

/-- The fields that hold a vtype image: the S form spreads it over f4, a, b and imm8, the L form carries it in K (R117). -/
def vtF4 (f : Form) (img : BitVec 24) : BitVec 4 := if f = .s then img.extractLsb' 0 4 else 0
def vtA (f : Form) (img : BitVec 24) : BitVec 6 := if f = .s then img.extractLsb' 4 6 else 0
def vtB (f : Form) (img : BitVec 24) : BitVec 6 := if f = .s then (img.extractLsb' 10 3).setWidth 6 else 0
/-- The upper bits of a control register number in the S form (R367). -/
def ctlC (f : Form) (n : BitVec 12) : BitVec 6 := if f = .s then (n.extractLsb' 8 4).setWidth 6 else 0

/-! ### The encoder -/

/-- The fields an instruction with modifiers has: `imm` is imm8 in the S form, `k` is K in the L form. -/
def Mods.enc (m : Mods) (e : Enc) (imm : BitVec 8) (k : BitVec 32) : Enc :=
  { e with
    form := m.form, g := m.g, gn := m.gn, la := m.la, lb := m.lb, oa := m.oa
    imm8 := match m.form with | .c => 0 | .s => imm | .l => m.hint
    w2 := match m.form with | .l => k | _ => 0 }

/-- The same for a pair whose word 2 is the extension word (R70). -/
def Mods.encX (m : Mods) (e : Enc) (imm : BitVec 8) (_ : BitVec 32) : Enc :=
  { e with
    form := m.form, g := m.g, gn := m.gn, la := m.la, lb := m.lb, oa := m.oa
    imm8 := match m.form with | .c => 0 | .s => imm | .l => m.hint
    w2 := match m.form with | .l => ((b1 m.lc ++ m.oc.bits) ++ m.ob.bits).setWidth 32 | _ => 0 }

/-- The fields of each instruction (R76 and the instruction's own description). An event has no encoding. -/
def Instr.enc : Instr → Enc
  | .add m d a b => m.enc { op := 0x00, d := d, a := a, b := srcReg b } 0 (srcLit b)
  | .sub m d a b => m.enc { op := 0x00, f4 := 1, d := d, a := a, b := srcReg b } 0 (srcLit b)
  | .and m d a b => m.enc { op := 0x00, f4 := 2, d := d, a := a, b := srcReg b } 0 (srcLit b)
  | .or m d a b => m.enc { op := 0x00, f4 := 3, d := d, a := a, b := srcReg b } 0 (srcLit b)
  | .xor m d a b => m.enc { op := 0x00, f4 := 4, d := d, a := a, b := srcReg b } 0 (srcLit b)
  | .andn m d a b => m.enc { op := 0x00, f4 := 5, d := d, a := a, b := srcReg b } 0 (srcLit b)
  | .shl m d a b => m.enc { op := 0x00, f4 := 6, d := d, a := a, b := srcReg b } 0 (srcLit b)
  | .shr m d a b => m.enc { op := 0x00, f4 := 7, d := d, a := a, b := srcReg b } 0 (srcLit b)
  | .sra m d a b => m.enc { op := 0x00, f4 := 8, d := d, a := a, b := srcReg b } 0 (srcLit b)
  | .rol m d a b => m.enc { op := 0x00, f4 := 9, d := d, a := a, b := srcReg b } 0 (srcLit b)
  | .min m d a b => m.enc { op := 0x00, f4 := 10, d := d, a := a, b := srcReg b } 0 (srcLit b)
  | .minu m d a b => m.enc { op := 0x00, f4 := 11, d := d, a := a, b := srcReg b } 0 (srcLit b)
  | .max m d a b => m.enc { op := 0x00, f4 := 12, d := d, a := a, b := srcReg b } 0 (srcLit b)
  | .maxu m d a b => m.enc { op := 0x00, f4 := 13, d := d, a := a, b := srcReg b } 0 (srcLit b)
  | .addImm d a i => { op := 0x04, f4 := i.extractLsb' 6 4, b := i.extractLsb' 0 6, d := d, a := a }
  | .andImm d a i => { op := 0x05, f4 := i.extractLsb' 6 4, b := i.extractLsb' 0 6, d := d, a := a }
  | .orImm d a i => { op := 0x06, f4 := i.extractLsb' 6 4, b := i.extractLsb' 0 6, d := d, a := a }
  | .xorImm d a i => { op := 0x07, f4 := i.extractLsb' 6 4, b := i.extractLsb' 0 6, d := d, a := a }
  | .shlImm d a i => { op := 0x08, d := d, a := a, b := i }
  | .shrImm d a i => { op := 0x09, d := d, a := a, b := i }
  | .sraImm d a i => { op := 0x0a, d := d, a := a, b := i }
  | .rolImm d a i => { op := 0x0b, d := d, a := a, b := i }
  | .mul m d a b => m.enc { op := 0x01, d := d, a := a, b := b } 0 0
  | .mulh m d a b => m.enc { op := 0x01, f4 := 1, d := d, a := a, b := b } 0 0
  | .mulhu m d a b => m.enc { op := 0x01, f4 := 2, d := d, a := a, b := b } 0 0
  | .div m d a b => m.enc { op := 0x01, f4 := 3, d := d, a := a, b := b } 0 0
  | .divu m d a b => m.enc { op := 0x01, f4 := 4, d := d, a := a, b := b } 0 0
  | .rem m d a b => m.enc { op := 0x01, f4 := 5, d := d, a := a, b := b } 0 0
  | .remu m d a b => m.enc { op := 0x01, f4 := 6, d := d, a := a, b := b } 0 0
  | .clz m d a => m.enc { op := 0x02, d := d, a := a } 0 0
  | .ctz m d a => m.enc { op := 0x02, f4 := 1, d := d, a := a } 0 0
  | .popc m d a => m.enc { op := 0x02, f4 := 2, d := d, a := a } 0 0
  | .lea m d a b sh disp => m.enc { op := 0x03, f4 := sh, d := d, a := a, b := b } (disp) 0
  | .sext d a n => { op := 0x0c, d := d, a := a, b := n }
  | .zext d a n => { op := 0x0d, d := d, a := a, b := n }
  | .li m d v => m.enc { op := 0x1c, f4 := (litShort v).extractLsb' 6 4, b := (litShort v).extractLsb' 0 6, d := d } 0 (litLong v)
  | .lih m d k => m.enc { op := 0x1d, d := d } 0 (k)
  | .cmp m d a b cc => m.enc { op := 0x0e, f4 := cc.code, d := d, a := a, b := srcReg b } 0 (srcLit b)
  | .sel m d a b c => m.enc { op := 0x0f, d := d, a := a, b := b, c := c } 0 0
  | .pand m d a b => m.enc { op := 0x10, d := d, a := a, b := b } 0 0
  | .por m d a b => m.enc { op := 0x10, f4 := 1, d := d, a := a, b := b } 0 0
  | .pxor m d a b => m.enc { op := 0x10, f4 := 2, d := d, a := a, b := b } 0 0
  | .pnot m d a => m.enc { op := 0x10, f4 := 3, d := d, a := a } 0 0
  | .pget m d a b => m.enc { op := 0x11, d := d, a := a, b := b } 0 0
  | .pset m d a b => m.enc { op := 0x11, f4 := 1, d := d, a := a, b := b } 0 0
  | .pcount m d a => m.enc { op := 0x11, f4 := 2, d := d, a := a } 0 0
  | .pfirst m d a => m.enc { op := 0x11, f4 := 3, d := d, a := a } 0 0
  | .br m disp => m.enc { op := 0x20 } (low8 disp) (disp)
  | .jal m d disp => m.enc { op := 0x21, d := d } (low8 disp) (disp)
  | .jr m d a => m.enc { op := 0x22, d := d, a := a } 0 0
  | .jtab m a n disp => m.enc { op := 0x23, a := a, b := n.extractLsb' 6 6, c := n.extractLsb' 0 6 } (low8 disp) (disp)
  | .bmz m disp => m.enc { op := 0x24 } (low8 disp) (disp)
  | .bmnz m disp => m.enc { op := 0x24, f4 := 1 } (low8 disp) (disp)
  | .strip m d a => m.enc { op := 0x25, d := d, a := a } 0 0
  | .snext m d disp => m.enc { op := 0x26, d := d } (low8 disp) (disp)
  | .press m len1 a k => m.enc { op := 0x27, d := len1, a := a } 0 (k)
  | .exit => { op := 0x28 }
  | .yield => { op := 0x29 }
  | .nop => { op := 0x2a }
  | .ld m d a sz sx sp acq disp => m.enc { op := 0x30, f4 := memF4 sz sx, d := d, a := a, b := memB sp acq } (low8 disp) (disp)
  | .st m d a sz sp rel disp => m.enc { op := 0x31, f4 := memF4 sz false, d := d, a := a, b := memB sp rel } (low8 disp) (disp)
  | .ldro m d a sz sx disp => m.enc { op := 0x32, f4 := memF4 sz sx, d := d, a := a } (low8 disp) (disp)
  | .ldtag m d a sp disp => m.enc { op := 0x33, d := d, a := a, b := memB sp none } (low8 disp) (disp)
  | .atom m d a b c op dbl ord sc sp disp => m.enc { op := 0x34, f4 := op.code, d := d, a := a, b := b, c := c } (attByte dbl ord sc sp) (attWord (attByte dbl ord sc sp) disp)
  | .cas m d a b c sz ord sc sp disp => m.enc { op := 0x35, f4 := casF4 sz, d := d, a := a, b := b, c := c } (attByte false ord sc sp) (attWord (attByte false ord sc sp) disp)
  | .fence kinds sc => { op := 0x36, d := kinds, a := sc.reg }
  | .drain => { op := 0x37 }
  | .flush m ack a b => m.enc { op := 0x38, f4 := b4 ack, a := a, b := b } 0 0
  | .inval m ack a b => m.enc { op := 0x39, f4 := b4 ack, a := a, b := b } 0 0
  | .seal m a b => m.enc { op := 0x3a, a := a, b := b } 0 0
  | .cavecfg d a => { op := 0x3b, d := d, a := a }
  | .cavewb d a => { op := 0x3c, d := d, a := a }
  | .vtype m d img => m.enc { op := 0x40, f4 := vtF4 m.form img, d := d, a := vtA m.form img, b := vtB m.form img } (img.extractLsb' 16 8) (img.setWidth 32)
  | .vlset m d a => m.enc { op := 0x41, d := d, a := a } 0 0
  | .quire m n a b c => m.enc { op := 0x42, d := n, a := a, b := b, c := c } 0 0
  | .sscaleFromBrick m d a => m.enc { op := 0x43, d := d, a := a } 0 0
  | .sscaleToBrick m d a => m.enc { op := 0x43, f4 := 1, d := d, a := a } 0 0
  | .sscaleLoad m d a sp disp => m.enc { op := 0x43, f4 := 2, d := d, a := a, b := memB sp none } (disp) 0
  | .sscaleStore m d a sp disp => m.enc { op := 0x43, f4 := 3, d := d, a := a, b := memB sp none } (disp) 0
  | .vadd m d a b => m.encX { op := 0x44, d := d, a := a, b := b } 0 0
  | .vsub m d a b => m.encX { op := 0x44, f4 := 1, d := d, a := a, b := b } 0 0
  | .vand m d a b => m.encX { op := 0x44, f4 := 2, d := d, a := a, b := b } 0 0
  | .vor m d a b => m.encX { op := 0x44, f4 := 3, d := d, a := a, b := b } 0 0
  | .vxor m d a b => m.encX { op := 0x44, f4 := 4, d := d, a := a, b := b } 0 0
  | .vshl m d a b => m.encX { op := 0x44, f4 := 5, d := d, a := a, b := b } 0 0
  | .vshr m d a b => m.encX { op := 0x44, f4 := 6, d := d, a := a, b := b } 0 0
  | .vsra m d a b => m.encX { op := 0x44, f4 := 7, d := d, a := a, b := b } 0 0
  | .vmin m d a b => m.encX { op := 0x44, f4 := 8, d := d, a := a, b := b } 0 0
  | .vmax m d a b => m.encX { op := 0x44, f4 := 9, d := d, a := a, b := b } 0 0
  | .vmul m d a b => m.encX { op := 0x45, d := d, a := a, b := b } 0 0
  | .vmulh m d a b => m.encX { op := 0x45, f4 := 1, d := d, a := a, b := b } 0 0
  | .vsadd m d a b => m.encX { op := 0x46, d := d, a := a, b := b } 0 0
  | .vssub m d a b => m.encX { op := 0x46, f4 := 1, d := d, a := a, b := b } 0 0
  | .vdot m d a b sf => m.encX { op := 0x47, d := d, a := a, b := b, c := sf.reg } 0 0
  | .vcmp m d a b cc => m.encX { op := 0x48, d := d, a := a, b := b, c := cc.reg } 0 0
  | .vsel m d a b c => m.encX { op := 0x49, d := d, a := a, b := b, c := c } 0 0
  | .vbcast m d a => m.enc { op := 0x4a, d := d, a := srcReg a } 0 (srcLit a)
  | .vid m d ax => m.enc { op := 0x4b, f4 := ax.code, d := d } 0 0
  | .mpush m a => m.enc { op := 0x50, a := a } 0 0
  | .mpop m => m.enc { op := 0x51 } 0 0
  | .minv m => m.enc { op := 0x52 } 0 0
  | .mtop m d => m.enc { op := 0x53, d := d } 0 0
  | .vfetch m disp => m.enc { op := 0x54 } (low8 disp) (disp)
  | .vfetchOrd m disp => m.enc { op := 0x54, f4 := 1 } (low8 disp) (disp)
  | .vend => { op := 0x55 }
  | .vfadd m d a b rm => m.encX { op := 0x58, f4 := rm.code, d := d, a := a, b := b } 0 0
  | .vfsub m d a b rm => m.encX { op := 0x59, f4 := rm.code, d := d, a := a, b := b } 0 0
  | .vfmul m d a b rm => m.encX { op := 0x5a, f4 := rm.code, d := d, a := a, b := b } 0 0
  | .vfdiv m d a b rm => m.encX { op := 0x61, f4 := rm.code, d := d, a := a, b := b } 0 0
  | .vfma m d a b c rm => m.encX { op := 0x5b, f4 := rm.code, d := d, a := a, b := b, c := c } 0 0
  | .vfnma m d a b c rm => m.encX { op := 0x5c, f4 := rm.code, d := d, a := a, b := b, c := c } 0 0
  | .vfmin m d a b => m.encX { op := 0x5d, d := d, a := a, b := b } 0 0
  | .vfmax m d a b => m.encX { op := 0x5e, d := d, a := a, b := b } 0 0
  | .vfsgn m d a b v => m.encX { op := 0x5f, d := d, a := a, b := b, c := v.reg } 0 0
  | .vfcmp m d a b cc => m.encX { op := 0x60, d := d, a := a, b := b, c := cc.reg } 0 0
  | .vfsqrt m d a rm => m.encX { op := 0x62, f4 := rm.code, d := d, a := a } 0 0
  | .vcvt m d a sf rm => m.encX { op := 0x63, f4 := rm.code, d := d, a := a, b := sf.reg } 0 0
  | .vpack m d a b rm => m.encX { op := 0x64, f4 := rm.code, d := d, a := a, b := b } 0 0
  | .vunpack m d a half bf rm => m.encX { op := 0x65, f4 := rm.code, d := d, a := a, b := unpB half bf } 0 0
  | .vexp2 m d a => m.encX { op := 0x66, d := d, a := a } 0 0
  | .vlog2 m d a => m.encX { op := 0x67, d := d, a := a } 0 0
  | .vrcp m d a => m.encX { op := 0x68, d := d, a := a } 0 0
  | .vrsqrt m d a => m.encX { op := 0x69, d := d, a := a } 0 0
  | .vsinpi m d a => m.encX { op := 0x6a, d := d, a := a } 0 0
  | .vcospi m d a => m.encX { op := 0x6b, d := d, a := a } 0 0
  | .vtanh m d a => m.encX { op := 0x6c, d := d, a := a } 0 0
  | .vsigm m d a => m.encX { op := 0x6d, d := d, a := a } 0 0
  | .vrand m d a b k => m.enc { op := 0x6e, d := d, a := a, b := b } 0 (k)
  | .vrandU m d a b k => m.enc { op := 0x6e, f4 := 1, d := d, a := a, b := b } 0 (k)
  | .vld m d a sz sp wm disp => m.enc { op := 0x70, f4 := sz.code, d := d, a := a, b := vldB sp wm, c := wm.getD 0 } (low8 disp) (disp)
  | .vst m d a sz sp disp => m.enc { op := 0x71, f4 := sz.code, d := d, a := a, b := memB sp none } (low8 disp) (disp)
  | .vstu m d a sz sp disp => m.enc { op := 0x72, f4 := sz.code, d := d, a := a, b := memB sp none } (low8 disp) (disp)
  | .vlds m d a b sz sp disp => m.enc { op := 0x73, f4 := sz.code, d := d, a := a, b := b, c := memB sp none } (low8 disp) (disp)
  | .vsts m d a b sz sp disp => m.enc { op := 0x74, f4 := sz.code, d := d, a := a, b := b, c := memB sp none } (low8 disp) (disp)
  | .vldx m d a b sz sp w64 sh => m.encX { op := 0x75, f4 := sz.code, d := d, a := a, b := b, c := idxC sp w64 sh } 0 0
  | .vstx m d a b sz sp w64 sh => m.encX { op := 0x76, f4 := sz.code, d := d, a := a, b := b, c := idxC sp w64 sh } 0 0
  | .vscadd m d a b rm sp w64 sh => m.encX { op := 0x77, f4 := rm.code, d := d, a := a, b := b, c := idxC sp w64 sh } 0 0
  | .vldro m d a sz disp => m.enc { op := 0x78, f4 := sz.code, d := d, a := a } (low8 disp) (disp)
  | .sld m d h => m.enc { op := 0x79, d := d, a := h } 0 0
  | .sst m d h => m.enc { op := 0x7a, d := d, a := h } 0 0
  | .vperm m d a b => m.enc { op := 0x80, d := d, a := a, b := b } 0 0
  | .vrot m d a b => m.enc { op := 0x81, d := d, a := a, b := b } 0 0
  | .vxget m d a b => m.enc { op := 0x82, d := d, a := a, b := b } 0 0
  | .vxput m d a b => m.enc { op := 0x83, d := d, a := a, b := b } 0 0
  | .vredsum m d a b rm => m.enc { op := 0x84, f4 := rm.code, d := d, a := a, b := b } 0 0
  | .vredsumu m d a b rm => m.enc { op := 0x85, f4 := rm.code, d := d, a := a, b := b } 0 0
  | .vscan m d a b rm => m.enc { op := 0x88, f4 := rm.code, d := d, a := a, b := b } 0 0
  | .vredmax m d a b => m.enc { op := 0x86, d := d, a := a, b := b } 0 0
  | .vredmin m d a b => m.enc { op := 0x87, d := d, a := a, b := b } 0 0
  | .vcompress m d a => m.enc { op := 0x89, d := d, a := a } 0 0
  | .vexpand m d a => m.enc { op := 0x8a, d := d, a := a } 0 0
  | .mopa m d a b => m.encX { op := 0x90, d := d, a := a, b := b } 0 0
  | .mopaRows m d a b => m.encX { op := 0x90, f4 := 1, d := d, a := a, b := b } 0 0
  | .mzero d => { op := 0x91, d := d }
  | .mrd m d a b => m.enc { op := 0x92, d := d, a := a, b := b } 0 0
  | .mwr m d a b => m.enc { op := 0x93, d := d, a := a, b := b } 0 0
  | .mflush m kind sp a b c disp => m.enc { op := 0x94, f4 := kind.code, d := memB sp none, a := a, b := b, c := c } (low8 disp) (disp)
  | .mwait => { op := 0x95 }
  | .rowact m d a => m.enc { op := 0xa0, d := d, a := a } 0 0
  | .rowclose m d => m.enc { op := 0xa1, d := d } 0 0
  | .rowstat m d => m.enc { op := 0xa2, d := d } 0 0
  | .rowstatH m d a => m.enc { op := 0xa2, f4 := 1, d := d, a := a } 0 0
  | .fbind m d a => m.enc { op := 0xa3, d := d, a := a } 0 0
  | .fseek m d a => m.enc { op := 0xa4, d := d, a := a } 0 0
  | .frel m d => m.enc { op := 0xa5, d := d } 0 0
  | .enq m d a b gt => m.enc { op := 0xa8, f4 := b4 gt, d := d, a := a, b := b } 0 0
  | .enqb m d a b gt => m.enc { op := 0xa9, f4 := b4 gt, d := d, a := a, b := b } 0 0
  | .epop m d gt => m.enc { op := 0xaa, f4 := b4 gt, d := d } 0 0
  | .epopSus m d gt => m.enc { op := 0xaa, f4 := 2#4 ||| b4 gt, d := d } 0 0
  | .estat m d gt => m.enc { op := 0xab, f4 := b4 gt, d := d } 0 0
  | .estatN m d a => m.enc { op := 0xab, f4 := 2, d := d, a := a } 0 0
  | .qpush m d a => m.enc { op := 0xac, d := d, a := a } 0 0
  | .qpushBrick m d a => m.enc { op := 0xac, f4 := 1, d := d, a := a } 0 0
  | .qpop m d a => m.enc { op := 0xad, d := d, a := a } 0 0
  | .qpopBrick m d a => m.enc { op := 0xad, f4 := 1, d := d, a := a } 0 0
  | .gload m a b => m.enc { op := 0xae, a := a, b := b } 0 0
  | .gsig m a => m.enc { op := 0xaf, a := a } 0 0
  | .gwait m a => m.enc { op := 0xb0, a := a } 0 0
  | .gwaitSus m a => m.enc { op := 0xb0, f4 := 1, a := a } 0 0
  | .wmpub m d a => m.enc { op := 0xb1, d := d, a := a } 0 0
  | .wmpubInit m d a => m.enc { op := 0xb1, f4 := 1, d := d, a := a } 0 0
  | .wmrd m d a => m.enc { op := 0xb2, d := d, a := a } 0 0
  | .wmrdBound m d a => m.enc { op := 0xb2, f4 := 1, d := d, a := a } 0 0
  | .spawn m d a b c => m.enc { op := 0xb8, d := d, a := a, b := b, c := c } 0 0
  | .suspend m => m.enc { op := 0xb9 } 0 0
  | .suspendLd m d a => m.enc { op := 0xb9, f4 := 1, d := d, a := a } 0 0
  | .suspendRow m d a => m.enc { op := 0xb9, f4 := 2, d := d, a := a } 0 0
  | .tdone m => m.enc { op := 0xba } 0 0
  | .kpt m => m.enc { op := 0xbb } 0 0
  | .bnd m a => m.enc { op := 0xbc, a := a } 0 0
  | .incupd m d a b => m.enc { op := 0xbd, d := d, a := a, b := b } 0 0
  | .incupdSet m d a b => m.enc { op := 0xbd, f4 := 1, d := d, a := a, b := b } 0 0
  | .incrd m d a => m.enc { op := 0xbe, d := d, a := a } 0 0
  | .incrdSh m d a => m.enc { op := 0xbe, f4 := 1, d := d, a := a } 0 0
  | .regl m d a => m.enc { op := 0xbf, d := d, a := a } 0 0
  | .ctlr m d n => m.enc { op := 0xc8, d := d, c := ctlC m.form n } (n.extractLsb' 0 8) (n.setWidth 32)
  | .ctlw m d a n => m.enc { op := 0xc9, d := d, a := a, c := ctlC m.form n } (n.extractLsb' 0 8) (n.setWidth 32)
  | .ctlwSet m d a n => m.enc { op := 0xc9, f4 := 1, d := d, a := a, c := ctlC m.form n } (n.extractLsb' 0 8) (n.setWidth 32)
  | .ctlwClr m d a n => m.enc { op := 0xc9, f4 := 2, d := d, a := a, c := ctlC m.form n } (n.extractLsb' 0 8) (n.setWidth 32)
  | .sys code => { op := 0xca, d := code.extractLsb' 0 6, a := code.extractLsb' 6 6 }
  | .eret => { op := 0xcb }
  | .brk code => { op := 0xcc, d := code.extractLsb' 0 6, a := code.extractLsb' 6 6 }
  | .snap d => { op := 0xcd, d := d }
  | .tlbinvAll => { op := 0xce }
  | .tlbinvAsid b => { op := 0xce, f4 := 1, b := b }
  | .tlbinvPage a b => { op := 0xce, f4 := 2, a := a, b := b }
  | .tlbinvGpage a => { op := 0xce, f4 := 3, a := a }
  | .tlbinvUser => { op := 0xce, f4 := 4 }
  | .illLen _ => {}
  | .illOp _ _ => {}
  | .fetchXlate _ _ => {}
  | .asyncTrap => {}
  | .lpAddr _ _ => {}
  | .lpArg _ _ => {}
  | .lpToken _ _ => {}
  | .lpFlags _ _ => {}
  | .lpGo _ _ => {}
  | .launchCheck _ => {}
  | .launchDequeue _ => {}
  | .placementDraw _ => {}
  | .poolDispatch _ => {}
  | .preemptSwitchOut _ => {}
  | .contextResume _ _ => {}
  | .rowActivation _ _ => {}
  | .rowOpenDone _ _ => {}
  | .rowHoldExpiry _ _ => {}
  | .rowClose _ _ => {}
  | .rowCloseDone _ _ => {}
  | .streamGroupClose _ _ => {}
  | .extentRelocation _ _ _ => {}
  | .pagePromotion _ _ _ _ => {}
  | .storePerform _ => {}
  | .loadPerform _ => {}
  | .atomicPerform _ _ _ _ => {}
  | .mflushAddition _ => {}
  | .vscaddUpdate _ => {}
  | .rangeWalkDone _ => {}
  | .matrixEngineStart _ => {}
  | .engineCommandStart _ _ => {}
  | .engineResultPost _ _ => {}
  | .graphNodeStart _ _ => {}
  | .graphNodeComplete _ _ => {}
  | .graphLeafLoad _ _ => {}
  | .gangDeadlock _ _ _ => {}
  | .suspendComplete _ _ => {}
  | .graderUpdate _ _ => {}
  | .shadowRefresh _ _ _ => {}
  | .regionRetire _ _ => {}
  | .deviceReset => {}
  | .towerTrained _ => {}
  | .firmwareImage _ _ => {}
  | .spdmCertificate => {}
  | .spdmChallenge _ => {}
  | .spdmMeasurements => {}
  | .spdmKeyExchange _ => {}
  | .firstThreshold _ _ => {}
  | .secondThreshold _ _ => {}
  | .thirdThreshold _ _ => {}
  | .evacuationEnd _ _ => {}
  | .belowFirstThreshold _ _ => {}
  | .tlimClear _ => {}
  | .caveRecover _ => {}
  | .softError _ => {}
  | .supplySag _ => {}
  | .throttleStart => {}
  | .throttleEnd => {}
  | .cxlMemRead _ _ => {}
  | .cxlMemWrite _ _ _ => {}
  | .hostSnoop _ => {}
  | .atomicopCompletion _ _ => {}
  | .relebRequest _ => {}
  | .relebTimeout _ => {}
  | .dmode _ => {}
  | .respWalkAgain _ => {}
  | .respRaiseTrap _ => {}
  | .respPolicy _ _ => {}
  | .respResume _ => {}
  | .respClearPoison _ => {}
  | .respKeepPoison _ => {}
  | .respAcceptLaunch _ => {}
  | .respRejectLaunch _ _ => {}
  | .snapshotTrigger => {}
  | .snapshotRelease => {}
  | .registerWrite _ _ => {}
  | .evcons _ => {}
  | .queuePairTable _ _ => {}
  | .poisonMarkerClear _ => {}
  | .portPageGrant _ _ _ _ _ => {}

/-- Word 0 (R68). -/
def Enc.word0 (e : Enc) : BitVec 32 := e.f4 ++ e.b ++ e.a ++ e.d ++ e.op ++ e.form.code

/-- Word 1 of the S and L forms (R69). -/
def Enc.word1 (e : Enc) : BitVec 32 := e.imm8 ++ e.c ++ e.oa.bits ++ b1 e.lb ++ b1 e.la ++ b1 e.gn ++ e.g

/-- The words of an instruction in memory order (R66). -/
def Enc.words (e : Enc) : List (BitVec 32) :=
  match e.form with
  | .c => [e.word0]
  | .s => [e.word0, e.word1]
  | .l => [e.word0, e.word1, e.w2]

/-- The encoder. -/
def encode (i : Instr) : List (BitVec 32) := i.enc.words

/-- How many bytes an instruction takes (R66). -/
def Instr.bytes (i : Instr) : Nat := 4 * i.enc.form.words

/-- tval of a decode trap: word 0 in bits 31:0 and word 1, if any, in bits 63:32 (R77). -/
def Instr.tval (i : Instr) : Word :=
  match i.enc.form with
  | .c => i.enc.word0.setWidth 64
  | _ => i.enc.word1 ++ i.enc.word0

/-! ### The decoder -/

/-- Why decoding refuses the words (R77, items 1, 3 and 4). -/
inductive DecErr where
  | illLen | illOp | illEnc
  deriving DecidableEq, Repr

def Form.ofCode (v : BitVec 2) : Option Form :=
  match v.toNat with
  | 0 => some .c | 1 => some .s | 2 => some .l | _ => none

/-- The fields of the words of a form; words the form lacks are 0. -/
def Enc.ofWords (f : Form) (w0 w1 w2 : BitVec 32) : Enc :=
  let u := match f with | .c => 0 | _ => w1
  { form := f, op := w0.extractLsb' 2 8, f4 := w0.extractLsb' 28 4, b := w0.extractLsb' 22 6, a := w0.extractLsb' 16 6
    d := w0.extractLsb' 10 6, g := u.extractLsb' 0 6, gn := u.getLsbD 6, la := u.getLsbD 7, lb := u.getLsbD 8
    oa := Off.ofBits (u.extractLsb' 9 9), c := u.extractLsb' 18 6, imm8 := u.extractLsb' 24 8
    w2 := match f with | .l => w2 | _ => 0 }

def Enc.hint (e : Enc) : BitVec 8 := match e.form with | .l => e.imm8 | _ => 0
def Enc.mods (e : Enc) : Mods :=
  { form := e.form, g := e.g, gn := e.gn, la := e.la, lb := e.lb, oa := e.oa, hint := e.hint }
def Enc.modsX (e : Enc) : Mods :=
  { e.mods with lc := e.w2.getLsbD 18, ob := Off.ofBits (e.w2.extractLsb' 0 9), oc := Off.ofBits (e.w2.extractLsb' 9 9) }
def Enc.src (e : Enc) : Src := match e.form with | .l => .lit e.w2 | _ => .reg e.b
def Enc.srcA (e : Enc) : Src := match e.form with | .l => .lit e.w2 | _ => .reg e.a
def Enc.imm10 (e : Enc) : BitVec 10 := e.f4 ++ e.b
def Enc.liLit (e : Enc) : Lit := match e.form with | .l => .long e.w2 | _ => .short e.imm10
/-- The displacement of the form: none, imm8 or K (R75, R203). -/
def Enc.disp (e : Enc) : BitVec 32 :=
  match e.form with | .c => 0 | .s => e.imm8.signExtend 32 | .l => e.w2
def Enc.litOr0 (e : Enc) : BitVec 32 := match e.form with | .l => e.w2 | _ => 0
def Enc.att (e : Enc) : BitVec 8 := match e.form with | .l => e.w2.setWidth 8 | _ => e.imm8
def Enc.attDisp (e : Enc) : BitVec 24 := match e.form with | .l => e.w2.extractLsb' 8 24 | _ => 0
def Enc.shift (e : Enc) : Option (BitVec 4) := if e.f4.toNat ≤ 4 then some e.f4 else none
def Enc.bodyLen (e : Enc) : Option Reg := if e.d.toNat < 32 && e.g == 0 && !e.gn && e.imm8 == 0 then some e.d else none
def Enc.fenceKinds (e : Enc) : Option (BitVec 6) := if e.d == 0 then none else some e.d
def Enc.wm (e : Enc) : Option Reg := if e.b.getLsbD 2 && e.form != .c then some e.c else none
def Enc.vtImage (e : Enc) : Option (BitVec 24) :=
  let img : BitVec 24 := match e.form with
    | .s => e.imm8 ++ (0#3 ++ (e.b.extractLsb' 0 3 ++ (e.a ++ e.f4)))
    | _ => e.w2.setWidth 24
  if imageOk img then some img else none
def Enc.ctlNum (e : Enc) : Option (BitVec 12) :=
  match e.form with
  | .l => some (e.w2.setWidth 12)
  | _ => some (e.c.extractLsb' 0 4 ++ e.imm8)

/-- The majors that have each form (R76). -/
def cMajors : List Nat :=
  [0x00, 0x01, 0x02, 0x03, 0x04, 0x05, 0x06, 0x07, 0x08, 0x09, 0x0a, 0x0b, 0x0c, 0x0d, 0x0e, 0x10, 0x11, 0x1c, 0x22, 0x25, 0x28, 0x29, 0x2a, 0x30, 0x31, 0x32, 0x33, 0x36, 0x37, 0x38, 0x39, 0x3a, 0x3b, 0x3c, 0x41, 0x42, 0x43, 0x44, 0x45, 0x46, 0x48, 0x4a, 0x4b, 0x50, 0x51, 0x52, 0x53, 0x55, 0x58, 0x59, 0x5a, 0x5d, 0x5e, 0x5f, 0x60, 0x61, 0x62, 0x63, 0x64, 0x65, 0x66, 0x67, 0x68, 0x69, 0x6a, 0x6b, 0x6c, 0x6d, 0x70, 0x71, 0x72, 0x78, 0x79, 0x7a, 0x80, 0x81, 0x82, 0x83, 0x84, 0x85, 0x86, 0x87, 0x88, 0x89, 0x8a, 0x91, 0x92, 0x93, 0x94, 0x95, 0xa0, 0xa1, 0xa2, 0xa3, 0xa4, 0xa5, 0xa8, 0xa9, 0xaa, 0xab, 0xac, 0xad, 0xae, 0xaf, 0xb0, 0xb1, 0xb2, 0xb8, 0xb9, 0xba, 0xbb, 0xbc, 0xbd, 0xbe, 0xbf, 0xca, 0xcb, 0xcc, 0xcd, 0xce]
def sMajors : List Nat :=
  [0x00, 0x01, 0x02, 0x03, 0x0e, 0x0f, 0x10, 0x11, 0x20, 0x21, 0x22, 0x23, 0x24, 0x25, 0x26, 0x30, 0x31, 0x32, 0x33, 0x34, 0x35, 0x38, 0x39, 0x3a, 0x40, 0x41, 0x42, 0x43, 0x44, 0x45, 0x46, 0x47, 0x48, 0x49, 0x4a, 0x4b, 0x50, 0x51, 0x52, 0x53, 0x54, 0x58, 0x59, 0x5a, 0x5b, 0x5c, 0x5d, 0x5e, 0x5f, 0x60, 0x61, 0x62, 0x63, 0x64, 0x65, 0x66, 0x67, 0x68, 0x69, 0x6a, 0x6b, 0x6c, 0x6d, 0x6e, 0x70, 0x71, 0x72, 0x73, 0x74, 0x75, 0x76, 0x77, 0x78, 0x79, 0x7a, 0x80, 0x81, 0x82, 0x83, 0x84, 0x85, 0x86, 0x87, 0x88, 0x89, 0x8a, 0x90, 0x92, 0x93, 0x94, 0xa0, 0xa1, 0xa2, 0xa3, 0xa4, 0xa5, 0xa8, 0xa9, 0xaa, 0xab, 0xac, 0xad, 0xae, 0xaf, 0xb0, 0xb1, 0xb2, 0xb8, 0xb9, 0xba, 0xbb, 0xbc, 0xbd, 0xbe, 0xbf, 0xc8, 0xc9]
def lMajors : List Nat :=
  [0x00, 0x0e, 0x1c, 0x1d, 0x20, 0x21, 0x23, 0x24, 0x26, 0x27, 0x30, 0x31, 0x32, 0x33, 0x34, 0x35, 0x40, 0x44, 0x45, 0x46, 0x47, 0x48, 0x49, 0x4a, 0x54, 0x58, 0x59, 0x5a, 0x5b, 0x5c, 0x5d, 0x5e, 0x5f, 0x60, 0x61, 0x62, 0x63, 0x64, 0x65, 0x66, 0x67, 0x68, 0x69, 0x6a, 0x6b, 0x6c, 0x6d, 0x6e, 0x70, 0x71, 0x72, 0x73, 0x74, 0x75, 0x76, 0x77, 0x78, 0x90, 0x94, 0xc8, 0xc9]

/-- The highest f4 of the rows whose f4 selects a mnemonic or variant, beyond which ILL_OP is raised (R76, R77). -/
def f4Max : List (Nat × Nat) :=
  [(0x00, 13), (0x01, 6), (0x02, 2), (0x0e, 5), (0x10, 3), (0x11, 3), (0x24, 1), (0x34, 9), (0x35, 2), (0x41, 0), (0x42, 0), (0x43, 3), (0x44, 9), (0x45, 1), (0x46, 1), (0x47, 0), (0x48, 0), (0x49, 0), (0x4a, 0), (0x4b, 3), (0x54, 1), (0x6e, 1), (0xa2, 1), (0xa8, 1), (0xa9, 1), (0xaa, 3), (0xab, 2), (0xac, 1), (0xad, 1), (0xb0, 1), (0xb1, 1), (0xb2, 1), (0xb8, 0), (0xb9, 2), (0xba, 0), (0xbb, 0), (0xbc, 0), (0xbd, 1), (0xbe, 1), (0xbf, 0), (0xc8, 0), (0xc9, 2), (0xce, 4)]

/-- Item 3 of R77: the pair is listed, and f4 does not select beyond its row. -/
def Enc.listed (e : Enc) : Bool :=
  (match e.form with
    | .c => cMajors.contains e.op.toNat
    | .s => sMajors.contains e.op.toNat
    | .l => lMajors.contains e.op.toNat) &&
  match f4Max.lookup e.op.toNat with
  | some n => decide (e.f4.toNat ≤ n)
  | none => true

/-- The mnemonic that a row of R76 names with its operands; none where a field holds a reserved value. -/
def pickScalar (e : Enc) : Option Instr :=
  match e.op.toNat, e.f4.toNat with
  | 0x00, 0 => some (.add e.mods e.d e.a e.src)
  | 0x00, 1 => some (.sub e.mods e.d e.a e.src)
  | 0x00, 2 => some (.and e.mods e.d e.a e.src)
  | 0x00, 3 => some (.or e.mods e.d e.a e.src)
  | 0x00, 4 => some (.xor e.mods e.d e.a e.src)
  | 0x00, 5 => some (.andn e.mods e.d e.a e.src)
  | 0x00, 6 => some (.shl e.mods e.d e.a e.src)
  | 0x00, 7 => some (.shr e.mods e.d e.a e.src)
  | 0x00, 8 => some (.sra e.mods e.d e.a e.src)
  | 0x00, 9 => some (.rol e.mods e.d e.a e.src)
  | 0x00, 10 => some (.min e.mods e.d e.a e.src)
  | 0x00, 11 => some (.minu e.mods e.d e.a e.src)
  | 0x00, 12 => some (.max e.mods e.d e.a e.src)
  | 0x00, 13 => some (.maxu e.mods e.d e.a e.src)
  | 0x04, _ => some (.addImm e.d e.a e.imm10)
  | 0x05, _ => some (.andImm e.d e.a e.imm10)
  | 0x06, _ => some (.orImm e.d e.a e.imm10)
  | 0x07, _ => some (.xorImm e.d e.a e.imm10)
  | 0x08, _ => some (.shlImm e.d e.a e.b)
  | 0x09, _ => some (.shrImm e.d e.a e.b)
  | 0x0a, _ => some (.sraImm e.d e.a e.b)
  | 0x0b, _ => some (.rolImm e.d e.a e.b)
  | 0x01, 0 => some (.mul e.mods e.d e.a e.b)
  | 0x01, 1 => some (.mulh e.mods e.d e.a e.b)
  | 0x01, 2 => some (.mulhu e.mods e.d e.a e.b)
  | 0x01, 3 => some (.div e.mods e.d e.a e.b)
  | 0x01, 4 => some (.divu e.mods e.d e.a e.b)
  | 0x01, 5 => some (.rem e.mods e.d e.a e.b)
  | 0x01, 6 => some (.remu e.mods e.d e.a e.b)
  | 0x02, 0 => some (.clz e.mods e.d e.a)
  | 0x02, 1 => some (.ctz e.mods e.d e.a)
  | 0x02, 2 => some (.popc e.mods e.d e.a)
  | 0x03, _ => (e.shift).bind fun sh' => some (.lea e.mods e.d e.a e.b sh' e.imm8)
  | 0x0c, _ => some (.sext e.d e.a e.b)
  | 0x0d, _ => some (.zext e.d e.a e.b)
  | 0x1c, _ => some (.li e.mods e.d e.liLit)
  | 0x1d, _ => some (.lih e.mods e.d e.w2)
  | 0x0e, _ => (Cc.ofCode e.f4).bind fun cc' => some (.cmp e.mods e.d e.a e.src cc')
  | 0x0f, _ => some (.sel e.mods e.d e.a e.b e.c)
  | 0x10, 0 => some (.pand e.mods e.d e.a e.b)
  | 0x10, 1 => some (.por e.mods e.d e.a e.b)
  | 0x10, 2 => some (.pxor e.mods e.d e.a e.b)
  | 0x10, 3 => some (.pnot e.mods e.d e.a)
  | 0x11, 0 => some (.pget e.mods e.d e.a e.b)
  | 0x11, 1 => some (.pset e.mods e.d e.a e.b)
  | 0x11, 2 => some (.pcount e.mods e.d e.a)
  | 0x11, 3 => some (.pfirst e.mods e.d e.a)
  | 0x20, _ => some (.br e.mods e.disp)
  | 0x21, _ => some (.jal e.mods e.d e.disp)
  | 0x22, _ => some (.jr e.mods e.d e.a)
  | 0x23, _ => some (.jtab e.mods e.a (e.b ++ e.c) e.disp)
  | 0x24, 0 => some (.bmz e.mods e.disp)
  | 0x24, 1 => some (.bmnz e.mods e.disp)
  | 0x25, _ => some (.strip e.mods e.d e.a)
  | 0x26, _ => some (.snext e.mods e.d e.disp)
  | 0x27, _ => (e.bodyLen).bind fun len1' => some (.press e.mods len1' e.a e.w2)
  | 0x28, _ => some (.exit)
  | 0x29, _ => some (.yield)
  | 0x2a, _ => some (.nop)
  | _, _ => none

def pickMem (e : Enc) : Option Instr :=
  match e.op.toNat, e.f4.toNat with
  | 0x30, _ => (MSize.ofCode e.f4).bind fun sz' => (Space.ofCode e.b).bind fun sp' => (Scope.ofB e.b).bind fun acq' => some (.ld e.mods e.d e.a sz' (e.f4.getLsbD 3) sp' acq' e.disp)
  | 0x31, _ => (MSize.ofCode e.f4).bind fun sz' => (Space.ofCode e.b).bind fun sp' => (Scope.ofB e.b).bind fun rel' => some (.st e.mods e.d e.a sz' sp' rel' e.disp)
  | 0x32, _ => (MSize.ofCode e.f4).bind fun sz' => some (.ldro e.mods e.d e.a sz' (e.f4.getLsbD 3) e.disp)
  | 0x33, _ => (Space.ofCode e.b).bind fun sp' => some (.ldtag e.mods e.d e.a sp' e.disp)
  | 0x34, _ => (AtomOp.ofCode e.f4).bind fun op' => (Scope.ofCode (e.att.extractLsb' 4 3)).bind fun sc' => (Space.ofAtt e.att).bind fun sp' => some (.atom e.mods e.d e.a e.b e.c op' (e.att.getLsbD 7) (Ord.ofAtt e.att) sc' sp' e.attDisp)
  | 0x35, _ => (casSize e.f4).bind fun sz' => (Scope.ofCode (e.att.extractLsb' 4 3)).bind fun sc' => (Space.ofAtt e.att).bind fun sp' => some (.cas e.mods e.d e.a e.b e.c sz' (Ord.ofAtt e.att) sc' sp' e.attDisp)
  | 0x36, _ => (e.fenceKinds).bind fun kinds' => (Scope.ofCode (e.a.extractLsb' 0 3)).bind fun sc' => some (.fence kinds' sc')
  | 0x37, _ => some (.drain)
  | 0x38, _ => some (.flush e.mods (e.f4.getLsbD 0) e.a e.b)
  | 0x39, _ => some (.inval e.mods (e.f4.getLsbD 0) e.a e.b)
  | 0x3a, _ => some (.seal e.mods e.a e.b)
  | 0x3b, _ => some (.cavecfg e.d e.a)
  | 0x3c, _ => some (.cavewb e.d e.a)
  | _, _ => none

def pickVec (e : Enc) : Option Instr :=
  match e.op.toNat, e.f4.toNat with
  | 0x40, _ => (e.vtImage).bind fun img' => some (.vtype e.mods e.d img')
  | 0x41, _ => some (.vlset e.mods e.d e.a)
  | 0x42, _ => some (.quire e.mods e.d e.a e.b e.c)
  | 0x43, 0 => some (.sscaleFromBrick e.mods e.d e.a)
  | 0x43, 1 => some (.sscaleToBrick e.mods e.d e.a)
  | 0x43, 2 => (Space.ofCode e.b).bind fun sp' => some (.sscaleLoad e.mods e.d e.a sp' e.imm8)
  | 0x43, 3 => (Space.ofCode e.b).bind fun sp' => some (.sscaleStore e.mods e.d e.a sp' e.imm8)
  | 0x44, 0 => some (.vadd e.modsX e.d e.a e.b)
  | 0x44, 1 => some (.vsub e.modsX e.d e.a e.b)
  | 0x44, 2 => some (.vand e.modsX e.d e.a e.b)
  | 0x44, 3 => some (.vor e.modsX e.d e.a e.b)
  | 0x44, 4 => some (.vxor e.modsX e.d e.a e.b)
  | 0x44, 5 => some (.vshl e.modsX e.d e.a e.b)
  | 0x44, 6 => some (.vshr e.modsX e.d e.a e.b)
  | 0x44, 7 => some (.vsra e.modsX e.d e.a e.b)
  | 0x44, 8 => some (.vmin e.modsX e.d e.a e.b)
  | 0x44, 9 => some (.vmax e.modsX e.d e.a e.b)
  | 0x45, 0 => some (.vmul e.modsX e.d e.a e.b)
  | 0x45, 1 => some (.vmulh e.modsX e.d e.a e.b)
  | 0x46, 0 => some (.vsadd e.modsX e.d e.a e.b)
  | 0x46, 1 => some (.vssub e.modsX e.d e.a e.b)
  | 0x47, _ => (Fmt.ofDot e.c).bind fun sf' => some (.vdot e.modsX e.d e.a e.b sf')
  | 0x48, _ => (ICc.ofReg e.c).bind fun cc' => some (.vcmp e.modsX e.d e.a e.b cc')
  | 0x49, _ => some (.vsel e.modsX e.d e.a e.b e.c)
  | 0x4a, _ => some (.vbcast e.mods e.d e.srcA)
  | 0x4b, _ => (Axis.ofCode e.f4).bind fun ax' => some (.vid e.mods e.d ax')
  | 0x50, _ => some (.mpush e.mods e.a)
  | 0x51, _ => some (.mpop e.mods)
  | 0x52, _ => some (.minv e.mods)
  | 0x53, _ => some (.mtop e.mods e.d)
  | 0x54, 0 => some (.vfetch e.mods e.disp)
  | 0x54, 1 => some (.vfetchOrd e.mods e.disp)
  | 0x55, _ => some (.vend)
  | 0x58, _ => (Rm.ofCode e.f4).bind fun rm' => some (.vfadd e.modsX e.d e.a e.b rm')
  | 0x59, _ => (Rm.ofCode e.f4).bind fun rm' => some (.vfsub e.modsX e.d e.a e.b rm')
  | 0x5a, _ => (Rm.ofCode e.f4).bind fun rm' => some (.vfmul e.modsX e.d e.a e.b rm')
  | 0x61, _ => (Rm.ofCode e.f4).bind fun rm' => some (.vfdiv e.modsX e.d e.a e.b rm')
  | 0x5b, _ => (Rm.ofCode e.f4).bind fun rm' => some (.vfma e.modsX e.d e.a e.b e.c rm')
  | 0x5c, _ => (Rm.ofCode e.f4).bind fun rm' => some (.vfnma e.modsX e.d e.a e.b e.c rm')
  | 0x5d, _ => some (.vfmin e.modsX e.d e.a e.b)
  | 0x5e, _ => some (.vfmax e.modsX e.d e.a e.b)
  | 0x5f, _ => (SgnOp.ofReg e.c).bind fun v' => some (.vfsgn e.modsX e.d e.a e.b v')
  | 0x60, _ => (FCc.ofReg e.c).bind fun cc' => some (.vfcmp e.modsX e.d e.a e.b cc')
  | 0x62, _ => (Rm.ofCode e.f4).bind fun rm' => some (.vfsqrt e.modsX e.d e.a rm')
  | 0x63, _ => (Fmt.ofReg e.b).bind fun sf' => (Rm.ofCode e.f4).bind fun rm' => some (.vcvt e.modsX e.d e.a sf' rm')
  | 0x64, _ => (Rm.ofCode e.f4).bind fun rm' => some (.vpack e.modsX e.d e.a e.b rm')
  | 0x65, _ => (Rm.ofCode e.f4).bind fun rm' => some (.vunpack e.modsX e.d e.a (e.b.getLsbD 0) (e.b.getLsbD 1) rm')
  | 0x66, _ => some (.vexp2 e.modsX e.d e.a)
  | 0x67, _ => some (.vlog2 e.modsX e.d e.a)
  | 0x68, _ => some (.vrcp e.modsX e.d e.a)
  | 0x69, _ => some (.vrsqrt e.modsX e.d e.a)
  | 0x6a, _ => some (.vsinpi e.modsX e.d e.a)
  | 0x6b, _ => some (.vcospi e.modsX e.d e.a)
  | 0x6c, _ => some (.vtanh e.modsX e.d e.a)
  | 0x6d, _ => some (.vsigm e.modsX e.d e.a)
  | 0x6e, 0 => some (.vrand e.mods e.d e.a e.b e.litOr0)
  | 0x6e, 1 => some (.vrandU e.mods e.d e.a e.b e.litOr0)
  | _, _ => none

def pickVMem (e : Enc) : Option Instr :=
  match e.op.toNat, e.f4.toNat with
  | 0x70, _ => (VSize.ofCode e.f4).bind fun sz' => (Space.ofCode e.b).bind fun sp' => some (.vld e.mods e.d e.a sz' sp' e.wm e.disp)
  | 0x71, _ => (VSize.ofCode e.f4).bind fun sz' => (Space.ofCode e.b).bind fun sp' => some (.vst e.mods e.d e.a sz' sp' e.disp)
  | 0x72, _ => (VSize.ofCode e.f4).bind fun sz' => (Space.ofCode e.b).bind fun sp' => some (.vstu e.mods e.d e.a sz' sp' e.disp)
  | 0x73, _ => (VSize.ofCode e.f4).bind fun sz' => (Space.ofCode e.c).bind fun sp' => some (.vlds e.mods e.d e.a e.b sz' sp' e.disp)
  | 0x74, _ => (VSize.ofCode e.f4).bind fun sz' => (Space.ofCode e.c).bind fun sp' => some (.vsts e.mods e.d e.a e.b sz' sp' e.disp)
  | 0x75, _ => (VSize.ofCode e.f4).bind fun sz' => (Space.ofCode e.c).bind fun sp' => (idxShift e.c).bind fun sh' => some (.vldx e.modsX e.d e.a e.b sz' sp' (e.c.getLsbD 2) sh')
  | 0x76, _ => (VSize.ofCode e.f4).bind fun sz' => (Space.ofCode e.c).bind fun sp' => (idxShift e.c).bind fun sh' => some (.vstx e.modsX e.d e.a e.b sz' sp' (e.c.getLsbD 2) sh')
  | 0x77, _ => (Rm.ofCode e.f4).bind fun rm' => (Space.ofCode e.c).bind fun sp' => (idxShift e.c).bind fun sh' => some (.vscadd e.modsX e.d e.a e.b rm' sp' (e.c.getLsbD 2) sh')
  | 0x78, _ => (VSize.ofCode e.f4).bind fun sz' => some (.vldro e.mods e.d e.a sz' e.disp)
  | 0x79, _ => some (.sld e.mods e.d e.a)
  | 0x7a, _ => some (.sst e.mods e.d e.a)
  | 0x80, _ => some (.vperm e.mods e.d e.a e.b)
  | 0x81, _ => some (.vrot e.mods e.d e.a e.b)
  | 0x82, _ => some (.vxget e.mods e.d e.a e.b)
  | 0x83, _ => some (.vxput e.mods e.d e.a e.b)
  | 0x84, _ => (Rm.ofCode e.f4).bind fun rm' => some (.vredsum e.mods e.d e.a e.b rm')
  | 0x85, _ => (Rm.ofCode e.f4).bind fun rm' => some (.vredsumu e.mods e.d e.a e.b rm')
  | 0x88, _ => (Rm.ofCode e.f4).bind fun rm' => some (.vscan e.mods e.d e.a e.b rm')
  | 0x86, _ => some (.vredmax e.mods e.d e.a e.b)
  | 0x87, _ => some (.vredmin e.mods e.d e.a e.b)
  | 0x89, _ => some (.vcompress e.mods e.d e.a)
  | 0x8a, _ => some (.vexpand e.mods e.d e.a)
  | 0x90, 0 => some (.mopa e.modsX e.d e.a e.b)
  | 0x90, 1 => some (.mopaRows e.modsX e.d e.a e.b)
  | 0x91, _ => some (.mzero e.d)
  | 0x92, _ => some (.mrd e.mods e.d e.a e.b)
  | 0x93, _ => some (.mwr e.mods e.d e.a e.b)
  | 0x94, _ => (MKind.ofCode e.f4).bind fun kind' => (Space.ofFlush e.d).bind fun sp' => some (.mflush e.mods kind' sp' e.a e.b e.c e.disp)
  | 0x95, _ => some (.mwait)
  | _, _ => none

def pickUnit (e : Enc) : Option Instr :=
  match e.op.toNat, e.f4.toNat with
  | 0xa0, _ => some (.rowact e.mods e.d e.a)
  | 0xa1, _ => some (.rowclose e.mods e.d)
  | 0xa2, 0 => some (.rowstat e.mods e.d)
  | 0xa2, 1 => some (.rowstatH e.mods e.d e.a)
  | 0xa3, _ => some (.fbind e.mods e.d e.a)
  | 0xa4, _ => some (.fseek e.mods e.d e.a)
  | 0xa5, _ => some (.frel e.mods e.d)
  | 0xa8, _ => some (.enq e.mods e.d e.a e.b (e.f4.getLsbD 0))
  | 0xa9, _ => some (.enqb e.mods e.d e.a e.b (e.f4.getLsbD 0))
  | 0xaa, 0 => some (.epop e.mods e.d (e.f4.getLsbD 0))
  | 0xaa, 1 => some (.epop e.mods e.d (e.f4.getLsbD 0))
  | 0xaa, 2 => some (.epopSus e.mods e.d (e.f4.getLsbD 0))
  | 0xaa, 3 => some (.epopSus e.mods e.d (e.f4.getLsbD 0))
  | 0xab, 0 => some (.estat e.mods e.d (e.f4.getLsbD 0))
  | 0xab, 1 => some (.estat e.mods e.d (e.f4.getLsbD 0))
  | 0xab, 2 => some (.estatN e.mods e.d e.a)
  | 0xac, 0 => some (.qpush e.mods e.d e.a)
  | 0xac, 1 => some (.qpushBrick e.mods e.d e.a)
  | 0xad, 0 => some (.qpop e.mods e.d e.a)
  | 0xad, 1 => some (.qpopBrick e.mods e.d e.a)
  | 0xae, _ => some (.gload e.mods e.a e.b)
  | 0xaf, _ => some (.gsig e.mods e.a)
  | 0xb0, 0 => some (.gwait e.mods e.a)
  | 0xb0, 1 => some (.gwaitSus e.mods e.a)
  | 0xb1, 0 => some (.wmpub e.mods e.d e.a)
  | 0xb1, 1 => some (.wmpubInit e.mods e.d e.a)
  | 0xb2, 0 => some (.wmrd e.mods e.d e.a)
  | 0xb2, 1 => some (.wmrdBound e.mods e.d e.a)
  | 0xb8, _ => some (.spawn e.mods e.d e.a e.b e.c)
  | 0xb9, 0 => some (.suspend e.mods)
  | 0xb9, 1 => some (.suspendLd e.mods e.d e.a)
  | 0xb9, 2 => some (.suspendRow e.mods e.d e.a)
  | 0xba, _ => some (.tdone e.mods)
  | 0xbb, _ => some (.kpt e.mods)
  | 0xbc, _ => some (.bnd e.mods e.a)
  | 0xbd, 0 => some (.incupd e.mods e.d e.a e.b)
  | 0xbd, 1 => some (.incupdSet e.mods e.d e.a e.b)
  | 0xbe, 0 => some (.incrd e.mods e.d e.a)
  | 0xbe, 1 => some (.incrdSh e.mods e.d e.a)
  | 0xbf, _ => some (.regl e.mods e.d e.a)
  | 0xc8, _ => (e.ctlNum).bind fun n' => some (.ctlr e.mods e.d n')
  | 0xc9, 0 => (e.ctlNum).bind fun n' => some (.ctlw e.mods e.d e.a n')
  | 0xc9, 1 => (e.ctlNum).bind fun n' => some (.ctlwSet e.mods e.d e.a n')
  | 0xc9, 2 => (e.ctlNum).bind fun n' => some (.ctlwClr e.mods e.d e.a n')
  | 0xca, _ => some (.sys (e.a ++ e.d))
  | 0xcb, _ => some (.eret)
  | 0xcc, _ => some (.brk (e.a ++ e.d))
  | 0xcd, _ => some (.snap e.d)
  | 0xce, 0 => some (.tlbinvAll)
  | 0xce, 1 => some (.tlbinvAsid e.b)
  | 0xce, 2 => some (.tlbinvPage e.a e.b)
  | 0xce, 3 => some (.tlbinvGpage e.a)
  | 0xce, 4 => some (.tlbinvUser)
  | _, _ => none

def pick (e : Enc) : Option Instr :=
  if e.op.toNat < 0x30 then pickScalar e
  else if e.op.toNat < 0x40 then pickMem e
  else if e.op.toNat < 0x70 then pickVec e
  else if e.op.toNat < 0xa0 then pickVMem e
  else pickUnit e

/-- Items 3 and 4 of R77. A field that the instruction does not use is nonzero exactly when the picked instruction's own
encoding differs from the fields read. -/
def decodeEnc (e : Enc) : Except DecErr Instr :=
  if !e.listed then .error .illOp
  else match pick e with
    | none => .error .illEnc
    | some i => if i.enc = e && i.encodable then .ok i else .error .illEnc

/-- The decoder on the three words a longest instruction could have. -/
def decode (w0 w1 w2 : BitVec 32) : Except DecErr Instr :=
  match Form.ofCode (w0.extractLsb' 0 2) with
  | none => .error .illLen
  | some f => decodeEnc (Enc.ofWords f w0 w1 w2)

/-- The instruction a memory image starts with, little-endian words (R2), for the host's tick-off. -/
def decodeTableWord (_nbits w : Nat) : Option Instr :=
  match decode (BitVec.ofNat 32 w) (BitVec.ofNat 32 (w >>> 32)) (BitVec.ofNat 32 (w >>> 64)) with
  | .ok i => some i
  | .error _ => none

end Sys2Proof
end

