-- ==== Sys2Proof/Machine/Bits.lean ====
section
/-! DEFINITION. Bit fields, extensions, element formats and elements of bricks (R4, R110, R114). -/

namespace Sys2Proof

/-- The element width of a format (R114). -/
def Fmt.sew : Fmt → Nat
  | .i8 | .n8 | .m8 => 8
  | .i16 | .n16 | .f16 | .bf16 => 16
  | .i32 | .n32 | .f32 => 32
  | .i64 | .n64 | .f64 => 64
  | .i4 | .n4 | .m4 => 4

/-- log2 of the element width. -/
def Fmt.logSew : Fmt → Nat
  | .i8 | .n8 | .m8 => 3
  | .i16 | .n16 | .f16 | .bf16 => 4
  | .i32 | .n32 | .f32 => 5
  | .i64 | .n64 | .f64 => 6
  | .i4 | .n4 | .m4 => 2

/-- The i formats are signed (R159). -/
def Fmt.signed : Fmt → Bool
  | .i8 | .i16 | .i32 | .i64 | .i4 => true
  | _ => false

/-- The formats of an n or i integer (R154). -/
def Fmt.intClass : Fmt → Bool
  | .f16 | .bf16 | .f32 | .f64 | .m8 | .m4 => false
  | _ => true

def Fmt.floatClass (f : Fmt) : Bool := !f.intClass

end Sys2Proof

namespace Sys2Proof.Machine

/-- Bits `lo + n - 1` down to `lo`, as a number. -/
def fld (v : Word) (lo n : Nat) : Nat := (v.toNat >>> lo) % 2 ^ n

/-- One bit. -/
def bitOf (v : Word) (i : Nat) : Bool := v.getLsbD i

/-- The low `n` bits of `v`, sign-extended to 64 bits. -/
def sextN (n : Nat) (v : Nat) : Word := BitVec.ofInt 64 ((BitVec.ofNat n v).toInt)

/-- The integer that the low `n` bits of `v` name, signed or not. -/
def intOf (signed : Bool) (n v : Nat) : Int := if signed then (BitVec.ofNat n v).toInt else ((v % 2 ^ n : Nat) : Int)

/-- Trunc(v, n) of R4. -/
def truncInt (n : Nat) (v : Int) : Nat := (v % (2 ^ n : Nat)).toNat

/-- Replace bits `lo + n - 1` down to `lo` of a word by the low bits of `v`. -/
def setFld (w : Word) (lo n v : Nat) : Word :=
  let mask : Word := BitVec.ofNat 64 ((2 ^ n - 1) <<< lo)
  (w &&& ~~~mask) ||| (BitVec.ofNat 64 (v <<< lo) &&& mask)

/-- Bytes of a little-endian number, lowest first (R2). -/
def bytesOf : Nat → Nat → List Byte
  | 0, _ => []
  | n + 1, v => BitVec.ofNat 8 v :: bytesOf n (v / 256)

/-- The little-endian number of bytes. -/
def ofBytes : List Byte → Nat
  | [] => 0
  | b :: bs => b.toNat + 256 * ofBytes bs

/-- Sat(v, fmt) of R4: an integer clamped to the range of an integer format, as its bits. -/
def satInt (f : Fmt) (v : Int) : Nat :=
  let w := f.sew
  let lo : Int := if f.signed then -(2 ^ (w - 1) : Nat) else 0
  let hi : Int := if f.signed then (2 ^ (w - 1) : Nat) - 1 else (2 ^ w : Nat) - 1
  truncInt w (max lo (min hi v))

/-- VLMAX(sew) of R110. -/
def vlmax (sew : Nat) : Nat := 16384 / sew

/-- Element `e` of a brick at width `sew`; 0 beyond the brick (R110). -/
def elemAt (b : Brick) (sew e : Nat) : Nat := (b.toNat >>> (sew * e)) % 2 ^ sew

/-- The brick with element `e` replaced; unchanged beyond the brick (R110). -/
def setElem (b : Brick) (sew e v : Nat) : Brick :=
  let mask : Brick := BitVec.ofNat 16384 ((2 ^ sew - 1) <<< (sew * e))
  (b &&& ~~~mask) ||| (BitVec.ofNat 16384 ((v % 2 ^ sew) <<< (sew * e)))

/-- A predicate with bit `e` replaced; unchanged from 4,096 on. -/
def setBit (p : Pred) (e : Nat) (b : Bool) : Pred :=
  if b then p ||| BitVec.ofNat 4096 (1 <<< e) else p &&& ~~~(BitVec.ofNat 4096 (1 <<< e))

/-- A value of a dynamic list, or the last resort `d` outside it. -/
def listSet {α : Type} (l : List α) (n : Nat) (f : α → α) : List α := l.modify n f

end Sys2Proof.Machine
end

