-- ==== Sys2Proof/Config.lean ====
section
/-! DEFINITION. What one device fixes, and the free values: opaque constants that nothing in Lean can evaluate. -/

namespace Sys2Proof.Config

/-- Nominal cycles since device reset after `n` steps of the model (R347; log 5). -/
opaque cycleAt : Nat → Word

/-- Which binary tree an unordered reduction uses: a seed for each choice (R149; log 8). -/
opaque treeSeed : Nat → Nat

/-- How many dirty lines a cavecfg or cavewb writes back (R214, R215, R373; log 9). -/
opaque dirtyLines : Nat → BitVec 32

/-- The tag a line of host or peer memory has when it enters the cave (R202; log 11). -/
opaque foreignTag : Nat → BitVec 32

/-- A byte that an RDMA READ brings from a remote region (R384; log 17). -/
opaque remoteByte : Nat → Byte

/-- Where a record of the snapshot window holds what it latched: byte by byte, a function of the latched values, as the record's
layout is not given (R389; log 18). -/
opaque snapByte : List Word → Nat → Byte

/-- The device's own Releb index (R383, R385: a strap). -/
opaque peerIndex : BitVec 7

/-- Peer `p` belongs to the load/store domain (R383: the domain's members are not given; log 20). -/
opaque peerPresent : Nat → Bool

/-- A word of an SPDM answer (R388; log 19). -/
opaque spdmAnswer : Nat → BitVec 256

/-- A byte of a save slot whose layout the spec does not give (R359, R360; log 30). -/
opaque saveByte : Nat → Byte

/-- The 4 KiB regions of DRAM that the slices of a tower's cave hold dirty when its arrays power off (R364; log 38). -/
opaque dirtyRegions : Nat → List Nat

/-- What a cave whose contents were lost holds (R364; log 38). -/
opaque lostCave : Nat → List (Nat × Byte)

/-- Whether a peer store that got no completion was performed (R383; log 31). -/
opaque peerDone : Nat → Bool

/-- The tval of an ILL_OPERAND whose instruction states none: it follows from the instruction and its inputs, the scalars and the
vtype (R5, R346; log 40). -/
opaque openTval : Instr → Vector Word 64 → Word → Word

/-- Whether an access to a line finds no copy in the cave at a step and reaches DRAM (R192, R234; log 16). -/
opaque misses : Nat → Nat → Bool

/-- The peer access of a command or an instruction that gets no completion (R383; log 77). -/
opaque lostFrom : Nat → Nat

/-- Hardware page promotion is enabled, and a frame belongs to the promotion pool of a tower (R199; log 94). -/
opaque promotes : Nat → Nat → Bool

/-- The areas of a save slot whose layout the spec does not give, rearranged: from the number of an area and the bytes that the
host left in it, to the bytes in the order that the model reads (R359, R362; log 30). -/
opaque arranged : Nat → Nat → Nat

/-- The vtype under which a record runs whose own vtype no register may hold (R111, R355; log 91). -/
opaque openShape : Word → Word

end Sys2Proof.Config
end

