-- ==== Sys2Proof/Machine/State.lean ====
section
/-! DEFINITION. The state of the machine, plain data, and the machine right after reset (R9, R347, R387). -/

namespace Sys2Proof.Machine

/-- The reasons to stop with a fault: none. Every trap of R346 is taken by a next state, and every value the spec leaves open
is a free value, so no meaning of this model ends in a fault. -/
inductive Fault : Type
  deriving DecidableEq, Repr

/-- The reasons to refuse. -/
inductive Refusal where
  /-- Raised by an arm of exec whose instruction has no meaning yet: safe, the run stops. -/
  | notModelled (mnemonic : String)
  deriving DecidableEq, Repr

/-- The causes of R346. -/
inductive Cause where
  | illLen | illOp | illEnc | illOperand | illVp | priv | fetchXlate | fetchAccess | dataXlate | dataAccess | align
  | atomicUnsupported | elemReserved | scaleReserved | halo | maskOvf | maskUnf | rowLost | rowBusy | rowSelf | rowClosed
  | folioRange | vatNotile | queueUnbound | gangDeadlock | nodeBusy | engineFault | caveRange | cavePool | caveLost | dataLost
  | poolInvalid | graderInvalid | preempt | thermal | machineCheck | sys
  deriving DecidableEq, Repr

/-- Bytes by address: addresses strictly rising, and no entry holds 0, which is what an unlisted address reads as (log 2). -/
abbrev Memory := List Host.Cell

/-- Sequence tags by line number (R202): line numbers strictly rising, no entry equal to the tag an unlisted line has. -/
abbrev Tags := List (Nat × BitVec 32)

/-- Words that a cache holds, each as it was when the cache took it: its place in memory divided by 4, its bytes, and the step in
which they were taken (R191, R297, R300). -/
abbrev Words := List (Nat × BitVec 32 × Nat)

/-! ### A context -/

/-- Where a context stands. -/
inductive Phase where
  /-- no context: the machine after reset, or a slot given back -/
  | absent
  /-- resident, its instructions issue -/
  | running
  /-- resident, its slot waits for a task of its pool leaf (R58) -/
  | awaitTask
  /-- saved in a save slot (R359) -/
  | switchedOut
  /-- stopped in place until the host answers (R386) -/
  | stopped
  /-- stopped by a fault domain: it issues nothing more, and goes when what it issued is done (R376) -/
  | ending
  /-- holds the handles, channels and graph entries of a suspended task (R335) -/
  | parked
  deriving DecidableEq, Repr

/-- Why the instruction at pc has issued and has not retired. -/
inductive Stall where
  | none
  /-- issues again when something else has happened -/
  | again
  /-- the same, a recorded instruction of `len` bytes, before an element group (R129, R354, R357) -/
  | elem (len : Nat)
  /-- a recorded instruction of which an element traps, and whose trap waits (R250, R351, R353) -/
  | due
  /-- a rowact that has claimed its layer (R242) -/
  | rowact
  /-- a range instruction whose walkers run (R213) -/
  | walk (n : Nat)
  /-- an AtomicOp sent to the host (R310) -/
  | host
  /-- its host AtomicOp has completed, performed or unsupported -/
  | hostDone (ok : Bool) (old : BitVec 128)
  /-- a translation fault that the host answered by ACT 1 is taken as its trap (R386) -/
  | raise (c : Cause) (v : Word)
  /-- a peer access of it gets no completion: that of a scalar instruction, or the one after `k` others of a vector instruction
  (R383) -/
  | peerLost (k : Nat)
  deriving DecidableEq, Repr

/-- A press nest (R104 to R108). -/
structure Nest where
  image : BitVec 1024
  /-- i0 first, one index for each of the NLEV levels -/
  idx : List Nat
  /-- the bases of the NREG streams -/
  bases : List Word
  /-- each body instruction: its address and its words, word 0 lowest -/
  body : List (Word × BitVec 96)
  /-- the address of the instruction after the body -/
  after : Word
  /-- traps that hold the nest and have not returned; it runs at 0 (R108) -/
  held : Nat
  /-- the loop buffer is empty, as after a switch: it is filled again from the body's addresses (R108) -/
  stale : Bool
  deriving DecidableEq, Repr

/-- A VP block in progress (R179 to R182). -/
structure VpBlock where
  /-- the first instruction of the block -/
  first : Word
  /-- the vend -/
  last : Word
  ordered : Bool
  /-- every VP of the block, ascending -/
  vps : List Nat
  cur : Nat
  todo : List Nat
  /-- instructions that the current VP has executed -/
  count : Nat
  /-- traps that hold the block and have not returned; it runs at 0 (R182, R353) -/
  held : Nat
  deriving DecidableEq, Repr

/-- The replay that eret started (R355): the records still to issue, the current one first, and what the registers hold
again when the records are through. -/
structure Replay where
  todo : List Word
  base : Word
  vl : Word
  vtype : Word
  streams : List (Reg × Word)
  next : Word
  deriving DecidableEq, Repr

/-- The group a handle holds (R230). -/
inductive Group where
  | none
  /-- OPENING, the activation not started: a rowact that stalls (R242) -/
  | claimed (g : Nat)
  | opening (g : Nat)
  | held (g : Nat)
  | lost (g : Nat)
  deriving DecidableEq, Repr

/-- A handle (R230): its folio, the copy of the entry taken at fbind, its position and its group. -/
structure Handle where
  bound : Bool := false
  tower : BitVec 3 := 0
  index : BitVec 12 := 0
  entry : BitVec 512 := 0
  pos : Nat := 0
  group : Group := .none
  /-- the address of a rowact that has claimed the group's layer and has not retired, and the traps that hold it and have not
  returned (R242) -/
  issuing : Option (Word × Nat) := none
  deriving DecidableEq, Repr

/-- A command in a FIFO: its record and its sequence number (R264). -/
structure Cmd where
  image : BitVec 1024
  seq : BitVec 32
  deriving DecidableEq, Repr

/-- A channel of an engine (R264). A result element takes its phase byte when it enters the ring. -/
structure Channel where
  fifo : List Cmd := []
  /-- commands that have run and wait to post their results, oldest first: the record and the element -/
  running : List (BitVec 1024 × BitVec 128) := []
  ring : List (BitVec 128) := []
  /-- for each element of the ring the scope of its command, at which the epop that takes it acquires (R271) -/
  scopes : List Scope := []
  prod : BitVec 32 := 0
  seq : BitVec 32 := 0
  /-- a peer access of the command that runs next gets no completion (R383) -/
  lost : Bool := false
  deriving DecidableEq, Repr

/-- What a host AtomicOp does to its operand (R310). -/
inductive HostOp where
  | fetchAdd (v : BitVec 128)
  | swap (v : BitVec 128)
  | cas (old new : BitVec 128)
  deriving DecidableEq, Repr

/-- An AtomicOp in flight to the host (R310). -/
structure HostReq where
  pa : Nat
  size : Nat
  op : HostOp
  deriving DecidableEq, Repr

/-- Where a host-assisted save of a context stands (R362, R386). -/
inductive HostSave where
  | no
  /-- stopped with its gang copy, while the save window serves another member -/
  | waits
  /-- the save window holds the context -/
  | asked
  /-- the host has answered; the context goes on when its gang copy and its layers allow it (R64, R237) -/
  | answered
  deriving DecidableEq, Repr

/-- A context: its registers and what the device holds for it. -/
structure Ctx where
  id : Nat := 0
  phase : Phase := .absent
  stall : Stall := .none
  /-- launch number and node of its leaf (R30) -/
  leaf : Option (Nat × Nat) := none
  /-- copy and member of a gang member (R34) -/
  gang : Option (Nat × Nat) := none
  slot : Bool := false
  /-- SCRLOG; 0 for no scratch block (R61) -/
  scrLog : Nat := 0
  scrBase : Nat := 0
  vatn : Nat := 0
  coreid : BitVec 12 := 0
  inst : Word := 0
  region : Word := 0
  /-- the address of a peer store that was never acknowledged (R383) -/
  lostStore : Option Word := none
  /-- the AtomicOp of the stalled instruction (R310) -/
  hostReq : Option HostReq := none
  /-- the save slot of a context that a save has stopped, 0 when the host holds the save, and the cycle at which it was
  stopped (R359, R362, R358) -/
  saveSlot : Option Nat := none
  outAt : Word := 0
  hostSave : HostSave := .no
  /-- the free value's number from which the areas of the save slot without a given layout were written (log 30) -/
  areas : Nat := 0
  /-- vector stores that have completed: it tells the writes of one from those of another (R218 to R220) -/
  stores : Nat := 0
  x : Vector Word 64 := Vector.replicate 64 0
  pc : Word := 0
  /-- the instruction that sent control to pc; 0 for a context's first (R79) -/
  prev : Word := 0
  p : Vector Pred 64 := Vector.replicate 64 0
  strip : Word := 0
  press : Option Nest := none
  vp : Option VpBlock := none
  /-- blocks that traps hold while a handler runs a block of its own, the innermost first (R182, R353) -/
  vpOut : List VpBlock := []
  frm : Word := 0
  fflags : Word := 0
  srkey : Word := 0
  srbase : Word := 0
  vred : Word := 0
  /-- the mask stack, top first (R167) -/
  mask : List Pred := []
  vatmap : BitVec 4 := 0
  qdesc : Vector Word 4 := Vector.replicate 4 0
  qbase : Vector Word 4 := Vector.replicate 4 0
  qstride : Vector Word 4 := Vector.replicate 4 0
  vl : Word := 0
  vtype : Word := 0
  vstart : Word := 0
  vhalo : Word := 0
  /-- HARM counts for the instruction that issues now: the first after an eret (R125) -/
  harm : Bool := false
  cavepart : Nat := 0
  caveWb : BitVec 32 := 0
  caveLost : Bool := false
  ptbase : Word := 0
  bound : Word := 0
  task : Word := 0
  tlive : Word := 0
  poolsel : Word := 0
  tvec : Word := 0
  epc : Word := 0
  cause : Word := 0
  tval : Word := 0
  fromReg : Word := 0
  status : Word := 0
  tscratch : Word := 0
  inflight : Word := 0
  ifrec : Vector Word 4 := Vector.replicate 4 0
  /-- vl and vtype when the context last stopped: an eret that finds them changed resumes under the new ones (R112; log 92) -/
  stopVl : Word := 0
  stopVtype : Word := 0
  replay : Option Replay := none
  /-- asynchronous traps that pend, oldest first (R351) -/
  pending : List (Cause × Word) := []
  v : Vector Brick 64 := Vector.replicate 64 0
  sc : Vector Scale 8 := Vector.replicate 8 0
  a : Vector Tile 4 := Vector.replicate 4 0
  scratch : Memory := []
  cave : Memory := []
  caveTags : Tags := []
  h : Vector Handle 16 := Vector.replicate 16 {}
  cp : Channel := {}
  gt : Channel := {}
  deriving DecidableEq, Repr

/-! ### A core -/

/-- The state of a node of the graph table (R277). -/
inductive NodeSt where
  | free | waiting | running | done | failed
  deriving DecidableEq, Repr

/-- Who owns an entry of the graph table (R277). -/
inductive Owner where
  | ctx (id : Nat)
  | leaf (l n : Nat)
  deriving DecidableEq, Repr

/-- An entry of the graph table (R277). `cause` is the node's own fault, `ownFault` tells it from a failure reached through a
predecessor, `addr` is the faulting address (R281). -/
structure GEntry where
  st : NodeSt := .free
  owner : Option Owner := none
  pred : Nat := 0
  image : BitVec 1024 := 0
  cause : BitVec 8 := 0
  ownFault : Bool := false
  addr : Word := 0
  /-- a peer access of the node gets no completion (R383) -/
  lost : Bool := false
  deriving DecidableEq, Repr

/-- An instruction in the matrix queue with the operands it took at issue (R250). `close` is the handle whose group a mark closes
when the mopa retires (R246). -/
inductive MOp where
  | mopa (id : Nat) (tile : BitVec 2) (fmt : Fmt) (a : Brick) (b : BitVec 131072) (sa sb : Option Scale) (rows : List Nat)
    (layer : Option Nat) (close : Option (BitVec 4))
  | mzero (id : Nat) (tile : BitVec 2)
  /-- `lines`: for each line the address accessed and its place; `free`: the tile is released -/
  | mflush (id : Nat) (kind : MKind) (tile : BitVec 2) (sp : Space) (lines : List (Nat × Nat)) (free : Bool)
  /-- the mrd or mwr at `pc`, which the context itself carries out when it is the head (R250) -/
  | move (id : Nat) (pc : Word)
  deriving DecidableEq, Repr

/-- What a layer of a core's column does beside holding a group (R231, R243 to R245); an extent moves in one step (R236). -/
inductive LayerSt where
  | idle
  /-- to be closed when the earlier consumers of its group have finished -/
  | pending
  | closing | streaming
  deriving DecidableEq, Repr

/-- A word that an instruction cache or a rind buffer holds: for which address space, its place in memory divided by 4, and its
bytes as they were in the step in which it was taken (R81, R201). -/
structure Copy where
  asid : Nat
  num : Nat
  word : BitVec 32
  age : Nat := 0
  deriving DecidableEq, Repr

/-- A translation that a TLB holds: for which address space, the page's address divided by its size, the level of its leaf, where
the leaf lies, and the leaf as the walk read it (R198). -/
structure Xlate where
  asid : Nat
  page : Nat
  level : Nat
  at_ : Nat
  pte : Word
  deriving DecidableEq, Repr

/-- A core. -/
structure Core where
  graph : Vector GEntry 64 := Vector.replicate 64 {}
  queue : List MOp := []
  layers : Vector LayerSt 8 := Vector.replicate 8 .idle
  shadows : Vector Word 16 := Vector.replicate 16 0x7fffffffffffffff
  /-- the L1 (R191), the instruction cache (R81) and the TLB (R198) -/
  l1 : Words := []
  code : List Copy := []
  /-- words of this and earlier moments that fetch may still return (R81) -/
  oldCode : List Copy := []
  tlb : List Xlate := []
  deriving DecidableEq, Repr

/-! ### A tower -/

/-- What a suspended task waits for (R335, R274, R281). -/
inductive SusWait where
  | ready
  /-- the load of the 64 bytes at `va`, the first at `pa`, of the suspend.ld at `pc` -/
  | load (pa : Nat) (pc va : Word)
  | row (h : BitVec 4)
  | command (gt : Bool)
  | node (core : BitVec 12) (n : Nat)
  deriving DecidableEq, Repr

/-- What a resume delivers beside the record (R335, R274, R281). -/
inductive Deliver where
  | none
  /-- `n` doublewords of RESULT into registers from `d` upwards -/
  | regs (d : Reg) (n : Nat)
  | row
  /-- a trap of the suspending instruction at `pc`: ENGINE_FAULT of a gwait.sus (R281), DATA_ACCESS of a suspend.ld whose peer
  does not answer (R383) -/
  | fault (c : Cause) (pc v : Word)
  deriving DecidableEq, Repr

/-- An entry of the suspension buffer (R335); `parked` is the context that keeps the task's handles, channels and entries. -/
structure Susp where
  leaf : Nat × Nat
  image : BitVec 2048
  wait : SusWait
  deliver : Deliver
  parked : Option Nat
  deriving DecidableEq, Repr

/-- The heat of a cave slice (R363). -/
structure Slice where
  /-- thresholds at or above which it is: 0 to 3 -/
  level : Nat := 0
  evac : Bool := false
  writeThrough : Bool := false
  deriving DecidableEq, Repr

/-- A tower. -/
structure Tower where
  foliotab : Word := 0
  /-- the generator of R56 -/
  gen : BitVec 32 := 0
  shadows : Vector Word 16 := Vector.replicate 16 0x7fffffffffffffff
  susp : List Susp := []
  slices : Vector Slice 16 := Vector.replicate 16 {}
  tlim : Bool := false
  arraysOff : Bool := false
  early : Bool := false
  ready : Bool := false
  /-- the last-level TLB (R198) -/
  tlb : List Xlate := []
  deriving DecidableEq, Repr

/-! ### Launches -/

/-- The kinds of a region block (R25). -/
inductive Kind where
  | interior | kernel | gang | pool | graph
  deriving DecidableEq, Repr

/-- A present member of a gang (R34). -/
structure Member where
  code : Word
  scr : Nat
  vat : Nat
  cave : Nat
  deriving DecidableEq, Repr

/-- A bound pipe of a gang (R35). -/
structure PipeBind where
  q : Nat
  brick : Bool
  cons : Nat
  prod : Nat
  deriving DecidableEq, Repr

/-- The resolved caps of a node (R27). -/
structure Caps where
  cores : Nat := 0
  vat : Nat := 0
  scr : Nat := 0
  cave : Nat := 0
  pool : Nat := 0
  deriving DecidableEq, Repr

/-- A record of a pool ring that a suspension wrote (R321): its index and what its resume delivers. -/
structure Resume where
  idx : BitVec 32
  deliver : Deliver
  parked : Option Nat
  /-- the scope at which its epop or gwait acquires (R271, R281), else that of the ring (R325) -/
  scope : Scope := .tow
  deriving DecidableEq, Repr

/-- A node of a launch: its block as the snapshot holds it, with inherited fields resolved (R50, R27), and its progress. -/
structure Node where
  addr : Word := 0
  kind : Kind := .interior
  excl : Bool := false
  irq : Bool := false
  preempt : Bool := false
  cls : Nat := 0
  /-- the block's own FDOM; none when it inherits -/
  fdom : Option Nat := none
  tickets : Nat := 0
  parent : Option Nat := none
  kids : List Nat := []
  code : Word := 0
  count : Nat := 0
  scr : Nat := 0
  vat : Nat := 0
  cave : Nat := 0
  caps : Caps := {}
  seed : BitVec 32 := 0
  args : List Word := []
  save : Word := 0
  saven : Nat := 0
  irqv : Nat := 0
  done : Word := 0
  aux : Word := 0
  members : List Member := []
  pipes : List PipeBind := []
  records : List (BitVec 1024) := []
  /-- instances or copies placed (R54) -/
  placed : Nat := 0
  /-- NRET and NFLT of the subtree (R378) -/
  nret : Nat := 0
  nflt : Nat := 0
  /-- POL and CAUSE of the first unhandled fault of the subtree (R378) -/
  flt : Option (BitVec 2 × BitVec 8) := none
  /-- unhandled faults of the leaf (R353) -/
  faults : Nat := 0
  /-- nothing of it is placed any more (R376) -/
  stopped : Bool := false
  retired : Bool := false
  /-- an engine graph leaf whose nodes are in the table of its core -/
  loaded : Bool := false
  /-- loss counters by tower (R57); they start at 0 (DESIGN CHOICE, log 93) -/
  loss : Vector Nat 8 := Vector.replicate 8 0
  prod : BitVec 32 := 0
  cons : BitVec 32 := 0
  culled : Nat := 0
  resumes : List Resume := []
  deriving DecidableEq, Repr

/-- Where a launch stands (R45, R51). -/
inductive LaunchSt where
  /-- accepted by the checks of R42, waits for the host's validation (R386) -/
  | validating
  | queued
  | live
  | retired
  deriving DecidableEq, Repr

/-- A launch: who made it, under what grant, and its tree. Node 0 is the root. -/
structure Launch where
  num : Nat := 0
  st : LaunchSt := .queued
  /-- the port page; none for regl -/
  page : Option (BitVec 6) := none
  /-- the leaf that issued the regl (R49), and its context -/
  parent : Option (Nat × Nat) := none
  issuer : Option Nat := none
  ptbase : Word := 0
  sup : Bool := false
  quiet : Bool := false
  towers : BitVec 8 := 0
  /-- the host's rejection of a regl that has not yet read it (R386) -/
  code : BitVec 8 := 0
  nodes : List Node := []
  deriving DecidableEq, Repr

/-! ### The device -/

/-- A launch-port page (R43 to R46). -/
structure Port where
  addr : Word := 0
  arg : Word := 0
  token : Word := 0
  flags : Word := 0
  wr : BitVec 4 := 0
  drop : Bool := false
  /-- STATE: 0 idle, 1 checking, 2 accepted, 3 rejected -/
  st : BitVec 3 := 0
  code : BitVec 8 := 0
  seq : BitVec 16 := 0
  bad : Word := 0
  /-- what LP.GO captured: WR, ADDR, ARG, TOKEN, FLAGS -/
  capWr : BitVec 4 := 0
  capAddr : Word := 0
  capArg : Word := 0
  capToken : Word := 0
  capFlags : Word := 0
  /-- the grant: CHECK, ASID, page-table root, supervisor right (R44, R350) -/
  granted : Bool := false
  check : BitVec 32 := 0
  asid : BitVec 16 := 0
  root : Word := 0
  sup : Bool := false
  deriving DecidableEq, Repr

/-- A watermark (R285); `holder` is the launch that has taken the index. -/
structure Wm where
  base : Word := 0
  esize : Nat := 0
  bound : Word := 0
  w : Word := 0
  init : Bool := false
  holder : Option Nat := none
  deriving DecidableEq, Repr

/-- A pipe of a gang copy (R283); a word takes the low 64 bits of its entry. -/
structure Pipe where
  l : Nat
  n : Nat
  copy : Nat
  bind : PipeBind
  items : List Brick
  deriving DecidableEq, Repr

/-- The range instructions (R212). -/
inductive RangeOp where
  | flush | inval | seal
  deriving DecidableEq, Repr

/-- A range instruction whose walkers run (R213): the spans of memory that it covers, each a first byte and a length. -/
structure Walk where
  num : Nat
  id : Nat
  op : RangeOp
  spans : List (Nat × Nat)
  deriving DecidableEq, Repr

/-- What a host-assisted event asks (R386). -/
inductive Ask where
  | xlate (id : Nat) (c : Cause) (v : Word)
  | fault (id : Nat)
  /-- a pool record that failed validation (R38), or a node of an engine graph leaf that faulted (R39): an unhandled fault of the
  leaf -/
  | record (l n : Nat)
  | save (id : Nat)
  | poison (region : Nat)
  | launch (l : Nat)
  deriving DecidableEq, Repr

/-- An event of the event ring before it is written (R386). -/
structure Event where
  kind : BitVec 8
  tower : BitVec 8
  addr : Word
  arg : Word
  core : BitVec 16
  /-- what waits for the host's answer -/
  ask : Option Ask
  deriving DecidableEq, Repr

/-- A line of peer memory that the cave holds, and the towers whose reads it may still serve (R192, R298, R311). -/
structure PeerLine where
  line : Nat
  data : BitVec 1024
  towers : BitVec 8
  deriving DecidableEq, Repr

/-- A word that the rind buffers of a cluster hold (R201). -/
structure Rind where
  cluster : Nat
  copy : Copy
  deriving DecidableEq, Repr

/-- What the device has sent out, oldest first: interrupts, answers to host reads, SPDM answers (R379, R309, R388). -/
inductive Sent where
  | irq (vec : BitVec 11)
  | data (v : BitVec 128) (poison : Bool)
  | tag (v : BitVec 64)
  | spdm (v : BitVec 256)
  deriving DecidableEq, Repr

/-- The device around the towers. -/
structure Device where
  ports : Vector Port 64 := Vector.replicate 64 {}
  launches : List Launch := []
  nextLaunch : Nat := 0
  nextCtx : Nat := 1
  nextWalk : Nat := 0
  inc : Vector Word 16 := Vector.replicate 16 0x7fffffffffffffff
  incmode : Word := 0
  wms : Vector Wm 64 := Vector.replicate 64 {}
  pipes : List Pipe := []
  walks : List Walk := []
  /-- DSTAT.FWOK and RECOV (R385, R388) -/
  fwok : Bool := false
  recov : Bool := false
  digest : BitVec 256 := 0
  /-- DMODE: HA and REJ (R385) -/
  ha : BitVec 6 := 0
  rej : Bool := false
  evbase : Word := 0
  evcons : BitVec 32 := 0
  evvec : BitVec 11 := 0
  evprod : BitVec 32 := 0
  /-- events that wait for a free slot of the ring -/
  evwait : List Event := []
  /-- requests that await an answer, by the SEQ of their event -/
  asks : List (BitVec 32 × Ask) := []
  /-- SNAPCTL: TEN, CEN and CAUSE; SEQ; HELD (R385, R389) -/
  snapctl : BitVec 8 := 0
  snapSeq : BitVec 32 := 0
  snapHeld : Bool := false
  /-- what the trigger latched, by core: epc, PC and status of both contexts, the cycle register, and the last cause codes -/
  snap : List (Nat × List Word) := []
  /-- the save window while a host-assisted save is open (R362) -/
  window : Memory := []
  /-- queue pairs in service (R384) -/
  qps : List (BitVec 16) := []
  throttled : Bool := false
  stretched : List (BitVec 10) := []
  peerLines : List PeerLine := []
  rind : List Rind := []
  /-- words of earlier moments that the rind path may still return (R201) -/
  oldRind : List Rind := []
  /-- frames of the promotion pools that hold a page (R199) -/
  frames : List Nat := []
  /-- IDE keys are set up (R388) -/
  ide : Bool := false
  sent : List Sent := []
  /-- writes that RDMA has sent to remote regions (R384) -/
  rdma : List (Word × Byte) := []
  deriving DecidableEq, Repr

/-! ### Accesses that wait, and what happens next -/

/-- An access that has issued and has not been performed (R294). `locs` gives for each byte the physical address accessed and
the place in memory that holds it. -/
inductive Pend where
  /-- a store of context `id`, or of the device itself, at `va` that waits for a held layer (R234), for its peer (R383) or, with
  `ordered`, for the earlier writes of its vector store (R218, R219): for each byte a mask and a value. `num` is the number of
  the vector store in its context -/
  | store (id : Option Nat) (va : Word) (locs : List (Nat × Nat)) (bytes : List (Byte × Byte)) (num : Option Nat) (ordered : Bool)
  /-- a vscadd update (R221) -/
  | update (id : Nat) (sp : Space) (locs : List (Nat × Nat)) (fmt : Fmt) (rm : Rm) (v : BitVec 64)
  /-- an addition of a flushed element (R261); `count`: the one that counts for its line (R202) -/
  | flush (id : Nat) (sp : Space) (locs : List (Nat × Nat)) (kind : MKind) (count : Bool) (v : BitVec 64)
  /-- the load of a suspend.ld (R335) -/
  | load (tower : BitVec 3) (leaf : Nat × Nat) (locs : List (Nat × Nat)) (uc : Bool)
  deriving DecidableEq, Repr

/-- A cache (R81, R191, R192, R198, R201). -/
inductive Cache where
  | l1 (core : BitVec 12)
  | code (core : BitVec 12)
  | rind (cluster : BitVec 10)
  | tlb (core : BitVec 12)
  | lastTlb (tower : BitVec 3)
  | peer
  deriving DecidableEq, Repr

/-- What happens next: an event of 95_what_each_step_holds.md, the instruction of a named context, which comes into focus, or
what the spec leaves to the caches and to the world outside the device (log 1, 89). -/
inductive Agenda where
  | event (i : Instr)
  | focus (id : Nat)
  /-- the next instruction of context `id`, a vector instruction, stands still before element `e`, and the instructions chained to
  it before the elements `fs` (R158, R357) -/
  | part (id : Nat) (e : Nat) (fs : List Nat)
  /-- the caches keep what they read from now on, or keep nothing more -/
  | caching (on : Bool)
  /-- an instruction cache takes the word `n`, the rind buffers the 32-byte sector `n`, as memory holds it now, for an address space;
  what they held of it stays within reach -/
  | take (c : Cache) (asid : Nat) (n : Nat)
  /-- an instruction cache takes back its `k`-th older word, a rind buffer the sector of its `k`-th older word (R81, R201) -/
  | back (c : Cache) (k : Nat)
  /-- a cache gives up a line, a TLB a page of 4 KiB by its number -/
  | evict (c : Cache) (line : Nat)
  /-- the host or a peer writes `n` bytes of its own memory -/
  | outside (pa : Nat) (n : Nat) (v : Nat)
  deriving DecidableEq, Repr

/-- The machine. `cx` is the context in focus, `co` its core and `tw` its tower. -/
structure State where
  cx : Ctx := {}
  co : Core := {}
  tw : Tower := {}
  others : List Ctx := []
  cores : List (Nat × Core) := []
  towers : List (Nat × Tower) := []
  dev : Device := {}
  mem : Memory := []
  /-- tags of device DRAM lines, 0 where unlisted (R202; log 10) -/
  tags : Tags := []
  /-- poisoned lines (R364) -/
  poison : List Nat := []
  pend : List Pend := []
  /-- lines whose poison goes when no write of a vector store on them waits any more: the context, the store's number, the line
  (R364) -/
  cleaning : List (Nat × Nat × Nat) := []
  agenda : List Agenda := []
  /-- the caches keep what they read (log 89) -/
  caching : Bool := false
  /-- within one step: the element before which a vector instruction stands still -/
  cut : Option Nat := none
  /-- steps taken: what the cycle register's free value depends on (log 5) -/
  ticks : Nat := 0
  /-- free values taken (log 6) -/
  free : Nat := 0
  deriving DecidableEq, Repr

/-- The machine right after reset: every field at the value given above (R9, R328, R347, R387; log 2 to 6). -/
def State.reset : State := {}

end Sys2Proof.Machine
end

