-- ==== Sys2Proof/Machine/Ops.lean ====
section
/-! DEFINITION. The named operations over the state: memory, registers, address spaces and translation, the course of an
instruction, taking a trap and returning from one, and what the device does around a context. -/

namespace Sys2Proof.Machine

/-! ### Memory -/

/-- The byte at an address; an unlisted address reads 0 (log 2). -/
def Memory.byte : Memory → Nat → Byte
  | [], _ => 0
  | (b, v) :: m, a => if a = b then v else Memory.byte m a

/-- The memory with the byte at an address replaced, in canonical form. -/
def Memory.put : Memory → Nat → Byte → Memory
  | [], a, v => if v = 0 then [] else [(a, v)]
  | (b, w) :: m, a, v =>
    if a < b then (if v = 0 then (b, w) :: m else (a, v) :: (b, w) :: m)
    else if a = b then (if v = 0 then m else (b, v) :: m)
    else (b, w) :: Memory.put m a v

/-- The canonical form: addresses strictly rising, no entry 0. -/
def Memory.wf (m : Memory) : Bool :=
  decide (m.Pairwise fun x y => x.1 < y.1) && m.all fun c => c.2 != 0

/-- The bytes at `a`, `a + 1`, … as a little-endian number (R2). -/
def Memory.readN (m : Memory) (a : Nat) : Nat → Nat
  | 0 => 0
  | n + 1 => (m.byte a).toNat + 256 * Memory.readN m (a + 1) n

/-- Write the `n` low bytes of a number at `a` upwards. -/
def Memory.writeN (m : Memory) (a : Nat) : Nat → Nat → Memory
  | 0, _ => m
  | n + 1, v => Memory.writeN (m.put a (BitVec.ofNat 8 v)) (a + 1) n (v / 256)

/-- The bytes below `lim` only. -/
def Memory.below (m : Memory) (lim : Nat) : Memory := m.filter fun c => decide (c.1 < lim)

/-- The tag of a line; 0 where unlisted (R202; log 10). -/
def Tags.get : Tags → Nat → BitVec 32
  | [], _ => 0
  | (l, t) :: ts, n => if n = l then t else Tags.get ts n

/-- The tag of a line replaced, in canonical form. -/
def Tags.put : Tags → Nat → BitVec 32 → Tags
  | [], n, t => if t = 0 then [] else [(n, t)]
  | (l, u) :: ts, n, t =>
    if n < l then (if t = 0 then (l, u) :: ts else (n, t) :: (l, u) :: ts)
    else if n = l then (if t = 0 then ts else (l, t) :: ts)
    else (l, u) :: Tags.put ts n t

/-- The canonical form of tags: lines strictly rising, no entry 0. -/
def Tags.wf (t : Tags) : Prop := (t.Pairwise fun x y => x.1 < y.1) ∧ ∀ e ∈ t, e.2 ≠ 0

/-! ### Contexts, cores and towers by name -/

/-- The tower of a core number (R7). -/
def towerOf (coreid : BitVec 12) : BitVec 3 := coreid.extractLsb' 9 3
/-- The core's number within its tower, which is its DRAM column (R7). -/
def columnOf (coreid : BitVec 12) : Nat := coreid.toNat % 512
/-- The cluster of a core number within the package (R7). -/
def clusterOf (coreid : BitVec 12) : Nat := coreid.toNat / 4

def assoc {α : Type} [Inhabited α] : List (Nat × α) → Nat → α
  | [], _ => default
  | (k, v) :: l, n => if n = k then v else assoc l n

def assocPut {α : Type} : List (Nat × α) → Nat → α → List (Nat × α)
  | [], n, v => [(n, v)]
  | (k, w) :: l, n, v => if n = k then (k, v) :: l else (k, w) :: assocPut l n v

/-- A core that nothing has used yet stands as at reset. -/
def coreAt : List (Nat × Core) → Nat → Core
  | [], _ => {}
  | (k, c) :: l, n => if n = k then c else coreAt l n

def towerAt : List (Nat × Tower) → Nat → Tower
  | [], _ => {}
  | (k, t) :: l, n => if n = k then t else towerAt l n

def State.core (s : State) (n : BitVec 12) : Core := if n = s.cx.coreid then s.co else coreAt s.cores n.toNat
def State.setCore (s : State) (n : BitVec 12) (c : Core) : State :=
  if n = s.cx.coreid then { s with co := c } else { s with cores := assocPut s.cores n.toNat c }
def State.tower (s : State) (t : BitVec 3) : Tower := if t = towerOf s.cx.coreid then s.tw else towerAt s.towers t.toNat
def State.setTower (s : State) (t : BitVec 3) (w : Tower) : State :=
  if t = towerOf s.cx.coreid then { s with tw := w } else { s with towers := assocPut s.towers t.toNat w }

/-- Every context, the one in focus first. -/
def State.ctxs (s : State) : List Ctx := s.cx :: s.others
def State.ctx? (s : State) (id : Nat) : Option Ctx := s.ctxs.find? fun c => c.id == id
/-- Change the context `id`. -/
def State.mapCtx (s : State) (id : Nat) (f : Ctx → Ctx) : State :=
  if s.cx.id = id then { s with cx := f s.cx }
  else { s with others := s.others.map fun c => if c.id = id then f c else c }
/-- Change the context in focus. -/
def State.upd (s : State) (f : Ctx → Ctx) : State := { s with cx := f s.cx }

/-- The focus moves to context `id`: its core and tower take their places. -/
def State.focusOn (s : State) (id : Nat) : State :=
  if s.cx.id = id then s else
  match s.others.find? fun c => c.id == id with
  | none => s
  | some c =>
    { s with
      cx := c, co := s.core c.coreid, tw := s.tower (towerOf c.coreid)
      others := (if s.cx.phase == .absent then [] else [s.cx]) ++ s.others.filter fun o => o.id != id
      cores := assocPut s.cores s.cx.coreid.toNat s.co
      towers := assocPut s.towers (towerOf s.cx.coreid).toNat s.tw }

/-- The context holds a slot of its core. -/
def Ctx.resident (c : Ctx) : Bool :=
  match c.phase with
  | .running | .awaitTask | .stopped => true
  | .ending => c.saveSlot.isNone
  | _ => false

/-- The context holds its ways of the cave: until it is gone, a stopped one that is switched out too (R359, R376). -/
def Ctx.holdsCave (c : Ctx) : Bool :=
  c.resident || match c.phase with
    | .switchedOut | .ending => true
    | _ => false

/-- Tile names that are held. -/
def popcount (v : BitVec 4) : Nat := ((List.range 4).filter fun k => v.getLsbD k).length

/-- Contexts whose handles claim layers of the core: the resident ones that no save has closed, and the parked (R233, R237,
R335). -/
def Ctx.holdsRows (c : Ctx) : Bool := (c.resident && c.saveSlot.isNone) || c.phase == .parked

/-- The context runs a pool task (R321). -/
def Ctx.inTask (c : Ctx) : Bool := bitOf c.task 63
/-- Supervisor mode (R348). -/
def Ctx.sup (c : Ctx) : Bool := bitOf c.status 0

/-- The node a leaf reference names. -/
def State.launch? (s : State) (l : Nat) : Option Launch := s.dev.launches.find? fun x => x.num == l
def State.node? (s : State) (l n : Nat) : Option Node := (s.launch? l).bind fun x => x.nodes[n]?
def State.mapLaunch (s : State) (l : Nat) (f : Launch → Launch) : State :=
  { s with dev := { s.dev with launches := s.dev.launches.map fun x => if x.num = l then f x else x } }
def State.mapNode (s : State) (l n : Nat) (f : Node → Node) : State :=
  s.mapLaunch l fun x => { x with nodes := x.nodes.modify n f }

/-- The next free value's number, and the state that has taken it (log 6). -/
def State.fresh (s : State) : Nat × State := (s.free, { s with free := s.free + 1 })

/-! ### Scalars and predicates (R84, R180) -/

/-- The VP block that runs: no handler holds it (R182). -/
def Ctx.vpBlock (c : Ctx) : Option VpBlock :=
  match c.vp with
  | some b => if b.held = 0 then some b else none
  | none => none

/-- The VP that runs, when a VP block runs (R180). -/
def Ctx.vpNow (c : Ctx) : Option Nat :=
  match c.vp with
  | some b => if b.held = 0 then some b.cur else none
  | none => none

/-- The format of vtype (R114). -/
def Ctx.fmt (c : Ctx) : Fmt := Fmt.ofCode (c.vtype.extractLsb' 0 4)

/-- A scalar register: x0 reads zero; in a VP block it names the VP's own element (R84, R180). -/
def Ctx.readX (c : Ctx) (r : Reg) : Word :=
  if r = 0 then 0 else
  match c.vpNow with
  | none => c.x[r.toNat]
  | some e =>
    let f := c.fmt
    let v := elemAt c.v[r.toNat] f.sew e
    if f.signed then sextN f.sew v else BitVec.ofNat 64 v

/-- A write to x0 is discarded; in a VP block the VP's own element is written (R84, R180). -/
def Ctx.writeX (c : Ctx) (r : Reg) (w : Word) : Ctx :=
  if r = 0 then c else
  match c.vpNow with
  | none => { c with x := c.x.set r.toNat w }
  | some e => { c with v := c.v.set r.toNat (setElem c.v[r.toNat] c.fmt.sew e w.toNat) }

/-- A whole predicate; p0 reads all ones (R84). -/
def Ctx.readP (c : Ctx) (r : Reg) : Pred := if r = 0 then BitVec.allOnes 4096 else c.p[r.toNat]
/-- A write to p0 is ignored (R84). -/
def Ctx.writeP (c : Ctx) (r : Reg) (v : Pred) : Ctx := if r = 0 then c else { c with p := c.p.set r.toNat v }

/-- The bit a scalar instruction tests: bit 0, or the VP's own (R71, R94). -/
def Ctx.predBit (c : Ctx) (r : Reg) : Bool := (c.readP r).getLsbD (c.vpNow.getD 0)

/-- A scalar instruction writes a condition to all bits, or in a VP block to the VP's own (R93). -/
def Ctx.writeCond (c : Ctx) (r : Reg) (b : Bool) : Ctx :=
  match c.vpNow with
  | none => c.writeP r (if b then BitVec.allOnes 4096 else 0)
  | some e => c.writeP r (setBit (c.readP r) e b)

/-- A predicate operation on all bits, or in a VP block on the VP's own (R95). -/
def Ctx.writePBits (c : Ctx) (r : Reg) (v : Pred) : Ctx :=
  match c.vpNow with
  | none => c.writeP r v
  | some e => c.writeP r (setBit (c.readP r) e (v.getLsbD e))

/-- The top of the mask stack, all ones when it is empty (R167). -/
def Ctx.maskTop (c : Ctx) : Pred := c.mask.headD (BitVec.allOnes 4096)

/-- bx·by·bz of the current vtype (R111). -/
def Ctx.cap (c : Ctx) : Nat := 2 ^ (fld c.vtype 4 3 + fld c.vtype 7 3 + fld c.vtype 10 3)
/-- vl. -/
def Ctx.vlN (c : Ctx) : Nat := c.vl.toNat
/-- START of vstart (R115). -/
def Ctx.start (c : Ctx) : Nat := fld c.vstart 0 12

/-! ### The physical map (R189, R229, R381) -/

/-- One byte of physical memory: the address accessed, and the place in memory that holds it. -/
structure Loc where
  pa : Nat
  pos : Nat
  uc : Bool
  deriving DecidableEq, Repr

def isReg (pa : Nat) : Bool := decide (2 ^ 39 ≤ pa ∧ pa < 2 ^ 39 + 2 ^ 22)
def isHost (pa : Nat) : Bool := decide (2 ^ 44 ≤ pa ∧ pa < 2 ^ 48)
def isPeer (pa : Nat) : Bool := decide (2 ^ 48 ≤ pa ∧ pa < 2 ^ 48 + 128 * 2 ^ 41)
def isAperture (pa : Nat) : Bool := decide (2 ^ 51 ≤ pa ∧ pa < 2 ^ 51 + 8 * 2 ^ 40)
def isDram (pa : Nat) : Bool := decide (pa < 2 ^ 39)
def lineOf (pa : Nat) : Nat := pa / 128

/-- The home slice of the line of an address within the tower that caches it (R12). -/
def homeSlice (pa : Nat) : Nat := (pa / 2 ^ 7 % 16) ^^^ (pa / 2 ^ 11 % 16)

/-- The tower whose cave holds the line of an address: that of its DRAM or its folio, or tower PA[17:15] (R192, R229). -/
def homeTower (pa : Nat) : Nat :=
  if isDram pa then pa / 2 ^ 36 % 8 else if isAperture pa then (pa - 2 ^ 51) / 2 ^ 40 % 8 else pa / 2 ^ 15 % 8

/-- The fields of a folio table entry (R227). -/
def entCheck (e : BitVec 512) : Nat := (e.extractLsb' 0 16).toNat
def entAsid (e : BitVec 512) : Nat := (e.extractLsb' 16 16).toNat
def entCore (e : BitVec 512) : Nat := (e.extractLsb' 32 9).toNat
def entValid (e : BitVec 512) : Bool := e.getLsbD 48
def entWrite (e : BitVec 512) : Bool := e.getLsbD 49
def entNext (e : BitVec 512) : Nat := (e.extractLsb' 56 8).toNat
def entExt (e : BitVec 512) (k : Nat) : BitVec 32 := e.extractLsb' (128 + 32 * k) 32
def entSpare (e : BitVec 512) : BitVec 32 := e.extractLsb' 384 32
def extLayer (x : BitVec 32) : Nat := (x.extractLsb' 29 3).toNat
def extRow0 (x : BitVec 32) : Nat := (x.extractLsb' 16 10).toNat
def extRows (x : BitVec 32) : Nat := (x.extractLsb' 0 11).toNat

/-- NGRP of an entry: the row groups of its extents 0 to NEXT − 1 (R227). -/
def entGroups (e : BitVec 512) : Nat := ((List.range (min 8 (entNext e))).map fun k => extRows (entExt e k)).sum

/-- The layer and the row of logical group `g` (R227). -/
def groupRow (e : BitVec 512) (g : Nat) : Option (Nat × Nat) :=
  let rec go : Nat → Nat → Nat → Option (Nat × Nat)
    | 0, _, _ => none
    | k + 1, j, g =>
      let x := entExt e j
      if g < extRows x then some (extLayer x, extRow0 x + g) else go k (j + 1) (g - extRows x)
  go (min 8 (entNext e)) 0 g

/-- The DRAM address of byte `o` of a row of a layer of a column of a tower (R225). -/
def rowAddr (tower column layer row o : Nat) : Nat :=
  tower * 2 ^ 36 + row * 2 ^ 26 + layer * 2 ^ 23 + column * 2 ^ 14 + o

/-- Entry `i` of a tower's folio table, as memory holds it (R226). -/
def State.folioEntry (s : State) (t : BitVec 3) (i : Nat) : BitVec 512 :=
  BitVec.ofNat 512 (s.mem.readN ((s.tower t).foliotab.toNat + 64 * i) 64)

/-- The DRAM address behind byte `o` of a folio (R229), when it exists. -/
def folioAddr (tower : Nat) (e : BitVec 512) (o : Nat) : Option Nat :=
  (groupRow e (o / 16384)).map fun (layer, row) => rowAddr tower (entCore e) layer row (o % 16384)

/-- Where a physical address lies; none where nothing is (R381, R383, R229). -/
def State.locate (s : State) (uc : Bool) (pa : Nat) : Option Loc :=
  if isDram pa || isReg pa || isHost pa then some ⟨pa, pa, uc⟩
  else if isPeer pa then
    let p := (pa - 2 ^ 48) / 2 ^ 41
    if p = Config.peerIndex.toNat || !Config.peerPresent p || decide ((pa - 2 ^ 48) % 2 ^ 41 ≥ 2 ^ 39) then none
    else some ⟨pa, pa, uc⟩
  else if isAperture pa then
    let q := pa - 2 ^ 51
    let t : BitVec 3 := BitVec.ofNat 3 (q / 2 ^ 40)
    let i := q % 2 ^ 40 / 2 ^ 27
    let e := s.folioEntry t i
    if i ≥ 4096 || (s.tower t).foliotab = 0 || !entValid e then none
    else (folioAddr t.toNat e (q % 2 ^ 27)).map fun d => ⟨pa, d, uc⟩
  else none

/-! ### What the caves show (R192, R298, R311) -/

/-- The arrays of the cave that holds the line of an address are off: every access is served uncached (R364). -/
def State.uncached (s : State) (pa : Nat) : Bool := (s.tower (BitVec.ofNat 3 (homeTower pa))).arraysOff

/-- The cached copy of a peer line that still serves a tower (R192, R298). -/
def State.peerCopy (s : State) (t : BitVec 3) (line : Nat) : Option PeerLine :=
  s.dev.peerLines.find? fun p => p.line == line && p.towers.getLsbD t.toNat

/-- A byte of g: space as the caves show it to a tower. -/
def State.caveByte (s : State) (t : BitVec 3) (l : Loc) : Byte :=
  match if isPeer l.pos && !l.uc && !s.uncached l.pos then s.peerCopy t (lineOf l.pos) else none with
  | some p => p.data.extractLsb' (8 * (l.pos % 128)) 8
  | none => s.mem.byte l.pos

/-- The cave takes a peer line for a tower, unless its arrays are off; its one copy serves every tower (R192, R311, R364). -/
def State.keepPeer (s : State) (t : BitVec 3) (line : Nat) : State :=
  if (s.peerCopy t line).isSome || s.uncached (128 * line) then s
  else
    let new : PeerLine := ⟨line, BitVec.ofNat 1024 (s.mem.readN (128 * line) 128), 255⟩
    { s with dev := { s.dev with peerLines := new :: s.dev.peerLines.filter fun p => p.line != line } }

/-- The copies of some peer lines no longer serve a tower. -/
def State.leavePeers (s : State) (t : BitVec 3) (hit : Nat → Bool) : State :=
  if s.dev.peerLines.isEmpty then s
  else
    let mine : BitVec 8 := BitVec.ofNat 8 (2 ^ t.toNat)
    let line (p : PeerLine) : PeerLine := if hit p.line then { p with towers := p.towers &&& ~~~mine } else p
    { s with dev := { s.dev with peerLines := (s.dev.peerLines.map line).filter fun p => p.towers != 0 } }

/-! ### Held rows (R233, R234, R238) -/

/-- A layer claimed on a core: by which context and handle, which group, layer and row, and whether its activation has
started. -/
structure Claim where
  id : Nat
  h : Nat
  g : Nat
  layer : Nat
  row : Nat
  started : Bool

def Group.claim : Group → Option (Nat × Bool)
  | .claimed g => some (g, false)
  | .opening g => some (g, true)
  | .held g => some (g, true)
  | _ => Option.none

/-- The layers claimed on a core (R233, R242). -/
def State.claims (s : State) (core : BitVec 12) : List Claim :=
  (s.ctxs.filter fun c => c.holdsRows && c.coreid == core).flatMap fun c =>
    (List.finRange 16).filterMap fun k =>
      let h := c.h[k]
      match h.bound, h.group.claim with
      | true, some (g, st) => (groupRow h.entry g).map fun (ly, row) => ⟨c.id, k.val, g, ly, row, st⟩
      | _, _ => none

/-- The core whose column a DRAM address lies in, its layer and its row (R225). -/
def rowOf (pos : Nat) : BitVec 12 × Nat × Nat :=
  (BitVec.ofNat 12 (pos / 2 ^ 36 * 512 + pos / 2 ^ 14 % 512), pos / 2 ^ 23 % 8, pos / 2 ^ 26 % 1024)

/-- The started claim on the layer of a DRAM byte. -/
def State.layerClaim (s : State) (pos : Nat) : Option Claim :=
  let (core, ly, _) := rowOf pos
  (s.claims core).find? fun c => c.started && c.layer == ly

/-- tval of R238. -/
def rowTval (grp layer : Nat) (other : Bool) (owner handle : Nat) : Word :=
  BitVec.ofNat 64 (grp * 2 ^ 32 + layer * 2 ^ 16 + (if other then 256 else 0) + owner * 16 + handle)

/-- What a write meets at a byte: nothing, a wait for the layer, or ROW_SELF (R234). `own` is the core of the context the
write belongs to, none for another agent. -/
inductive RowMeet where
  | free
  | wait
  | self (v : Word)

/-- What the layer of a DRAM byte does beside holding a group (R231, R243, R245). -/
def State.layerSt (s : State) (pos : Nat) : LayerSt :=
  let (core, ly, _) := rowOf pos
  (s.core core).layers[Fin.ofNat 8 ly]

/-- An access to a byte of device DRAM finds no copy in the cave and reaches DRAM (R192, R234, R364; log 16). -/
def State.reachesDram (s : State) (l : Loc) : Bool :=
  l.uc || (s.tower (BitVec.ofNat 3 (homeTower l.pa))).arraysOff || Config.misses (lineOf l.pa) s.ticks

/-- A write of the line of a byte goes through the cave to DRAM: its home slice evacuates or writes through (R12, R363). -/
def State.writesThrough (s : State) (l : Loc) : Bool :=
  let sl := (s.tower (BitVec.ofNat 3 (homeTower l.pa))).slices[Fin.ofNat 16 (homeSlice l.pa)]
  sl.evac || sl.writeThrough

/-- A write that reaches DRAM also waits while the layer's last group has not closed (R234), or a group that streams have opened
there (R245). -/
def State.rowMeet (s : State) (c : Option Ctx) (l : Loc) : RowMeet :=
  if !(isDram l.pos) then .free else
  let past := isAperture l.pa || s.writesThrough l || s.reachesDram l
  match s.layerClaim l.pos with
  | none => if s.layerSt l.pos != .idle && past then .wait else .free
  | some k =>
    let (core, _, row) := rowOf l.pos
    match c with
    | some c =>
      if c.coreid = core then
        if k.row = row then .self (rowTval k.g k.layer (k.id != c.id) k.h k.h)
        else if past then .wait else .free
      else if k.row = row || past then .wait else .free
    | none => if k.row = row || past then .wait else .free

/-- A load of a byte waits for a held layer, or for one that is closing or streaming: it reaches DRAM, and it is none of the holding
core in the held group (R234, R245). `core` is none for another agent. -/
def State.loadWaits (s : State) (core : Option (BitVec 12)) (l : Loc) : Bool :=
  if !isDram l.pos then false else
  match s.layerClaim l.pos with
  | none => s.layerSt l.pos != .idle && s.reachesDram l
  | some k => !(core == some (rowOf l.pos).1 && k.row == (rowOf l.pos).2.2) && s.reachesDram l

/-- No layer is claimed, closing or streaming anywhere. -/
def State.noClaims (s : State) : Bool :=
  (s.ctxs.all fun c => !c.holdsRows || c.h.toList.all fun h => h.group.claim.isNone) &&
  (s.co :: s.cores.map Prod.snd).all fun c => c.layers.toList.all fun y => y == .idle

/-! ### Translation (R194 to R197) -/

/-- What an access does, for the permissions of R196. -/
inductive Acc where
  | load | store | atomic | fetch
  deriving DecidableEq, Repr

def Acc.writes : Acc → Bool
  | .store | .atomic => true
  | _ => false

def Acc.xlate : Acc → Cause
  | .fetch => .fetchXlate
  | _ => .dataXlate
def Acc.access : Acc → Cause
  | .fetch => .fetchAccess
  | _ => .dataAccess

/-- A page table entry is malformed (R195, R196): reserved bits, a pointer with attribute bits, WR without RD. -/
def pteBad (e : Word) : Bool :=
  fld e 52 2 != 0 || fld e 7 2 != 0 ||
  if bitOf e 1 then bitOf e 3 && !bitOf e 2
  else fld e 54 2 != 0 || fld e 9 3 != 0 || fld e 2 5 != 0

/-- The leaf permits the access (R196). -/
def pteAllows (e : Word) (acc : Acc) (sup : Bool) : Bool :=
  (sup || bitOf e 5) &&
  match acc with
  | .load => bitOf e 2
  | .store => bitOf e 3
  | .atomic => bitOf e 2 && bitOf e 3
  | .fetch => bitOf e 4

/-- A finished walk: where the leaf entry lies, the entry, and the level of the leaf. -/
structure Leaf where
  at_ : Nat
  pte : Word
  level : Nat

/-- The address of the entry of level `k` for an address. -/
def pteAddr (va k table : Nat) : Nat :=
  table + 8 * (if k = 4 then va / 2 ^ 48 % 256 else va / 2 ^ (12 + 9 * k) % 512)

/-- A page table entry as a walker reads it: through the cave of a tower (R198), or for the device's own accesses as memory has it. -/
def State.readPte (s : State) (t : Option (BitVec 3)) (l : Loc) : Word :=
  match t with
  | none => BitVec.ofNat 64 (s.mem.readN l.pos 8)
  | some t => BitVec.ofNat 64 (ofBytes ((List.range 8).map fun k => s.caveByte t ⟨l.pa + k, l.pos + k, false⟩))

/-- The walk from level `k` down: the entry of each level, checked under R196. A walk reads entries as ordinary loads do,
wherever memory is (R198); a poisoned line gives DATA_LOST (R364). Of the entries of a C64 group it uses the one of the address
(DESIGN CHOICE, log 95). -/
def walkFrom (s : State) (t : Option (BitVec 3)) (va : Nat) : Nat → Nat → Except Cause Leaf
  | k, table =>
    let a := pteAddr va k table
    match if isReg a then none else s.locate false a with
    | none => .error .dataAccess
    | some at_ =>
      if s.poison.contains (lineOf at_.pos) then .error .dataLost
      else
        let e := s.readPte t at_
        let ppn := fld e 12 40 * 4096
        if !bitOf e 0 || pteBad e then .error .dataXlate
        else if bitOf e 1 then
          if k ≥ 3 || ppn % 2 ^ (12 + 9 * k) != 0 then .error .dataXlate else .ok ⟨a, e, k⟩
        else match k with
          | 0 => .error .dataXlate
          | k' + 1 => walkFrom s t va k' ppn

/-- Where the entries lie that the walk reads, the last one first. -/
def walkLocs (s : State) (t : Option (BitVec 3)) (va : Nat) : Nat → Nat → List Loc
  | k, table =>
    let a := pteAddr va k table
    match if isReg a then none else s.locate false a with
    | none => []
    | some at_ =>
      let e := s.readPte t at_
      match k with
      | 0 => [at_]
      | k' + 1 => if bitOf e 0 && !bitOf e 1 && !pteBad e then walkLocs s t va k' (fld e 12 40 * 4096) ++ [at_] else [at_]

/-- Add 1 to the tag of a line of device DRAM or a folio aperture (R202). -/
def State.bump (s : State) (line : Nat) : State :=
  if isDram (128 * line) || isAperture (128 * line) then { s with tags := s.tags.put line (s.tags.get line + 1) } else s

/-- The page of an address at the level of a leaf. -/
def pageOf (level va : Nat) : Nat := va / 2 ^ (12 + 9 * level)

/-- A held translation covers an address of an address space; a global one covers it in every space (R198). -/
def Xlate.covers (x : Xlate) (asid va : Nat) : Bool :=
  (x.asid == asid || bitOf x.pte 6) && x.page == pageOf x.level va

/-- The translation that the TLB of a core, or else its tower's last-level TLB, holds for an access; a write needs one with DRT
set (R196, R198). `who` is none for the device's own accesses, which use no TLB. -/
def State.heldXlate (s : State) (who : Option (BitVec 12)) (asid : Nat) (acc : Acc) (va : Nat) : Option Xlate :=
  match who with
  | none => none
  | some core =>
    let fits (x : Xlate) : Bool := x.covers asid va && (!acc.writes || bitOf x.pte 54)
    ((s.core core).tlb.find? fits).orElse fun _ => (s.tower (towerOf core)).tlb.find? fits

/-- While the caches keep what they read, a walk's translation enters both TLBs (R198; log 89). -/
def State.keepXlate (s : State) (who : Option (BitVec 12)) (x : Xlate) : State :=
  match who with
  | none => s
  | some core =>
    if !s.caching then s
    else
      let s := s.setCore core { s.core core with tlb := (x :: (s.core core).tlb).take 128 }
      let t := towerOf core
      s.setTower t { s.tower t with tlb := (x :: (s.tower t).tlb).take 16384 }

/-- What a leaf gives an access: its physical address and the page's UC bit, or DATA_ACCESS (R196). -/
def leafGives (pte : Word) (level : Nat) (sup : Bool) (acc : Acc) (va : Nat) : Except Cause (Nat × Bool) :=
  if !pteAllows pte acc sup then .error acc.access
  else
    let size := 2 ^ (12 + 9 * level)
    .ok (fld pte 12 40 * 4096 / size * size + va % size, bitOf pte 9)

/-- Set ACC and DRT in the leaf that a walk found: an atomic update of these bits at its home slice (R196, R305). The copy of a peer
line that the walk read serves its tower no more (R295). For the device itself, `who` none, it waits for a held layer (R234). -/
def State.markLeaf (s : State) (who : Option (BitVec 12)) (l : Leaf) (acc : Acc) : State × Word :=
  let bits : Byte := if acc.writes then 0xc0 else 0x80
  let e := l.pte ||| (bits.setWidth 64 <<< 48)
  let pos := ((s.locate false l.at_).map Loc.pos).getD l.at_
  if e = l.pte then (s, e)
  else
    let set := ({ s with mem := s.mem.put (pos + 6) (s.mem.byte (pos + 6) ||| bits) }).bump (lineOf l.at_)
    match who, s.rowMeet none ⟨l.at_, pos, false⟩ with
    | some core, _ => (set.leavePeers (towerOf core) fun n => n == lineOf pos, e)
    | none, .free => (set, e)
    | none, _ =>
      ({ s with pend := s.pend ++ [.store none (BitVec.ofNat 64 l.at_) [(l.at_ + 6, pos + 6)] [(bits, bits)] none false] }, e)

/-- While the caches keep what they read, a walk leaves the peer lines that it has read in the cave, as ordinary loads do (R192, R198). -/
def State.keepWalked (s : State) (who : Option (BitVec 12)) (ls : List Loc) : State :=
  match who with
  | none => s
  | some core =>
    if s.caching then (((ls.filter fun l => isPeer l.pos).map fun l => lineOf l.pos).eraseDups).foldl (fun s n => s.keepPeer (towerOf core) n) s
    else s

/-- Translate one address: by a translation that a TLB holds, else by a walk; the state with ACC and DRT set, and the physical
address with the page's UC bit. -/
def State.translate (s : State) (who : Option (BitVec 12)) (ptbase : Word) (sup : Bool) (acc : Acc) (va : Word) :
    Except Cause (State × Nat × Bool) :=
  if fld va 56 8 != 0 then .error acc.xlate else
  match s.heldXlate who (fld ptbase 48 16) acc va.toNat with
  | some x => (leafGives x.pte x.level sup acc va.toNat).map fun r => (s, r)
  | none =>
    match walkFrom s (who.map towerOf) va.toNat 4 (fld ptbase 11 37 * 2048) with
    | .error .dataXlate => .error acc.xlate
    | .error .dataAccess => .error acc.access
    | .error c => .error c
    | .ok l =>
      match leafGives l.pte l.level sup acc va.toNat with
      | .error c => .error c
      | .ok r =>
        let (s', e) := (s.keepWalked who (walkLocs s (who.map towerOf) va.toNat 4 (fld ptbase 11 37 * 2048))).markLeaf who l acc
        .ok (s'.keepXlate who ⟨fld ptbase 48 16, pageOf l.level va.toNat, l.level, l.at_, e⟩, r)

/-- The bytes of a g: access: each page it touches is translated before anything is performed (R197). An error gives the
first failing byte. -/
def State.gLocs (s : State) (who : Option (BitVec 12)) (ptbase : Word) (sup : Bool) (acc : Acc) :
    Word → Nat → Nat → Except (Cause × Word) (State × List Loc)
  | _, 0, _ => .ok (s, [])
  | _, _, 0 => .ok (s, [])
  | va, n, fuel + 1 =>
    match s.translate who ptbase sup acc va with
    | .error c => .error (c, va)
    | .ok (s1, pa, uc) =>
      let k := min n (4096 - va.toNat % 4096)
      match (List.range k).mapM fun j => s1.locate uc (pa + j) with
      | none => .error (acc.access, va)
      | some ls =>
        match s1.gLocs who ptbase sup acc (va + BitVec.ofNat 64 k) (n - k) fuel with
        | .error e => .error e
        | .ok (s2, rest) => .ok (s2, ls ++ rest)

/-! ### Places: where the bytes of an access lie -/

/-- The bytes of an access: located bytes of g: space, or an offset into the context's scratch block or cave window. -/
inductive Place where
  | g (locs : List Loc)
  | s (off : Nat)
  | c (off : Nat)

/-- The first byte of an access that lies at or beyond `lim`. -/
def firstBeyond (va : Word) (n lim : Nat) : Option Word :=
  if va.toNat ≥ lim then some va
  else if va.toNat + n > lim then some (BitVec.ofNat 64 lim) else none

/-- Check and locate the `n` bytes at `va` in a space for context `c` (R188, R196, R197, R364). -/
def State.resolve (s : State) (c : Ctx) (sp : Space) (acc : Acc) (va : Word) (n : Nat) : Except (Cause × Word) (State × Place) :=
  match sp with
  | .g => (s.gLocs (some c.coreid) c.ptbase c.sup acc va n 32).map fun (s', ls) => (s', .g ls)
  | .s =>
    match firstBeyond va n (if c.scrLog = 0 then 0 else 2 ^ c.scrLog) with
    | some b => .error (.dataAccess, b)
    | none => .ok (s, .s va.toNat)
  | .c =>
    if c.caveLost then .error (.caveLost, va) else
    match firstBeyond va n (c.cavepart * (12 * 2 ^ 20)) with
    | some b => .error (.caveRange, b)
    | none => .ok (s, .c va.toNat)

def Place.lines : Place → List Nat
  | .g ls => (ls.map fun l => lineOf l.pa).eraseDups
  | _ => []

/-- The lines of memory itself, where a poison marker lies (R364; log 64): a byte of a folio aperture is a byte of a row in DRAM. -/
def Place.marks : Place → List Nat
  | .g ls => (ls.map fun l => lineOf l.pos).eraseDups
  | _ => []

/-- Some byte lies in the device register space (R381). -/
def Place.inReg : Place → Bool
  | .g ls => ls.any fun l => isReg l.pa
  | _ => false

/-- Some byte lies in a peer's window (R381). -/
def Place.inPeer : Place → Bool
  | .g ls => ls.any fun l => isPeer l.pa
  | _ => false

/-- A peer access of the instruction gets no completion. -/
def Stall.lost : Stall → Bool
  | .peerLost _ => true
  | _ => false

/-- The access of the instruction in focus goes to a peer that does not answer (R383). -/
def State.peerFails (s : State) (p : Place) : Bool := p.inPeer && s.cx.stall.lost

/-- Of the peer accesses of a vector instruction this one gets no completion. -/
def State.peerFailsNow (s : State) (p : Place) : Bool := p.inPeer && s.cx.stall == .peerLost 0

/-- One peer access less until the one that gets no completion. -/
def State.countPeer (s : State) (p : Place) : State :=
  match p.inPeer, s.cx.stall with
  | true, .peerLost (k + 1) => { s with cx := { s.cx with stall := .peerLost k } }
  | _, _ => s

/-- A poisoned line is touched (R364). -/
def State.poisoned (s : State) (p : Place) : Bool := p.marks.any fun l => s.poison.contains l

/-- The bytes of a place as a little-endian number. -/
def State.readPlace (s : State) (c : Ctx) (p : Place) (n : Nat) : Nat :=
  match p with
  | .g ls => ofBytes (ls.map fun l => s.mem.byte l.pos)
  | .s off => c.scratch.readN off n
  | .c off => c.cave.readN off n

/-- Merge bytes under masks into located bytes, lowest first. -/
def mergeAt (m : Memory) : List Nat → List (Byte × Byte) → Memory
  | a :: as, (k, v) :: bs => mergeAt (m.put a ((m.byte a &&& ~~~k) ||| (v &&& k))) as bs
  | _, _ => m

/-- One write counts once against the tag of each line it touches (R202). -/
def State.bumps (s : State) (lines : List Nat) : State := lines.foldl State.bump s

def bumpCave (t : Tags) (off n : Nat) : Tags :=
  (List.range ((off + n - 1) / 128 - off / 128 + 1)).foldl (fun t k => t.put (off / 128 + k) (t.get (off / 128 + k) + 1)) t

/-- Perform a write of bytes under masks at a place of context `id`. -/
def State.writePlace (s : State) (id : Nat) (p : Place) (bs : List (Byte × Byte)) : State :=
  match p with
  | .g ls => ({ s with mem := mergeAt s.mem (ls.map Loc.pos) bs }).bumps p.lines
  | .s off => s.mapCtx id fun c => { c with scratch := mergeAt c.scratch ((List.range bs.length).map (off + ·)) bs }
  | .c off => s.mapCtx id fun c =>
      { c with
        cave := mergeAt c.cave ((List.range bs.length).map (off + ·)) bs
        caveTags := bumpCave c.caveTags off bs.length }

/-- Whole bytes. -/
def whole (n v : Nat) : List (Byte × Byte) := (bytesOf n v).map fun b => (0xff, b)

/-! ### What walks and accesses meet (R198, R234) -/

/-- What the walks of an access meet (R198): nothing, a held layer that a table lies in (R234), or a peer that does not answer
(R383). -/
inductive WalkMeet where
  | free | wait | lost
  deriving DecidableEq, Repr

/-- The walk for one address of an access of context `c`: none when a TLB holds its translation. The walker is another agent to the
row controller; it waits to read an entry, and to set ACC or DRT in the last one (R196, R234; log 89). -/
def State.walkMeetsAt (s : State) (c : Ctx) (acc : Acc) (va : Word) : WalkMeet :=
  let t := some (towerOf c.coreid)
  if fld va 56 8 != 0 || (s.heldXlate (some c.coreid) (fld c.ptbase 48 16) acc va.toNat).isSome then .free
  else
    let ls := walkLocs s t va.toNat 4 (fld c.ptbase 11 37 * 2048)
    if c.stall.lost && ls.any fun l => isPeer l.pa then .lost
    else
      let marks (l : Loc) : Bool :=
        let e := s.readPte t l
        bitOf e 1 && (!bitOf e 55 || (acc.writes && !bitOf e 54)) &&
          match s.rowMeet none l with
          | .free => false
          | _ => true
      if (ls.any fun l => s.loadWaits none l) || (ls.head?.any marks) then .wait else .free

/-- The walks of an access of `n` bytes, page by page. -/
def State.walkMeets (s : State) (c : Ctx) (sp : Space) (acc : Acc) (va : Word) (n : Nat) : WalkMeet :=
  match sp with
  | .g =>
    if s.noClaims && !c.stall.lost then .free
    else
      let pages := (List.range ((va.toNat % 4096 + n + 4095) / 4096)).map fun k =>
        if k = 0 then va else BitVec.ofNat 64 (va.toNat / 4096 * 4096 + 4096 * k)
      ((pages.map (s.walkMeetsAt c acc)).find? fun w => w != .free).getD .free
  | _ => .free

/-- A load at a place waits for a held layer. -/
def State.layerWaits (s : State) (core : Option (BitVec 12)) : Place → Bool
  | .g ls => ls.any (s.loadWaits core)
  | _ => false

/-- The first ROW_SELF of a place, or whether a byte of it waits. -/
def State.rowMeets (s : State) (c : Option Ctx) : Place → RowMeet
  | .g ls => ls.foldl (fun r l => match r with
      | .self v => .self v
      | .wait => match s.rowMeet c l with | .self v => .self v | _ => .wait
      | .free => s.rowMeet c l) .free
  | _ => .free

/-! ### Accesses that wait (R296, R234, R261) -/

/-- The context that has issued a waiting access; none for the device itself. -/
def Pend.owner : Pend → Option Nat
  | .store id _ _ _ _ _ => id
  | .update id _ _ _ _ _ => some id
  | .flush id _ _ _ _ _ => some id
  | .load _ _ _ _ => none

def Pend.locs : Pend → List (Nat × Nat)
  | .store _ _ l _ _ _ => l
  | .update _ _ l _ _ _ => l
  | .flush _ _ l _ _ _ => l
  | .load _ _ l _ => l

def Pend.space : Pend → Space
  | .update _ sp _ _ _ _ => sp
  | .flush _ sp _ _ _ _ => sp
  | _ => .g

/-- The bytes of a waiting access. -/
def Pend.spots (e : Pend) : List Nat := e.locs.map Prod.snd

/-- The vector store that a waiting store belongs to: its context and its number there (R218 to R220). -/
def Pend.part : Pend → Option (Nat × Nat)
  | .store (some id) _ _ _ (some n) _ => some (id, n)
  | _ => none

/-- A write of the device itself. -/
def Pend.own : Pend → Bool
  | .store none _ _ _ _ _ => true
  | _ => false

/-- A waiting store comes after the earlier writes of its vector store (R218, R219). -/
def Pend.ordered : Pend → Bool
  | .store _ _ _ _ _ o => o
  | _ => false

/-- Entry `f`, issued before entry `e`, is performed before it: its bytes overlap those of `e` and both have one issuer (R296), or
both are writes of one vector store with an order (R218, R219), or of the device itself (R40; log 21). -/
def Pend.leads (f e : Pend) : Bool :=
  (f.owner == e.owner && f.space == e.space && f.spots.any fun a => e.spots.contains a) ||
  (f.own && e.own) ||
  (e.ordered && e.part.isSome && f.part == e.part)

/-- The bytes of a place by space and position. -/
def Place.spots (p : Place) (n : Nat) : Space × List Nat :=
  match p with
  | .g ls => (.g, ls.map Loc.pos)
  | .s off => (.s, (List.range n).map (off + ·))
  | .c off => (.c, (List.range n).map (off + ·))

/-- A matrix flush of context `id` in a queue has an element on one of the bytes. -/
def MOp.overlaps (id : Nat) (sp : Space) (spots : List Nat) : MOp → Bool
  | .mflush j _ _ sp' lines _ => j == id && sp' == sp && lines.any fun l => spots.any fun b => decide (l.2 ≤ b ∧ b < l.2 + 128)
  | _ => false

/-- The aligned 16-byte chunk of an element at a place (R300). -/
def Place.chunk (p : Place) (n : Nat) : Space × List Nat :=
  let (sp, l) := p.spots n
  (sp, (List.range 16).map (l.headD 0 / 16 * 16 + ·))

/-- The context's own earlier access to one of the bytes has not been performed; `part` leaves out the writes of one vector store. -/
def State.blockedOn (s : State) (c : Ctx) (part : Option (Nat × Nat)) (at_ : Space × List Nat) : Bool :=
  (s.pend.any fun e => e.owner == some c.id && (part.isNone || e.part != part) && e.space == at_.1 &&
    e.locs.any fun l => at_.2.contains l.2) ||
  ((s.core c.coreid).queue.any fun q => q.overlaps c.id at_.1 at_.2)

/-- The context's own earlier access to one of the bytes has not been performed (R296). -/
def State.blocked (s : State) (c : Ctx) (p : Place) (n : Nat) : Bool := s.blockedOn c none (p.spots n)

/-! ### The course of an instruction -/

/-- Why a body stops: a precise trap, or a stall; with the state that stands then. -/
inductive Stop where
  | trap (c : Cause) (v : Word) (s : State)
  | wait (s : State)

/-- What a body computes, or why it stopped. -/
abbrev Run (α : Type) := Except Stop α

/-- How a body ends: the next instruction follows, control goes to a target, or the body has set the pc itself. -/
inductive Done where
  | adv (s : State)
  | to (t : Word) (s : State)
  | as (s : State)

/-- What a completed instruction does to the armed substitute: HARM goes when the first instruction after an eret retires or
traps (R125). -/
def Ctx.disarm (c : Ctx) : Ctx := if c.harm then { c with harm := false, vstart := c.vstart &&& 0x7fffffffffffffff } else c

/-! #### The press (R104 to R108) -/

/-- The fields of a press record (R105). -/
def nestLevels (r : BitVec 1024) : Nat := (r.extractLsb' 96 8).toNat
def nestStreams (r : BitVec 1024) : Nat := (r.extractLsb' 104 8).toNat
def nestCount (r : BitVec 1024) (k : Nat) : Nat := (r.extractLsb' (16 * k) 16).toNat
def nestReg (r : BitVec 1024) (j : Nat) : Reg := r.extractLsb' (128 + 8 * j) 6
def nestStride (r : BitVec 1024) (k j : Nat) : Int := (r.extractLsb' (256 + 128 * k + 32 * j) 32).toInt

/-- A press record that R105 allows. -/
def recordOk (r : BitVec 1024) : Bool :=
  let l := nestLevels r
  let n := nestStreams r
  decide (1 ≤ l ∧ l ≤ 6) && decide (n ≤ 4) && r.extractLsb' 112 16 == 0 && r.extractLsb' 160 96 == 0 &&
  (List.range 6).all (fun k => decide (k < l) || nestCount r k == 0) &&
  (List.range 4).all (fun j =>
    if j < n then r.extractLsb' (128 + 8 * j + 6) 2 == 0 && nestReg r j != 0 else r.extractLsb' (128 + 8 * j) 8 == 0) &&
  (List.range 6).all (fun k => (List.range 4).all fun j => decide (k < l ∧ j < n) || nestStride r k j == 0) &&
  decide ((List.range n).map (nestReg r)).Nodup

/-- Stream `j` at an iteration (R104). -/
def nestStream (r : BitVec 1024) (idx : List Nat) (base : Word) (j : Nat) : Word :=
  base + BitVec.ofInt 64 ((idx.mapIdx fun k (i : Nat) => Int.ofNat i * nestStride r k j).sum)

/-- The next iteration: i0 varies fastest; none after the last (R104). -/
def nextIdx (r : BitVec 1024) : Nat → List Nat → Option (List Nat)
  | _, [] => none
  | k, i :: is =>
    if i + 1 < nestCount r k then some ((i + 1) :: is) else (nextIdx r (k + 1) is).map (0 :: ·)

/-- Set the stream registers for an iteration. -/
def Ctx.setStreams (c : Ctx) (n : Nest) : Ctx :=
  (List.range (nestStreams n.image)).foldl (fun c j =>
    c.writeX (nestReg n.image j) (nestStream n.image n.idx (n.bases.getD j 0) j)) c

/-- The end of the nest: the stream registers hold their bases again, and the PC is after the body. A nest that a handler's press
began is the context's only nest: when it has ended before the eret, the eret resumes under no nest (R108 names only the
handler's nest; DESIGN CHOICE, log 90). -/
def Ctx.endNest (c : Ctx) (n : Nest) : Ctx :=
  let c := (List.range (nestStreams n.image)).foldl (fun c j => c.writeX (nestReg n.image j) (n.bases.getD j 0)) c
  { c with press := none, pc := n.after }

/-- The end of one pass over the body. -/
def Ctx.nestPass (c : Ctx) (n : Nest) : Ctx :=
  match nextIdx n.image 0 n.idx with
  | none => c.endNest n
  | some idx =>
    let n' := { n with idx := idx }
    { c.setStreams n' with press := some n', pc := (n.body.headD (n.after, 0)).1 }

/-- A trap holds the nest and the VP block; they go on at the eret that ends the first of the traps that hold them (R108, R182,
R353). -/
def Nest.hold (n : Nest) : Nest := { n with held := n.held + 1 }
def Nest.letGo (n : Nest) : Nest := { n with held := n.held - 1 }
def VpBlock.hold (n : VpBlock) : VpBlock := { n with held := n.held + 1 }
def VpBlock.letGo (n : VpBlock) : VpBlock := { n with held := n.held - 1 }

/-- A trap holds the rowact that stalls; it comes back at the eret that ends the first of the traps that hold it, when that eret goes
to its address, and is given up otherwise, while its claim stands (R242, R352). -/
def Handle.hold (h : Handle) : Handle := { h with issuing := h.issuing.map fun q => (q.1, q.2 + 1) }
def Handle.letGo (pc : Word) (h : Handle) : Handle :=
  { h with issuing := match h.issuing with
      | some (a, k) => if k ≤ 1 && a != pc then none else some (a, k - 1)
      | none => none }

/-- The instruction at an address is skipped: a rowact that came back there is given up, while its claim stands (R71, R242). -/
def Handle.skipAt (pc : Word) (h : Handle) : Handle := if h.issuing == some (pc, 0) then { h with issuing := none } else h

/-- The nest that runs, while no handler runs, also where the pc has left its body (DESIGN CHOICE, log 96). -/
def Ctx.nestNow (c : Ctx) : Option Nest :=
  match c.press with
  | some n => if n.held = 0 then some n else none
  | none => none

/-! #### VP blocks (R179 to R182) -/

/-- The block in hand ends; one that a handler's own block had put aside takes its place (R182, R353). -/
def Ctx.leaveBlock (c : Ctx) : Ctx := { c with vp := c.vpOut.head?, vpOut := c.vpOut.tail }

/-- The current VP ends at the vend: the next one starts at the first instruction, or lock-step resumes after the vend (R181). -/
def Ctx.endVp (c : Ctx) (b : VpBlock) : Ctx :=
  match b.todo with
  | e :: es => { c with vp := some { b with cur := e, todo := es, count := 0 }, pc := b.first }
  | [] => { c.leaveBlock with vstart := 0, pc := b.last + 4 }

/-! #### Replay (R355) -/

/-- The fields of an ifrec register (R349). -/
def recStart (r : Word) : Word := BitVec.ofNat 64 (fld r 12 12)
def recVl (r : Word) : Word := BitVec.ofNat 64 (fld r 45 13)
def recVtype (r : Word) : Word := BitVec.ofNat 64 (fld r 24 13 + fld r 37 8 * 2 ^ 16)
def recLag (r : Word) : Nat := fld r 61 2
def recOff (r : Word) : Word := sextN 12 (fld r 0 12)

/-- The indices `n` iterations earlier; the first iteration when there is none. -/
def lagIdx (r : BitVec 1024) : Nat → List Nat → List Nat
  | 0, idx => idx
  | n + 1, idx =>
    let rec back : Nat → List Nat → Option (List Nat)
      | _, [] => none
      | k, i :: is => if i > 0 then some ((i - 1) :: is) else (back (k + 1) is).map ((nestCount r k - 1) :: ·)
    match back 0 idx with
    | none => idx
    | some j => lagIdx r n j

/-- The iteration that the instruction to issue belongs to: that of a replayed record lies LAG before the nest's (R349, R355). -/
def Ctx.idxNow (c : Ctx) (n : Nest) : List Nat :=
  match c.replay with
  | some r => lagIdx n.image (((r.todo.head?).map recLag).getD 0) n.idx
  | none => n.idx

/-- Write several scalars. -/
def Ctx.putRegs (c : Ctx) (l : List (Reg × Word)) : Ctx := l.foldl (fun d q => d.writeX q.1 q.2) c

/-- A shape that vtype may hold (R111, R116): no dimension code 7, at most VLMAX elements. -/
def shapeLegal (v : Word) : Bool :=
  fld v 4 3 != 7 && fld v 7 3 != 7 && fld v 10 3 != 7 &&
  decide (2 ^ (fld v 4 3 + fld v 7 3 + fld v 10 3) ≤ vlmax (Fmt.ofCode (v.extractLsb' 0 4)).sew)

/-- A vtype that comes from software past the checks of ctlw: one that no vtype may hold gives a free value that vtype may hold
(R111; log 91). -/
def legalShape (v : Word) : Word :=
  if shapeLegal v then v else if shapeLegal (Config.openShape v) then Config.openShape v else 0

/-- The vtype of a record. -/
def recShape (q : Word) : Word := legalShape (recVtype q)

/-- Set the machine up for the head record of a replay, or end the replay; vl stays within the shape (R111). -/
def Ctx.loadRec (c : Ctx) (r : Replay) : Ctx :=
  let c := c.putRegs r.streams
  match r.todo with
  | [] =>
    let c := { c with replay := none, vl := r.vl, vtype := r.vtype, pc := r.next }
    match c.nestNow with
    | some n => if r.next = n.after then c.nestPass n else c
    | none => c
  | q :: _ =>
    let c := { c with vtype := recShape q }
    let c := { c with
      vl := if (recVl q).toNat > c.cap then BitVec.ofNat 64 c.cap else recVl q
      pc := r.base + 4 * recOff q
      vstart := (c.vstart &&& 0x8000000000000000) ||| recStart q }
    match c.nestNow with
    | none => { c with replay := some { r with streams := [] } }
    | some n =>
      if recLag q = 0 then { c with replay := some { r with streams := [] } }
      else
        let regs := (List.range (nestStreams n.image)).map fun j => (nestReg n.image j, c.readX (nestReg n.image j))
        { c.setStreams { n with idx := lagIdx n.image (recLag q) n.idx } with
          replay := some { r with streams := regs } }

/-! #### Retiring -/

/-- The pc after an instruction of `len` bytes that sends control nowhere: the next instruction, the next pass of a press, or
the next record of a replay; a VP counts its instructions (R66, R106, R181, R355). -/
def Ctx.advance (c : Ctx) (len : Nat) : Ctx :=
  let here := c.pc
  let c := { c.disarm with prev := here, stall := .none }
  let next := here + BitVec.ofNat 64 len
  match c.replay with
  | some r => c.loadRec { r with todo := r.todo.tail }
  | none =>
    match c.vpBlock with
    | some b => { c with vp := some { b with count := b.count + 1 }, pc := next }
    | none =>
      match c.nestNow with
      | some n => if next = n.after then c.nestPass n else { c with pc := next }
      | none => { c with pc := next }

/-- Control goes to `t` (R80). In a replay the next record follows (R355). -/
def Ctx.jump (c : Ctx) (t : Word) : Ctx :=
  let here := c.pc
  let c := { c.disarm with prev := here, stall := .none }
  match c.replay with
  | some r => c.loadRec { r with todo := r.todo.tail }
  | none =>
    match c.vpBlock with
    | some b => { c with vp := some { b with count := b.count + 1 }, pc := t }
    | none => { c with pc := t }

/-! ### The event ring and what the device sends (R386, R379) -/

def State.send (s : State) (m : Sent) : State := { s with dev := { s.dev with sent := s.dev.sent ++ [m] } }

/-- Slots of the event ring (R385). -/
def ringSize (d : Device) : Nat := 2 ^ (fld d.evbase 0 4 + 4)

/-- The ring is full: its producer is a whole ring ahead of the host (R40). -/
def ringFull (d : Device) : Bool := decide ((d.evprod - d.evcons).toNat ≥ ringSize d)

/-- The phase byte of index `i` in a ring of 2^k slots (R40). -/
def phaseByte (i : BitVec 32) (k : Nat) : Byte := if i.getLsbD k then 2 else 1

/-- Write an event into the free slot and raise EVVEC (R386). -/
def State.writeEvent (s : State) (e : Event) : State :=
  let d := s.dev
  let k := fld d.evbase 0 4 + 4
  let a := 2 ^ 44 + fld d.evbase 12 40 * 4096 + 32 * (d.evprod.toNat % 2 ^ k)
  let m := s.mem.writeN a 4 (e.kind.toNat + 256 * e.tower.toNat)
  let m := m.writeN (a + 4) 4 d.evprod.toNat
  let m := m.writeN (a + 8) 8 e.addr.toNat
  let m := m.writeN (a + 16) 8 e.arg.toNat
  let m := m.writeN (a + 24) 8 e.core.toNat
  let m := m.put (a + 3) (phaseByte d.evprod k)
  ({ s with
      mem := m
      dev := { d with
        evprod := d.evprod + 1
        asks := match e.ask with | some q => d.asks ++ [(d.evprod, q)] | none => d.asks } }).send (.irq d.evvec)

/-- Produce an event: it waits for a free slot while the ring is full (R386). -/
def State.emit (s : State) (e : Event) : State :=
  if ringFull s.dev || !s.dev.evwait.isEmpty then { s with dev := { s.dev with evwait := s.dev.evwait ++ [e] } }
  else s.writeEvent e

/-- Events that waited are written while slots are free. -/
def State.pumpEvents (s : State) : Nat → State
  | 0 => s
  | n + 1 =>
    match s.dev.evwait with
    | [] => s
    | e :: es =>
      if ringFull s.dev then s
      else State.pumpEvents (({ s with dev := { s.dev with evwait := es } }).writeEvent e) n

/-- Function `f` is host-assisted (R385). -/
def State.assisted (s : State) (f : Nat) : Bool := s.dev.ha.getLsbD f

/-- The context in a slot of a core. -/
def State.inSlot (s : State) (core : Nat) (slot : Bool) : Option Ctx :=
  s.ctxs.find? fun c => c.resident && c.coreid.toNat == core && c.slot == slot

/-- What the snapshot registers of a core show: epc, PC and status of both contexts, the cycle register, and the last cause codes
(R389). -/
def State.coreShows (s : State) (core : Nat) : List Word :=
  let of (slot : Bool) (f : Ctx → Word) : Word := ((s.inSlot core slot).map f).getD 0
  [of false Ctx.epc, of false Ctx.pc, of false Ctx.status, of true Ctx.epc, of true Ctx.pc, of true Ctx.status,
    Config.cycleAt s.ticks, of false Ctx.cause, of true Ctx.cause]

/-- The common snapshot trigger (R389): the sequence number of the trigger, none while a snapshot is held; the registers of every
core are latched, those of the cores with a context by name. -/
def State.snapshot (s : State) : Option (BitVec 32) × State :=
  if s.dev.snapHeld then (none, s)
  else
    let q := s.dev.snapSeq + 1
    let cores := ((s.ctxs.filter Ctx.resident).map fun c => c.coreid.toNat).eraseDups
    (some q, { s with dev := { s.dev with
      snapSeq := q, snapHeld := true, snap := (4096, s.coreShows 4096) :: cores.map fun k => (k, s.coreShows k) } })

/-! ### Fault domains (R28, R353, R376) -/

/-- The parent of a node: in its tree, or the leaf whose context launched the tree (R49). -/
def State.parentOf (s : State) (r : Nat × Nat) : Option (Nat × Nat) :=
  match s.node? r.1 r.2 with
  | none => none
  | some n =>
    match n.parent with
    | some p => some (r.1, p)
    | none => (s.launch? r.1).bind Launch.parent

/-- A node and its ancestors, nearest first. -/
def State.chain (s : State) : Nat → Option (Nat × Nat) → List (Nat × Nat)
  | 0, _ => []
  | _, none => []
  | k + 1, some r => r :: s.chain k (s.parentOf r)

def State.ancestors (s : State) (r : Nat × Nat) : List (Nat × Nat) := s.chain (20 * (s.dev.launches.length + 1)) (some r)

/-- A node lies in the subtree of another. -/
def State.under (s : State) (top r : Nat × Nat) : Bool := (s.ancestors r).contains top

/-- What a fault domain decides (R28): the node whose subtree stops under policy 1, and whether the fault went to the host by
escalation from the root. -/
inductive Verdict where
  | one
  | subtree (top : Nat × Nat)
  | escalated (root : Nat × Nat)
  deriving DecidableEq, Repr

/-- Follow FDOM upwards: a node that inherits passes the question to its parent, and policy 2 asks the parent again. -/
def State.verdict (s : State) : List (Nat × Nat) → Verdict
  | [] => .one
  | r :: rs =>
    match (s.node? r.1 r.2).bind Node.fdom with
    | none => s.verdict rs
    | some 0 => .one
    | some 1 => .subtree r
    | some _ => if rs.isEmpty then .escalated r else s.verdict rs

/-- FLT, POL and CAUSE of the first unhandled fault of a leaf and its ancestors (R378). -/
def State.countFault (s : State) (leaf : Nat × Nat) (pol : BitVec 2) (cause : BitVec 8) : State :=
  (s.ancestors leaf).foldl (fun s r => s.mapNode r.1 r.2 fun n =>
    { n with flt := n.flt.orElse fun _ => some (pol, cause) }) s

/-- NFLT of a leaf and its ancestors counts an instance, copy or task that retires with a fault (R376, R378). -/
def State.countFailed (s : State) (leaf : Nat × Nat) : State :=
  (s.ancestors leaf).foldl (fun s r => s.mapNode r.1 r.2 fun n => { n with nflt := min 65535 (n.nflt + 1) }) s

/-- NRET of a leaf and its ancestors counts an instance or copy that retires by exit (R378). -/
def State.countRetired (s : State) (leaf : Nat × Nat) : State :=
  (s.ancestors leaf).foldl (fun s r => s.mapNode r.1 r.2 fun n => { n with nret := min (2 ^ 32 - 1) (n.nret + 1) }) s

/-- A write of the device itself waits. -/
def State.deviceOut (s : State) : Bool := s.pend.any Pend.own

/-- Reads of the device have led from `s` to `t`, and one of their walks waits to set ACC (R234). -/
def State.marksWait (s t : State) : Bool := t.pend.length != s.pend.length

/-- Write a number at a virtual address of a launch, as the device does for its own records; it waits for a held layer like any
other agent's write (R234), and for the device's earlier writes (R40, R378). Nothing happens where the address does not translate
(log 21). -/
def State.deviceWrite (s : State) (ptbase : Word) (va : Word) (n v : Nat) : State :=
  match s.gLocs none ptbase true .store va n (n / 4096 + 2) with
  | .error _ => s
  | .ok (s', ls) =>
    if ls.any fun l => isReg l.pa then s
    else match s'.deviceOut, s'.rowMeets none (.g ls) with
      | false, .free => s'.writePlace 0 (.g ls) (whole n v)
      | _, _ => { s' with pend := s'.pend ++ [.store none va (ls.map fun l => (l.pa, l.pos)) (whole n v) none false] }

/-- Read a number at a virtual address of a launch, as the device does for its own records; none where the address does not
translate (log 21), or while its walk waits to set ACC (R234). -/
def State.deviceRead (s : State) (ptbase : Word) (va : Word) (n : Nat) : Option (Nat × State) :=
  match s.gLocs none ptbase true .load va n (n / 4096 + 2) with
  | .error _ => none
  | .ok (s', ls) =>
    if (ls.any fun l => isReg l.pa) || s.poisoned (.g ls) || s.marksWait s' then none
    else some (ofBytes (ls.map fun l => s.mem.byte l.pos), s')

/-- The fault record of a leaf (R353): all fields at its first unhandled fault, COUNT alone at later ones. -/
def State.faultRecord (s : State) (leaf : Nat × Nat) (cause : BitVec 8) (pol : Nat) (epc tval from_ : Word) (inst : Nat)
    (coreid : Nat) : State :=
  match s.node? leaf.1 leaf.2, s.launch? leaf.1 with
  | some n, some l =>
    let s := s.mapNode leaf.1 leaf.2 fun n => { n with faults := min 65535 (n.faults + 1) }
    let a := n.save + 0xfc0
    if n.save = 0 then s
    else if n.faults > 0 then s.deviceWrite l.ptbase (a + 2) 2 (min 65535 (n.faults + 1))
    else
      s.deviceWrite l.ptbase a 64
        (cause.toNat + pol * 2 ^ 8 + 2 ^ 16 + epc.toNat * 2 ^ 64 + tval.toNat * 2 ^ 128 + from_.toNat * 2 ^ 192
          + inst * 2 ^ 256 + coreid * 2 ^ 288)
  | _, _ => s

/-- A context stops for good; it goes when what it issued, an AtomicOp with the host among it, is done (R376). -/
def Ctx.stopNow (c : Ctx) : Ctx :=
  match c.phase with
  | .running | .stopped | .awaitTask | .switchedOut =>
    { c with
      phase := .ending, stall := if c.hostReq.isSome then c.stall else .none
      hostSave := .no, saveSlot := if c.hostSave = .no then c.saveSlot else none }
  | _ => c

/-- Two contexts belong to one instance: the same context, or members of one gang copy (R28). -/
def Ctx.sameInstance (a b : Ctx) : Bool :=
  a.id == b.id || (a.leaf == b.leaf && a.gang.isSome && a.gang.map Prod.fst == b.gang.map Prod.fst)

/-- Stop every instance of a subtree and place nothing more of it (R28, R376). -/
def State.stopTree (s : State) (top : Nat × Nat) : State :=
  let hit (c : Ctx) : Bool := match c.leaf with | some r => s.under top r | none => false
  let mark (l : Launch) : Launch :=
    { l with nodes := l.nodes.mapIdx fun k n => if s.under top (l.num, k) then { n with stopped := true } else n }
  { s with
    cx := if hit s.cx then s.cx.stopNow else s.cx
    others := s.others.map fun c => if hit c then c.stopNow else c
    dev := { s.dev with launches := s.dev.launches.map mark } }

/-- Stop the instance of a context. -/
def State.stopInstance (s : State) (c : Ctx) : State :=
  { s with
    cx := if c.sameInstance s.cx then s.cx.stopNow else s.cx
    others := s.others.map fun o => if c.sameInstance o then o.stopNow else o }

/-- Apply policy 0 or 1 for a fault of a context; `top` is the node that policy 1 stops. -/
def State.applyPolicy (s : State) (c : Option Ctx) (pol1 : Bool) (top : Nat × Nat) : State :=
  if pol1 then s.stopTree top
  else match c with
    | some c => s.stopInstance c
    | none => s

/-- The core field of a context's position. -/
def Ctx.place (c : Ctx) : BitVec 16 := c.coreid.setWidth 16

/-- An unhandled fault of a leaf (R28, R353): its record, its counts, and the policy, or the question to the host. `c` is the
context, none for a record of a pool that is not run (R38) and for an engine graph leaf (R39). `t` is the tower. -/
def State.unhandledAt (s : State) (c : Option Ctx) (leaf : Nat × Nat) (cause : BitVec 8) (epc tval from_ : Word) (inst cid : Nat)
    (t : BitVec 3) : State :=
  if s.assisted 1 then
    let s := (s.faultRecord leaf cause 3 epc tval from_ inst cid).countFault leaf 3 cause
    let s := match c with
      | some c => s.mapCtx c.id fun d => { d with phase := .stopped, stall := .none }
      | none => s
    let addr := ((s.node? leaf.1 leaf.2).map Node.addr).getD 0
    s.emit ⟨3, t.setWidth 8, addr, cause.setWidth 64, BitVec.ofNat 16 cid,
      some (match c with | some c => .fault c.id | none => .record leaf.1 leaf.2)⟩
  else
    match s.verdict (s.ancestors leaf) with
    | .one =>
      ((s.faultRecord leaf cause 0 epc tval from_ inst cid).countFault leaf 0 cause).applyPolicy c false leaf
    | .subtree top =>
      ((s.faultRecord leaf cause 1 epc tval from_ inst cid).countFault leaf 1 cause).applyPolicy c true top
    | .escalated root =>
      ((s.faultRecord leaf cause 3 epc tval from_ inst cid).countFault leaf 3 cause).applyPolicy c true root

/-- An unhandled fault of a context of a leaf. -/
def State.unhandled (s : State) (c : Ctx) (leaf : Nat × Nat) (cause : BitVec 8) (epc tval from_ : Word) : State :=
  s.unhandledAt (some c) leaf cause epc tval from_ (c.inst.toNat % 2 ^ 32) c.coreid.toNat (towerOf c.coreid)

/-! ### Taking a trap, and returning (R351 to R355, R369) -/

/-- The codes of R346. -/
def Cause.code : Cause → BitVec 8
  | .illLen => 0x01 | .illOp => 0x02 | .illEnc => 0x03 | .illOperand => 0x04 | .illVp => 0x05 | .priv => 0x06
  | .fetchXlate => 0x08 | .fetchAccess => 0x09 | .dataXlate => 0x0a | .dataAccess => 0x0b | .align => 0x0c
  | .atomicUnsupported => 0x0d | .elemReserved => 0x10 | .scaleReserved => 0x11 | .halo => 0x12 | .maskOvf => 0x13
  | .maskUnf => 0x14 | .rowLost => 0x18 | .rowBusy => 0x19 | .rowSelf => 0x1a | .rowClosed => 0x1b | .folioRange => 0x1c
  | .vatNotile => 0x20 | .queueUnbound => 0x21 | .gangDeadlock => 0x22 | .nodeBusy => 0x23 | .engineFault => 0x24
  | .caveRange => 0x28 | .cavePool => 0x29 | .caveLost => 0x2a | .dataLost => 0x2b | .poolInvalid => 0x30
  | .graderInvalid => 0x31 | .preempt => 0x38 | .thermal => 0x39 | .machineCheck => 0x3a | .sys => 0x3f

/-- An ifrec image (R349). -/
def mkRec (start : Nat) (vtype vl : Word) (lag : Nat) (off : Word) : Word :=
  BitVec.ofNat 64 (2 ^ 63 + lag % 4 * 2 ^ 61 + fld vl 0 13 * 2 ^ 45 + fld vtype 16 8 * 2 ^ 37 + fld vtype 0 13 * 2 ^ 24
    + start % 4096 * 2 ^ 12 + fld off 0 12)

/-- The stopped instructions of a trap (R354): the trapping instruction when it is recorded, then what a replay still had to
issue; and the address where fetch resumes. `len` is the length of the trapping instruction. -/
def Ctx.records (c : Ctx) (recorded : Bool) (len : Nat) : List Word × Word :=
  match c.replay with
  | none =>
    if recorded && c.vpNow.isNone then ([mkRec c.start c.vtype c.vl 0 0], c.pc + BitVec.ofNat 64 len) else ([], 0)
  | some r =>
    let rest := r.todo.tail.map fun q =>
      let addr := r.base + 4 * recOff q
      (q &&& ~~~0xfff) ||| (((addr - c.pc).sshiftRight 2) &&& 0xfff)
    let lag := match r.todo.head? with | some q => recLag q | none => 0
    (mkRec c.start c.vtype c.vl lag 0 :: rest, r.next)

/-- What a trap or a switch records of where the context stopped (R352, R354): the records, epc, and the registers of an
uninterrupted replay. A substitute that is armed stays so (R125). -/
def Ctx.stopRegs (c : Ctx) (recorded : Bool) (len : Nat) (epc : Word) : Ctx :=
  let (recs, next) := c.records recorded len
  let start := BitVec.ofNat 64 c.start
  let live := c.replay
  let c := match live with
    | some r => c.putRegs r.streams
    | none => c
  { c with
    inflight := if recs.isEmpty then c.inflight &&& 0x1fffffffffffffff
                else BitVec.ofNat 64 (recs.length * 2 ^ 61) ||| (next &&& 0x00fffffffffffffc)
    ifrec := c.ifrec.mapIdx fun k w => recs.getD k w
    replay := none
    vl := match live with | some r => r.vl | none => c.vl
    vtype := match live with | some r => r.vtype | none => c.vtype
    stopVl := match live with | some r => r.vl | none => c.vl
    stopVtype := match live with | some r => r.vtype | none => c.vtype
    vstart := if recs.isEmpty then c.vstart else (c.vstart &&& 0x8000000000000000) ||| start
    epc := epc }

/-- A trap whose cause SNAPCTL names triggers a snapshot (R389). -/
def State.trapSnap (s : State) (code : BitVec 8) : State :=
  if bitOf (s.dev.snapctl.setWidth 64) 6 && s.dev.snapctl.extractLsb' 0 6 == code.setWidth 6 then s.snapshot.2 else s

/-- The registers of trap entry before the question of a handler (R352). -/
def Ctx.trapRegs (c : Ctx) (cause : Cause) (v : Word) (async : Bool) (recorded : Bool) (len : Nat) (epc from_ : Word) : Ctx :=
  let vp := BitVec.ofNat 64 (c.vpNow.getD 0)
  let c := c.stopRegs recorded len epc
  { c with
    vstart := if fld c.inflight 61 3 = 0 then vp else BitVec.ofNat 64 c.start
    harm := false
    stall := .none
    cause := cause.code.setWidth 64, tval := v, fromReg := from_
    press := c.press.map Nest.hold
    vp := c.vp.map VpBlock.hold
    vpOut := c.vpOut.map VpBlock.hold
    h := c.h.map Handle.hold
    status := setFld (setFld c.status 1 1 (fld c.status 0 1)) 7 1 (if async then 1 else 0) }

/-- Take a trap in the context in focus (R352): the registers, then the handler, or, with a handler running or none enabled, the
fault domain of R28 under R353. A fetch fault at the handler's first instruction has EPC as its `from` (R79; DESIGN CHOICE, log 95). -/
def State.enterTrap (s : State) (cause : Cause) (v : Word) (async : Bool) (recorded : Bool) (len : Nat) (epc from_ : Word) :
    State :=
  let c := s.cx.trapRegs cause v async recorded len epc from_
  let s1 := State.trapSnap { s with cx := c } cause.code
  if bitOf s.cx.status 2 || !bitOf s.cx.tvec 0 then
    match c.leaf with
    | some leaf => s1.unhandled c leaf cause.code epc v from_
    | none => s1.upd Ctx.stopNow
  else
    s1.upd fun c => { c with
      status := c.status ||| 5
      prev := epc
      pc := BitVec.ofNat 64 (fld c.tvec 2 54 * 4) }

/-- A precise trap of the instruction at pc (R351, R352). Under host-assisted translation-fault service a translation fault
first goes to the host, and the context stops in place (R386). -/
def State.takeTrap (s : State) (cause : Cause) (v : Word) (recorded : Bool) (len : Nat) (wr : Bool) : State :=
  if s.assisted 0 && (cause == .dataXlate || cause == .fetchXlate) then
    (s.upd fun c => { c with phase := .stopped, stall := if recorded then .elem len else .none }).emit
      ⟨2, (towerOf s.cx.coreid).setWidth 8, v,
        BitVec.ofNat 64 (fld s.cx.ptbase 48 16 + (if cause == .fetchXlate then 2 ^ 17 else if wr then 2 ^ 16 else 0)), s.cx.place,
        some (.xlate s.cx.id cause v)⟩
  else s.enterTrap cause v false recorded len s.cx.pc s.cx.prev

/-- A record as it is resumed: under the vl and the vtype in force now where they have changed since the context stopped (R112), else
under its own (R355; DEDUCED, log 92). -/
def Ctx.resumed (c : Ctx) (q : Word) : Word :=
  let q := if c.vl = c.stopVl then q else setFld q 45 13 (fld c.vl 0 13)
  if c.vtype = c.stopVtype then q else setFld (setFld q 24 13 (fld c.vtype 0 13)) 37 8 (fld c.vtype 16 8)

/-- The context goes on where it stopped (R355): at epc, or through the records. A held VP block starts again at vstart under
vfetch and goes on at epc under vfetch.ord (R182). With an epc outside the body of a held nest no pass of the nest ends there, and it
stays active (R108; DESIGN CHOICE, log 96). -/
def Ctx.goOn (c : Ctx) : Ctx :=
  let n := fld c.inflight 61 3
  let c := { c with
    inflight := setFld c.inflight 61 3 0, vp := c.vp.map VpBlock.letGo, vpOut := c.vpOut.map VpBlock.letGo }
  if n = 0 then
    match c.vp with
    | some b =>
      if b.held = 0 then
        let from_ := b.vps.filter fun e => decide (c.start ≤ e)
        match from_ with
        | [] => { c.leaveBlock with vstart := 0, pc := b.last + 4 }
        | e :: es =>
          if b.ordered then { c with vp := some { b with cur := e, todo := es }, pc := c.epc }
          else { c with vp := some { b with cur := e, todo := es, count := 0 }, pc := b.first }
      else { c with pc := c.epc }
    | none => { c with pc := c.epc }
  else
    let recs := (c.ifrec.toList.take n).mapIdx fun k q => c.resumed (if k = 0 then setFld q 12 12 c.start else q)
    c.loadRec ⟨recs, c.epc, c.vl, c.vtype, [], BitVec.ofNat 64 (fld c.inflight 2 54 * 4)⟩

/-- eret (R355, R369): the mode, the handler's end, then the records, or epc. -/
def Ctx.ret (c : Ctx) : Ctx :=
  let harm := bitOf c.vstart 63
  Ctx.goOn { c with
    status := setFld (setFld c.status 0 1 (fld c.status 1 1)) 2 1 0
    harm := harm, prev := c.pc, stall := .none
    press := c.press.map Nest.letGo, h := c.h.map (Handle.letGo c.epc) }

/-- An asynchronous event for a context (R351): it pends, one of each cause and each location of a MACHINE_CHECK, until the
context may take it; with no handler enabled it is then unhandled, whether a handler runs or not (R353). -/
def State.raiseAsync (s : State) (id : Nat) (cause : Cause) (v : Word) : State :=
  s.mapCtx id fun c =>
    let same (q : Cause × Word) : Bool := if cause == .machineCheck then q == (cause, v) else q.1 == cause
    let p := if c.pending.any same then c.pending.map (fun q => if same q then (cause, v) else q)
      else c.pending ++ [(cause, v)]
    { c with pending := p }

/-! ### What a context has issued and has not seen done (R250, R261, R301, R307) -/

/-- A store or a vscadd update of context `id`: what a release waits for (R301, R307). -/
def Pend.writeOf (id : Nat) : Pend → Bool
  | .store j _ _ _ _ _ => j == some id
  | .update j _ _ _ _ _ => j == id
  | _ => false

/-- An addition of a flushed element of context `id` (R261). -/
def Pend.flushOf (id : Nat) : Pend → Bool
  | .flush j _ _ _ _ _ => j == id
  | _ => false

def MOp.owner : MOp → Nat
  | .mopa id _ _ _ _ _ _ _ _ _ => id
  | .mzero id _ => id
  | .mflush id _ _ _ _ _ => id
  | .move id _ => id

/-- The place of an mrd or mwr in the queue, which its context takes up again with the instruction itself (R250, R259). -/
def MOp.isMove : MOp → Bool
  | .move _ _ => true
  | _ => false

def MOp.isFlush : MOp → Bool
  | .mflush _ _ _ _ _ _ => true
  | _ => false

/-- Stores and updates of the context that have not been performed. -/
def State.writesOut (s : State) (id : Nat) : Bool := s.pend.any fun e => e.writeOf id

/-- An mflush of the context that has not been performed (R262). -/
def State.flushesOut (s : State) (c : Ctx) : Bool :=
  (s.pend.any fun e => e.flushOf c.id) || (s.core c.coreid).queue.any fun q => q.isFlush && q.owner == c.id

/-- Matrix instructions of the context in its core's queue, beside an mrd or mwr that it is at. -/
def State.queued (s : State) (c : Ctx) : Bool := (s.core c.coreid).queue.any fun q => q.owner == c.id && !q.isMove

/-- No handler takes a precise trap: one runs already, or none is enabled (R353). -/
def Ctx.unhandledNow (c : Ctx) : Bool := bitOf c.status 2 || !bitOf c.tvec 0

/-- Writes of the vector store in hand have not been performed (R218 to R220). -/
def State.partOut (s : State) (c : Ctx) : Bool := s.pend.any fun e => e.part == some (c.id, c.stores)

/-- A precise trap waits: older matrix instructions have not completed (R250, R351), the writes of the vector store that traps have
not been performed (R218 to R220), or the fault record, which is a release, waits for the context's stores (R353). -/
def State.trapWaits (s : State) (c : Ctx) : Bool :=
  s.queued c || s.flushesOut c || s.partOut c || (c.unhandledNow && s.writesOut c.id)

/-- A failed check becomes a trap on state `s`. -/
def orTrap {α : Type} (s : State) : Except (Cause × Word) α → Run α
  | .ok a => .ok a
  | .error (c, v) => .error (.trap c v s)

/-- Raise a trap when the condition holds. -/
def trapIf (b : Bool) (c : Cause) (v : Word) (s : State) : Run Unit := if b then .error (.trap c v s) else .ok ()
/-- Raise ILL_OPERAND for a reason for which the spec states no tval: a free value that follows from the instruction and its
inputs (R5, R346; log 40). -/
def operandTrap (i : Instr) (s : State) : Stop := .trap .illOperand (Config.openTval i s.cx.x s.cx.vtype) s
/-- The same when the condition holds. -/
def operandTrapIf (i : Instr) (b : Bool) (s : State) : Run Unit := if b then .error (operandTrap i s) else .ok ()
/-- Stall while the condition holds. -/
def waitIf (b : Bool) (s : State) : Run Unit := if b then .error (.wait s) else .ok ()

end Sys2Proof.Machine
end

