-- ==== Sys2Proof/Machine/Caches.lean ====
section
/-! DEFINITION. What the caches show of memory, what they keep, and what makes them give it up: the L1 (R191, R297), the copies of
peer lines (R192, R311), the rind buffers (R201), the instruction caches (R81) and the TLBs (R198). What they keep by themselves
the agenda says (log 89). -/

namespace Sys2Proof.Machine

/-! ### What a load sees -/

/-- The way a load takes (R191, R201, R204): through the L1, past it to the caves, past every copy of a peer line as well, or through
the rind path. -/
inductive Path where
  | l1 | cave | fresh | rind
  deriving DecidableEq, Repr

/-- The word of a number that a cache holds, and the step in which it was taken. -/
def Words.word? (w : Words) (n : Nat) : Option (BitVec 32) := (w.find? fun e => e.1 == n).map fun e => e.2.1
def Words.age? (w : Words) (n : Nat) : Option Nat := (w.find? fun e => e.1 == n).map fun e => e.2.2

/-- The byte of a word at a place. -/
def byteIn (w : BitVec 32) (pos : Nat) : Byte := w.extractLsb' (8 * (pos % 4)) 8

/-- A word that the rind buffers of a cluster hold for an address space, and the step in which it was taken. -/
def State.rindWord (s : State) (cluster asid n : Nat) : Option (BitVec 32) :=
  (s.dev.rind.find? fun r => r.cluster == cluster && r.copy.asid == asid && r.copy.num == n).map fun r => r.copy.word
def State.rindAge (s : State) (cluster asid n : Nat) : Option Nat :=
  (s.dev.rind.find? fun r => r.cluster == cluster && r.copy.asid == asid && r.copy.num == n).map fun r => r.copy.age

/-- The address space of a context (R190). -/
def Ctx.asid (c : Ctx) : Nat := fld c.ptbase 48 16

/-- A byte of g: space as a load of context `c` sees it. Atomics, and pages with UC set, bypass the L1 (R191); a page with UC set is in
no buffer of the rind path (R192). -/
def State.seen (s : State) (c : Ctx) (path : Path) (l : Loc) : Byte :=
  let t := towerOf c.coreid
  match path with
  | .fresh => s.mem.byte l.pos
  | .cave => s.caveByte t l
  | .l1 =>
    match if l.uc then none else (s.core c.coreid).l1.word? (l.pos / 4) with
    | some w => byteIn w l.pos
    | none => s.caveByte t l
  | .rind =>
    match if l.uc then none else s.rindWord (clusterOf c.coreid) c.asid (l.pos / 4) with
    | some w => byteIn w l.pos
    | none => s.caveByte t l

/-- The bytes of a place as a load of context `c` sees them, as a little-endian number. -/
def State.seenPlace (s : State) (c : Ctx) (path : Path) (p : Place) (n : Nat) : Nat :=
  match p with
  | .g ls => ofBytes (ls.map (s.seen c path))
  | _ => s.readPlace c p n

/-! ### What a load leaves in the caches -/

/-- The words of some places. -/
def wordsOf (spots : List Nat) : List Nat := (spots.map fun a => a / 4).eraseDups

/-- What of an access is single-copy atomic (R300): its bytes in one aligned 32-byte sector, or those in one aligned 16-byte chunk
together with the words `mates` of that chunk, which the same instruction reads. -/
inductive Joint where
  | sector
  | chunk (mates : List Nat)
  deriving DecidableEq, Repr

/-- The atomic units of an access: the words of each. -/
def Joint.units (j : Joint) (nums : List Nat) : List (List Nat) :=
  match j with
  | .sector => (nums.map (· / 8)).eraseDups.map fun k => nums.filter fun n => n / 8 == k
  | .chunk mates => (nums.map (· / 4)).eraseDups.map fun k => (nums.filter fun n => n / 4 == k) ++ mates.map (4 * k + ·)

/-- The words that a load names: those of the access, and of its chunks those that the same instruction reads (R191). -/
def Joint.names (j : Joint) (nums : List Nat) : List Nat := (j.units nums).flatten.eraseDups

/-- A cache that took its words in the steps `age` can serve a unit: it holds all of it as it was in one step. -/
def unitHeld (age : Nat → Option Nat) : List Nat → Bool
  | [] => true
  | n :: ns => (age n).isSome && ns.all fun m => age m == age n

/-- Of a unit that the cache of its path cannot serve whole the load reads no word there: the cache gives those it holds up
(R201, R204, R300; log 89). -/
def State.settle (s : State) (c : Ctx) (path : Path) (j : Joint) (ls : List Loc) : State :=
  let units := j.units (wordsOf ((ls.filter fun l => !l.uc).map Loc.pos))
  match path with
  | .l1 =>
    let co := s.core c.coreid
    if co.l1.isEmpty then s
    else
      let torn := (units.filter fun u => !unitHeld co.l1.age? u).flatten
      s.setCore c.coreid { co with l1 := co.l1.filter fun e => !torn.contains e.1 }
  | .rind =>
    let cl := clusterOf c.coreid
    let torn := (units.filter fun u => !unitHeld (s.rindAge cl c.asid) u).flatten
    { s with dev := { s.dev with rind := s.dev.rind.filter fun r =>
        !(r.cluster == cl && r.copy.asid == c.asid && torn.contains r.copy.num) } }
  | _ => s

/-- A word as the caves show it to a tower. -/
def State.caveWord (s : State) (t : BitVec 3) (n : Nat) : BitVec 32 :=
  BitVec.ofNat 32 (ofBytes ((List.range 4).map fun k => s.caveByte t ⟨4 * n + k, 4 * n + k, false⟩))

/-- Words enter a cache; of one that it holds already, the earlier contents stay. The L1 has 16,384 words (R191). -/
def Words.fill (w : Words) (l : Words) : Words :=
  (l.foldl (fun w e => if (w.word? e.1).isSome then w else e :: w) w).take 16384

/-- The L1 of a core after a load: while the caches keep what they read, it takes the words of the span; a load that bypasses it
leaves no word in it that is older than what the load saw (R295). -/
def State.l1After (s : State) (c : Ctx) (path : Path) (j : Joint) (ls : List Loc) : State :=
  let co := s.core c.coreid
  let past (l : Loc) : Bool := l.uc || path != .l1
  let out := wordsOf ((ls.filter past).map Loc.pos)
  let span := j.names (wordsOf ((ls.filter fun l => !past l).map Loc.pos))
  let kept := co.l1.filter fun e => !out.contains e.1
  let l1 := if s.caching then Words.fill kept (span.map fun n => (n, s.caveWord (towerOf c.coreid) n, s.ticks)) else kept
  s.setCore c.coreid { co with l1 := l1 }

/-- The rind buffers of a cluster after a load through them. -/
def State.rindAfter (s : State) (c : Ctx) (j : Joint) (ls : List Loc) : State :=
  let cl := clusterOf c.coreid
  let new := (j.names (wordsOf ((ls.filter fun l => !l.uc).map Loc.pos))).filter fun n => (s.rindWord cl c.asid n).isNone
  { s with dev := { s.dev with rind := new.map (fun n => ⟨cl, c.asid, n, s.caveWord (towerOf c.coreid) n, s.ticks⟩) ++ s.dev.rind } }

/-- What a load of context `c` leaves in the caches: nothing, while they keep nothing and hold nothing. A load past a copy of a peer
line leaves none that is older than what it saw (R295). -/
def State.afterLoad (s : State) (c : Ctx) (path : Path) (j : Joint) (ls : List Loc) : State :=
  if !s.caching && (s.core c.coreid).l1.isEmpty && s.dev.peerLines.isEmpty then s
  else if path = .rind then (if s.caching then s.rindAfter c j ls else s)
  else
    let past := (ls.filter fun l => isPeer l.pos && l.uc).map fun l => lineOf l.pos
    let s1 := (s.l1After c path j ls).leavePeers (towerOf c.coreid) past.contains
    let peers := (ls.filter fun l => isPeer l.pos && !l.uc).map fun l => lineOf l.pos
    if s.caching && path != .fresh then peers.eraseDups.foldl (fun s n => s.keepPeer (towerOf c.coreid) n) s1 else s1

/-- A load of context `c` at a place: the value, and the state that the caches are left in. -/
def State.loadPlace (s : State) (c : Ctx) (path : Path) (j : Joint) (p : Place) (n : Nat) : Nat × State :=
  match p with
  | .g ls =>
    let s := s.settle c path j ls
    (s.seenPlace c path p n, s.afterLoad c path j ls)
  | _ => (s.seenPlace c path p n, s)

/-! ### What a write leaves in the caches (R191, R297, R298) -/

/-- A held word with the bytes of a write at some places, as memory has them now; it stays as old as it was (R297, R300). -/
def State.merged (s : State) (spots : List Nat) (n : Nat) (w : BitVec 32) : BitVec 32 :=
  BitVec.ofNat 32 (ofBytes ((List.range 4).map fun k =>
    if spots.contains (4 * n + k) then s.mem.byte (4 * n + k) else byteIn w k))

/-- How a write that has been performed leaves the L1: a store puts its bytes into the words held there, and one that does not
bypass the L1 may put in words that it writes whole; an atomic bypasses the L1, and the words held there go (R191, R297). -/
inductive Touch where
  | store (keep : Bool)
  | atomic
  deriving DecidableEq, Repr

/-- The words of an L1 after a write at some places. -/
def State.l1Written (s : State) (how : Touch) (spots : List Nat) (w : Words) : Words :=
  let nums := wordsOf spots
  match how with
  | .atomic => w.filter fun e => !nums.contains e.1
  | .store keep =>
    let w := w.map fun e => if nums.contains e.1 then (e.1, s.merged spots e.1 e.2.1, e.2.2) else e
    if keep && s.caching then
      Words.fill w ((nums.filter fun n => (List.range 4).all fun k => spots.contains (4 * n + k)).map fun n =>
        (n, BitVec.ofNat 32 (s.mem.readN (4 * n) 4), s.ticks))
    else w

/-- A write that a context has performed at some places of g: space: what its core's L1 holds after it, and the copies of peer lines
no longer serve its tower. -/
def State.touch (s : State) (c : Ctx) (how : Touch) (spots : List Nat) : State :=
  let co := s.core c.coreid
  let s :=
    if !s.caching && co.l1.isEmpty then s else s.setCore c.coreid { co with l1 := s.l1Written how spots co.l1 }
  s.leavePeers (towerOf c.coreid) fun n => spots.any fun a => lineOf a == n

/-- The same for the context of a number, when there is one. -/
def State.touchBy (s : State) (id : Option Nat) (how : Touch) (spots : List Nat) : State :=
  match id.bind fun k => s.ctx? k with
  | some c => s.touch c how spots
  | none => s

/-- Perform a store of bytes under masks of the context in focus. -/
def State.putPlace (s : State) (p : Place) (bs : List (Byte × Byte)) : State :=
  let t := s.writePlace s.cx.id p bs
  match p with
  | .g ls => t.touch t.cx (.store (ls.all fun l => !l.uc)) (ls.map Loc.pos)
  | _ => t

/-- Perform an atomic of the context in focus. -/
def State.swapPlace (s : State) (p : Place) (bs : List (Byte × Byte)) : State :=
  let t := s.writePlace s.cx.id p bs
  match p with
  | .g ls => t.touch t.cx .atomic (ls.map Loc.pos)
  | _ => t

/-! ### What makes a cache give up what it holds -/

/-- An acquire on a core at a scope: from cluster scope on, every word of the L1 is invalid, and at system scope no copy of a peer
line serves the tower any more (R191, R192, R301). -/
def State.acquireAt (s : State) (core : BitVec 12) (sc : Scope) : State :=
  if sc = .cor then s
  else
    let s := if (s.core core).l1.isEmpty then s else s.setCore core { s.core core with l1 := [] }
    if sc = .sys then s.leavePeers (towerOf core) fun _ => true else s

/-- The acquire of the context in focus. -/
def State.acquire (s : State) (sc : Scope) : State := s.acquireAt s.cx.coreid sc

/-- An acquire when the instruction carries one. -/
def State.acquireIf (s : State) (sc : Option Scope) : State :=
  match sc with
  | some sc => s.acquire sc
  | none => s

/-- Every core of which something stands. -/
def State.mapCores (s : State) (f : BitVec 12 → Core → Core) : State :=
  { s with co := f s.cx.coreid s.co, cores := s.cores.map fun c => (c.1, f (BitVec.ofNat 12 c.1) c.2) }

def State.mapTowers (s : State) (f : Tower → Tower) : State :=
  { s with tw := f s.tw, towers := s.towers.map fun t => (t.1, f t.2) }

/-- A line overlaps one of the spans. -/
def inSpans (spans : List (Nat × Nat)) (line : Nat) : Bool :=
  spans.any fun p => decide (p.1 < 128 * line + 128 ∧ 128 * line < p.1 + p.2)

/-- inval discards the lines of a range from the cave and from every L1 of the device; flush only writes back; seal discards every
rind-path copy (R212). -/
def State.walkEffect (s : State) (w : Walk) : State :=
  match w.op with
  | .flush => s
  | .inval =>
    let s := s.mapCores fun _ c => { c with l1 := c.l1.filter fun e => !inSpans w.spans (e.1 / 32) }
    { s with dev := { s.dev with peerLines := s.dev.peerLines.filter fun p => !inSpans w.spans p.line } }
  | .seal =>
    let keep (l : List Rind) : List Rind := l.filter fun r => !inSpans w.spans (r.copy.num / 32)
    { s with dev := { s.dev with rind := keep s.dev.rind, oldRind := keep s.dev.oldRind } }

/-- A launch invalidates the instruction-cache lines of its address space in the towers where it places work, and the rind buffers
for the address space (R81, R201). -/
def State.dropSpace (s : State) (asid : Nat) (towers : List (BitVec 3)) : State :=
  let others (l : List Copy) : List Copy := l.filter fun e => e.asid != asid
  let keep (l : List Rind) : List Rind := l.filter fun r => r.copy.asid != asid
  let s := s.mapCores fun n c =>
    if towers.contains (towerOf n) then { c with code := others c.code, oldCode := others c.oldCode } else c
  { s with dev := { s.dev with rind := keep s.dev.rind, oldRind := keep s.dev.oldRind } }

/-- The arrays of a tower's cave lose what they hold; the copies of peer lines there go with it (R364). -/
def State.dropPeers (s : State) (t : BitVec 3) : State :=
  { s with dev := { s.dev with peerLines := s.dev.peerLines.filter fun p => homeTower (128 * p.line) != t.toNat } }

/-- Bytes move within memory: a word that a cache holds has the number `f` gives it, or goes (R199, R236). -/
def State.renumber (s : State) (f : Nat → Option Nat) : State :=
  let words (w : Words) : Words := w.filterMap fun e => (f e.1).map fun n => (n, e.2)
  let copies (l : List Copy) : List Copy := l.filterMap fun e => (f e.num).map fun n => { e with num := n }
  let rinds (l : List Rind) : List Rind := l.filterMap fun r => (f r.copy.num).map fun n => { r with copy := { r.copy with num := n } }
  let s := s.mapCores fun _ c => { c with l1 := words c.l1, code := copies c.code, oldCode := copies c.oldCode }
  { s with dev := { s.dev with rind := rinds s.dev.rind, oldRind := rinds s.dev.oldRind } }

/-- No L1 holds a word of some numbers any more. -/
def State.dropWords (s : State) (hit : Nat → Bool) : State := s.mapCores fun _ c => { c with l1 := c.l1.filter fun e => !hit e.1 }

/-- tlbinv removes the translations that match from every TLB of the device (R371). -/
def State.dropXlates (s : State) (hit : Xlate → Bool) : State :=
  let keep (l : List Xlate) : List Xlate := l.filter fun x => !hit x
  (s.mapCores fun _ c => { c with tlb := keep c.tlb }).mapTowers fun t => { t with tlb := keep t.tlb }

/-! ### What the agenda has the caches do (log 89) -/

/-- A word for an address space as memory holds it. -/
def State.wordNow (s : State) (asid n : Nat) : Copy := ⟨asid, n, BitVec.ofNat 32 (s.mem.readN (4 * n) 4), s.ticks⟩

/-- Some words take the places of those of the same numbers; the cache has 16,384 words (R81). -/
def Core.putCode (c : Core) (new : List Copy) (old : List Copy) : Core :=
  let same (e : Copy) : Bool := new.any fun q => q.asid == e.asid && q.num == e.num
  { c with
    code := (new ++ c.code.filter fun e => !same e).take 16384
    oldCode := c.code.filter same ++ old }

/-- The same for the rind buffers. -/
def Device.putRind (d : Device) (new : List Rind) (old : List Rind) : Device :=
  let same (r : Rind) : Bool :=
    new.any fun q => q.cluster == r.cluster && q.copy.asid == r.copy.asid && q.copy.num == r.copy.num
  { d with rind := new ++ d.rind.filter fun r => !same r, oldRind := d.rind.filter same ++ old }

/-- An instruction cache takes a word, the rind buffers of a cluster take a sector; the other caches take only what is asked of
them. -/
def State.takeNow (s : State) (c : Cache) (asid n : Nat) : State :=
  match c with
  | .code core => s.setCore core ((s.core core).putCode [s.wordNow asid n] (s.core core).oldCode)
  | .rind cl =>
    { s with dev := s.dev.putRind ((List.range 8).map fun k => ⟨cl.toNat, s.wordNow asid (8 * n + k)⟩) s.dev.oldRind }
  | _ => s

/-- What a cache held before comes back: a word of an instruction cache; of a rind buffer the words of one sector that were taken
together. -/
def State.takeBack (s : State) (c : Cache) (k : Nat) : State :=
  match c with
  | .code core =>
    match (s.core core).oldCode[k]? with
    | some q => s.setCore core ((s.core core).putCode [q] ((s.core core).oldCode.eraseIdx k))
    | none => s
  | .rind cl =>
    match s.dev.oldRind[k]? with
    | some q =>
      let mine (r : Rind) : Bool := r.cluster == q.cluster && r.copy.asid == q.copy.asid &&
        r.copy.num / 8 == q.copy.num / 8 && r.copy.age == q.copy.age
      if q.cluster != cl.toNat then s
      else { s with dev := s.dev.putRind (s.dev.oldRind.filter mine) (s.dev.oldRind.filter fun r => !mine r) }
    | none => s
  | _ => s

/-- A cache gives up a line, a TLB the translations of the 4 KiB page of a number. -/
def State.evict (s : State) (c : Cache) (line : Nat) : State :=
  let page (l : List Xlate) : List Xlate := l.filter fun x => x.page != pageOf x.level (4096 * line)
  match c with
  | .l1 core => s.setCore core { s.core core with l1 := (s.core core).l1.filter fun e => e.1 / 32 != line }
  | .code core => s.setCore core { s.core core with code := (s.core core).code.filter fun e => e.num / 32 != line }
  | .rind cl =>
    { s with dev := { s.dev with rind := s.dev.rind.filter fun r => r.cluster != cl.toNat || r.copy.num / 32 != line } }
  | .tlb core => s.setCore core { s.core core with tlb := page (s.core core).tlb }
  | .lastTlb t => s.setTower t { s.tower t with tlb := page (s.tower t).tlb }
  | .peer => { s with dev := { s.dev with peerLines := s.dev.peerLines.filter fun p => p.line != line } }

/-- The host or a peer writes its own memory; the device's copies do not follow (R292, R311). -/
def State.outsideWrite (s : State) (pa n v : Nat) : State :=
  if (List.range n).all fun k => isHost (pa + k) || (isPeer (pa + k) && (s.locate false (pa + k)).isSome) then
    { s with mem := s.mem.writeN pa n v }
  else s

end Sys2Proof.Machine
end

