-- ==== Sys2Proof/Machine/Operands.lean ====
section
/-! DEFINITION. What each instruction may carry and where it may issue (R71 to R74, R77), the course of every instruction from
its last decode checks to its end, and the operands of vector instructions: masks, quires and offset reads. -/

namespace Sys2Proof

/-- What an instruction takes beside its operands. `vp`: it may issue in a VP block (R101, R180). `sup`: it needs supervisor
mode (R77, item 6). `elem`: its guard counts per element (R71). `perCmd`: its guard counts per command (R273). `offA` to `markC`:
the offsets and last-read marks it takes (R72, R73). -/
structure Attr where
  mods : Mods := {}
  vp : Bool := false
  sup : Bool := false
  elem : Bool := false
  perCmd : Bool := false
  offA : Bool := false
  offB : Bool := false
  offC : Bool := false
  markA : Bool := false
  markB : Bool := false
  markC : Bool := false

/-- What of an instruction fetch and issue look at. In a VP block the barriers, range instructions, cavecfg and cavewb are barred, which
no list of R101 or R180 names (DEDUCED, log 47). -/
def Instr.attr : Instr → Attr
  | .add m _ _ _ => { mods := m, vp := true }
  | .sub m _ _ _ => { mods := m, vp := true }
  | .and m _ _ _ => { mods := m, vp := true }
  | .or m _ _ _ => { mods := m, vp := true }
  | .xor m _ _ _ => { mods := m, vp := true }
  | .andn m _ _ _ => { mods := m, vp := true }
  | .shl m _ _ _ => { mods := m, vp := true }
  | .shr m _ _ _ => { mods := m, vp := true }
  | .sra m _ _ _ => { mods := m, vp := true }
  | .rol m _ _ _ => { mods := m, vp := true }
  | .min m _ _ _ => { mods := m, vp := true }
  | .minu m _ _ _ => { mods := m, vp := true }
  | .max m _ _ _ => { mods := m, vp := true }
  | .maxu m _ _ _ => { mods := m, vp := true }
  | .addImm _ _ _ => { vp := true }
  | .andImm _ _ _ => { vp := true }
  | .orImm _ _ _ => { vp := true }
  | .xorImm _ _ _ => { vp := true }
  | .shlImm _ _ _ => { vp := true }
  | .shrImm _ _ _ => { vp := true }
  | .sraImm _ _ _ => { vp := true }
  | .rolImm _ _ _ => { vp := true }
  | .mul m _ _ _ => { mods := m, vp := true }
  | .mulh m _ _ _ => { mods := m, vp := true }
  | .mulhu m _ _ _ => { mods := m, vp := true }
  | .div m _ _ _ => { mods := m, vp := true }
  | .divu m _ _ _ => { mods := m, vp := true }
  | .rem m _ _ _ => { mods := m, vp := true }
  | .remu m _ _ _ => { mods := m, vp := true }
  | .clz m _ _ => { mods := m, vp := true }
  | .ctz m _ _ => { mods := m, vp := true }
  | .popc m _ _ => { mods := m, vp := true }
  | .lea m _ _ _ _ _ => { mods := m, vp := true }
  | .sext _ _ _ => { vp := true }
  | .zext _ _ _ => { vp := true }
  | .li m _ _ => { mods := m, vp := true }
  | .lih m _ _ => { mods := m, vp := true }
  | .cmp m _ _ _ _ => { mods := m, vp := true }
  | .sel m _ _ _ _ => { mods := m, vp := true }
  | .pand m _ _ _ => { mods := m, vp := true }
  | .por m _ _ _ => { mods := m, vp := true }
  | .pxor m _ _ _ => { mods := m, vp := true }
  | .pnot m _ _ => { mods := m, vp := true }
  | .pget m _ _ _ => { mods := m, vp := true }
  | .pset m _ _ _ => { mods := m }
  | .pcount m _ _ => { mods := m }
  | .pfirst m _ _ => { mods := m }
  | .br m _ => { mods := m, vp := true }
  | .jal m _ _ => { mods := m }
  | .jr m _ _ => { mods := m }
  | .jtab m _ _ _ => { mods := m }
  | .bmz m _ => { mods := m }
  | .bmnz m _ => { mods := m }
  | .strip m _ _ => { mods := m }
  | .snext m _ _ => { mods := m }
  | .press m _ _ _ => { mods := m }
  | .exit => {}
  | .yield => {}
  | .nop => { vp := true }
  | .ld m _ _ _ _ _ _ _ => { mods := m, vp := true }
  | .st m _ _ _ _ _ _ => { mods := m, vp := true }
  | .ldro m _ _ _ _ _ => { mods := m, vp := true }
  | .ldtag m _ _ _ _ => { mods := m, vp := true }
  | .atom m _ _ _ _ _ _ _ _ _ _ => { mods := m, vp := true }
  | .cas m _ _ _ _ _ _ _ _ _ => { mods := m, vp := true }
  | .fence _ _ => {}
  | .drain => {}
  | .flush m _ _ _ => { mods := m }
  | .inval m _ _ _ => { mods := m }
  | .seal m _ _ => { mods := m }
  | .cavecfg _ _ => {}
  | .cavewb _ _ => {}
  | .vtype m _ _ => { mods := m }
  | .vlset m _ _ => { mods := m }
  | .quire m _ _ _ _ => { mods := m }
  | .sscaleFromBrick m _ _ => { mods := m, markA := true }
  | .sscaleToBrick m _ _ => { mods := m }
  | .sscaleLoad m _ _ _ _ => { mods := m }
  | .sscaleStore m _ _ _ _ => { mods := m }
  | .vadd m _ _ _ => { mods := m, elem := true, offA := true, offB := true, markA := true, markB := true }
  | .vsub m _ _ _ => { mods := m, elem := true, offA := true, offB := true, markA := true, markB := true }
  | .vand m _ _ _ => { mods := m, elem := true, offA := true, offB := true, markA := true, markB := true }
  | .vor m _ _ _ => { mods := m, elem := true, offA := true, offB := true, markA := true, markB := true }
  | .vxor m _ _ _ => { mods := m, elem := true, offA := true, offB := true, markA := true, markB := true }
  | .vshl m _ _ _ => { mods := m, elem := true, offA := true, offB := true, markA := true, markB := true }
  | .vshr m _ _ _ => { mods := m, elem := true, offA := true, offB := true, markA := true, markB := true }
  | .vsra m _ _ _ => { mods := m, elem := true, offA := true, offB := true, markA := true, markB := true }
  | .vmin m _ _ _ => { mods := m, elem := true, offA := true, offB := true, markA := true, markB := true }
  | .vmax m _ _ _ => { mods := m, elem := true, offA := true, offB := true, markA := true, markB := true }
  | .vmul m _ _ _ => { mods := m, elem := true, offA := true, offB := true, markA := true, markB := true }
  | .vmulh m _ _ _ => { mods := m, elem := true, offA := true, offB := true, markA := true, markB := true }
  | .vsadd m _ _ _ => { mods := m, elem := true, offA := true, offB := true, markA := true, markB := true }
  | .vssub m _ _ _ => { mods := m, elem := true, offA := true, offB := true, markA := true, markB := true }
  | .vdot m _ _ _ _ => { mods := m, elem := true, markA := true, markB := true }
  | .vcmp m _ _ _ _ => { mods := m, elem := true, offA := true, offB := true, markA := true, markB := true }
  | .vsel m _ _ _ _ => { mods := m, elem := true, offA := true, offB := true, markA := true, markB := true }
  | .vbcast m _ _ => { mods := m, elem := true }
  | .vid m _ _ => { mods := m, elem := true }
  | .mpush m _ => { mods := m }
  | .mpop m => { mods := m }
  | .minv m => { mods := m }
  | .mtop m _ => { mods := m }
  | .vfetch m _ => { mods := m, elem := true }
  | .vfetchOrd m _ => { mods := m, elem := true }
  | .vend => { vp := true }
  | .vfadd m _ _ _ _ => { mods := m, elem := true, offA := true, offB := true, markA := true, markB := true }
  | .vfsub m _ _ _ _ => { mods := m, elem := true, offA := true, offB := true, markA := true, markB := true }
  | .vfmul m _ _ _ _ => { mods := m, elem := true, offA := true, offB := true, markA := true, markB := true }
  | .vfdiv m _ _ _ _ => { mods := m, elem := true, offA := true, offB := true, markA := true, markB := true }
  | .vfma m _ _ _ _ _ => { mods := m, elem := true, offA := true, offB := true, offC := true, markA := true, markB := true, markC := true }
  | .vfnma m _ _ _ _ _ => { mods := m, elem := true, offA := true, offB := true, offC := true, markA := true, markB := true, markC := true }
  | .vfmin m _ _ _ => { mods := m, elem := true, offA := true, offB := true, markA := true, markB := true }
  | .vfmax m _ _ _ => { mods := m, elem := true, offA := true, offB := true, markA := true, markB := true }
  | .vfsgn m _ _ _ _ => { mods := m, elem := true, offA := true, offB := true, markA := true, markB := true }
  | .vfcmp m _ _ _ _ => { mods := m, elem := true, offA := true, offB := true, markA := true, markB := true }
  | .vfsqrt m _ _ _ => { mods := m, elem := true, offA := true, markA := true }
  | .vcvt m _ _ _ _ => { mods := m, elem := true, markA := true }
  | .vpack m _ _ _ _ => { mods := m, elem := true, markA := true, markB := true }
  | .vunpack m _ _ _ _ _ => { mods := m, elem := true, markA := true }
  | .vexp2 m _ _ => { mods := m, elem := true, offA := true, markA := true }
  | .vlog2 m _ _ => { mods := m, elem := true, offA := true, markA := true }
  | .vrcp m _ _ => { mods := m, elem := true, offA := true, markA := true }
  | .vrsqrt m _ _ => { mods := m, elem := true, offA := true, markA := true }
  | .vsinpi m _ _ => { mods := m, elem := true, offA := true, markA := true }
  | .vcospi m _ _ => { mods := m, elem := true, offA := true, markA := true }
  | .vtanh m _ _ => { mods := m, elem := true, offA := true, markA := true }
  | .vsigm m _ _ => { mods := m, elem := true, offA := true, markA := true }
  | .vrand m _ _ _ _ => { mods := m, elem := true }
  | .vrandU m _ _ _ _ => { mods := m, elem := true }
  | .vld m _ _ _ _ _ _ => { mods := m, elem := true }
  | .vst m _ _ _ _ _ => { mods := m, elem := true }
  | .vstu m _ _ _ _ _ => { mods := m, elem := true }
  | .vlds m _ _ _ _ _ _ => { mods := m, elem := true }
  | .vsts m _ _ _ _ _ _ => { mods := m, elem := true }
  | .vldx m _ _ _ _ _ _ _ => { mods := m, elem := true }
  | .vstx m _ _ _ _ _ _ _ => { mods := m, elem := true }
  | .vscadd m _ _ _ _ _ _ _ => { mods := m, elem := true }
  | .vldro m _ _ _ _ => { mods := m, elem := true }
  | .sld m _ _ => { mods := m }
  | .sst m _ _ => { mods := m }
  | .vperm m _ _ _ => { mods := m, elem := true, markA := true, markB := true }
  | .vrot m _ _ _ => { mods := m, elem := true, markA := true }
  | .vxget m _ _ _ => { mods := m, vp := true, markA := true }
  | .vxput m _ _ _ => { mods := m }
  | .vredsum m _ _ _ _ => { mods := m, elem := true, markA := true, markB := true }
  | .vredsumu m _ _ _ _ => { mods := m, elem := true, markA := true, markB := true }
  | .vscan m _ _ _ _ => { mods := m, elem := true, markA := true, markB := true }
  | .vredmax m _ _ _ => { mods := m, elem := true, markA := true, markB := true }
  | .vredmin m _ _ _ => { mods := m, elem := true, markA := true, markB := true }
  | .vcompress m _ _ => { mods := m, elem := true, markA := true }
  | .vexpand m _ _ => { mods := m, elem := true, markA := true }
  | .mopa m _ _ _ => { mods := m, elem := true, markA := true, markB := true }
  | .mopaRows m _ _ _ => { mods := m, elem := true, markA := true, markB := true }
  | .mzero _ => {}
  | .mrd m _ _ _ => { mods := m, elem := true, markA := true }
  | .mwr m _ _ _ => { mods := m, elem := true, markA := true }
  | .mflush m _ _ _ _ _ _ => { mods := m, markB := true }
  | .mwait => {}
  | .rowact m _ _ => { mods := m }
  | .rowclose m _ => { mods := m }
  | .rowstat m _ => { mods := m }
  | .rowstatH m _ _ => { mods := m }
  | .fbind m _ _ => { mods := m }
  | .fseek m _ _ => { mods := m }
  | .frel m _ => { mods := m }
  | .enq m _ _ _ _ => { mods := m, markA := true }
  | .enqb m _ _ _ _ => { mods := m, perCmd := true, markA := true }
  | .epop m _ _ => { mods := m }
  | .epopSus m _ _ => { mods := m }
  | .estat m _ _ => { mods := m }
  | .estatN m _ _ => { mods := m }
  | .qpush m _ _ => { mods := m }
  | .qpushBrick m _ _ => { mods := m, markA := true }
  | .qpop m _ _ => { mods := m }
  | .qpopBrick m _ _ => { mods := m }
  | .gload m _ _ => { mods := m }
  | .gsig m _ => { mods := m }
  | .gwait m _ => { mods := m }
  | .gwaitSus m _ => { mods := m }
  | .wmpub m _ _ => { mods := m }
  | .wmpubInit m _ _ => { mods := m }
  | .wmrd m _ _ => { mods := m }
  | .wmrdBound m _ _ => { mods := m }
  | .spawn m _ _ _ _ => { mods := m }
  | .suspend m => { mods := m }
  | .suspendLd m _ _ => { mods := m }
  | .suspendRow m _ _ => { mods := m }
  | .tdone m => { mods := m }
  | .kpt m => { mods := m }
  | .bnd m _ => { mods := m }
  | .incupd m _ _ _ => { mods := m }
  | .incupdSet m _ _ _ => { mods := m }
  | .incrd m _ _ => { mods := m }
  | .incrdSh m _ _ => { mods := m }
  | .regl m _ _ => { mods := m }
  | .ctlr m _ _ => { mods := m }
  | .ctlw m _ _ _ => { mods := m }
  | .ctlwSet m _ _ _ => { mods := m }
  | .ctlwClr m _ _ _ => { mods := m }
  | .sys _ => {}
  | .eret => { sup := true }
  | .brk _ => {}
  | .snap _ => { sup := true }
  | .tlbinvAll => { sup := true }
  | .tlbinvAsid _ => { sup := true }
  | .tlbinvPage _ _ => { sup := true }
  | .tlbinvGpage _ => { sup := true }
  | .tlbinvUser => { sup := true }
  | .asyncTrap => { vp := true }
  | .lpAddr _ _ => { vp := true }
  | .lpArg _ _ => { vp := true }
  | .lpToken _ _ => { vp := true }
  | .lpFlags _ _ => { vp := true }
  | .lpGo _ _ => { vp := true }
  | .launchCheck _ => { vp := true }
  | .launchDequeue _ => { vp := true }
  | .placementDraw _ => { vp := true }
  | .poolDispatch _ => { vp := true }
  | .preemptSwitchOut _ => { vp := true }
  | .contextResume _ _ => { vp := true }
  | .rowActivation _ _ => { vp := true }
  | .rowOpenDone _ _ => { vp := true }
  | .rowHoldExpiry _ _ => { vp := true }
  | .rowClose _ _ => { vp := true }
  | .rowCloseDone _ _ => { vp := true }
  | .streamGroupClose _ _ => { vp := true }
  | .extentRelocation _ _ _ => { vp := true }
  | .pagePromotion _ _ _ _ => { vp := true }
  | .storePerform _ => { vp := true }
  | .loadPerform _ => { vp := true }
  | .atomicPerform _ _ _ _ => { vp := true }
  | .mflushAddition _ => { vp := true }
  | .vscaddUpdate _ => { vp := true }
  | .rangeWalkDone _ => { vp := true }
  | .matrixEngineStart _ => { vp := true }
  | .engineCommandStart _ _ => { vp := true }
  | .engineResultPost _ _ => { vp := true }
  | .graphNodeStart _ _ => { vp := true }
  | .graphNodeComplete _ _ => { vp := true }
  | .graphLeafLoad _ _ => { vp := true }
  | .gangDeadlock _ _ _ => { vp := true }
  | .suspendComplete _ _ => { vp := true }
  | .graderUpdate _ _ => { vp := true }
  | .shadowRefresh _ _ _ => { vp := true }
  | .regionRetire _ _ => { vp := true }
  | .deviceReset => { vp := true }
  | .towerTrained _ => { vp := true }
  | .firmwareImage _ _ => { vp := true }
  | .spdmCertificate => { vp := true }
  | .spdmChallenge _ => { vp := true }
  | .spdmMeasurements => { vp := true }
  | .spdmKeyExchange _ => { vp := true }
  | .firstThreshold _ _ => { vp := true }
  | .secondThreshold _ _ => { vp := true }
  | .thirdThreshold _ _ => { vp := true }
  | .evacuationEnd _ _ => { vp := true }
  | .belowFirstThreshold _ _ => { vp := true }
  | .tlimClear _ => { vp := true }
  | .caveRecover _ => { vp := true }
  | .softError _ => { vp := true }
  | .supplySag _ => { vp := true }
  | .throttleStart => { vp := true }
  | .throttleEnd => { vp := true }
  | .cxlMemRead _ _ => { vp := true }
  | .cxlMemWrite _ _ _ => { vp := true }
  | .hostSnoop _ => { vp := true }
  | .atomicopCompletion _ _ => { vp := true }
  | .relebRequest _ => { vp := true }
  | .relebTimeout _ => { vp := true }
  | .dmode _ => { vp := true }
  | .respWalkAgain _ => { vp := true }
  | .respRaiseTrap _ => { vp := true }
  | .respPolicy _ _ => { vp := true }
  | .respResume _ => { vp := true }
  | .respClearPoison _ => { vp := true }
  | .respKeepPoison _ => { vp := true }
  | .respAcceptLaunch _ => { vp := true }
  | .respRejectLaunch _ _ => { vp := true }
  | .snapshotTrigger => { vp := true }
  | .snapshotRelease => { vp := true }
  | .registerWrite _ _ => { vp := true }
  | .evcons _ => { vp := true }
  | .queuePairTable _ _ => { vp := true }
  | .poisonMarkerClear _ => { vp := true }
  | .portPageGrant _ _ _ _ _ => { vp := true }
  | .illLen _ => { vp := true }
  | .illOp _ _ => { vp := true }
  | .fetchXlate _ _ => { vp := true }

/-- No offset or mark stands on an operand that does not take one (R72, R73). -/
def Attr.operandsOk (a : Attr) : Bool :=
  (a.offA || a.mods.oa == {}) && (a.offB || a.mods.ob == {}) && (a.offC || a.mods.oc == {}) &&
  (a.markA || !a.mods.la) && (a.markB || !a.mods.lb) && (a.markC || !a.mods.lc)

/-- The instruction is recorded when it traps: the vector instructions, mrd and mwr (R352, R354; log 13). -/
def Instr.recorded (i : Instr) : Bool :=
  let op := i.enc.op.toNat
  decide ((0x44 ≤ op ∧ op ≤ 0x4b) ∨ (0x58 ≤ op ∧ op ≤ 0x6e) ∨ (0x70 ≤ op ∧ op ≤ 0x78) ∨ (0x80 ≤ op ∧ op ≤ 0x8a)
    ∨ op = 0x92 ∨ op = 0x93)

/-- The instruction's data accesses are writes, for the event of R386. -/
def Instr.stores (i : Instr) : Bool :=
  match i with
  | .st _ _ _ _ _ _ _ | .atom _ _ _ _ _ _ _ _ _ _ _ | .cas _ _ _ _ _ _ _ _ _ _ | .sscaleStore _ _ _ _ _
  | .vst _ _ _ _ _ _ | .vstu _ _ _ _ _ _ | .vsts _ _ _ _ _ _ _ | .vstx _ _ _ _ _ _ _ _ | .vscadd _ _ _ _ _ _ _ _
  | .mflush _ _ _ _ _ _ _ => true
  | _ => false

/-- The events of 95_what_each_step_holds.md, which nothing fetched decodes to. -/
def Instr.outside : Instr → Bool
  | .asyncTrap | .lpAddr _ _ | .lpArg _ _ | .lpToken _ _ | .lpFlags _ _ | .lpGo _ _ | .launchCheck _ 
  | .launchDequeue _ | .placementDraw _ | .poolDispatch _ | .preemptSwitchOut _ | .contextResume _ _ 
  | .rowActivation _ _ | .rowOpenDone _ _ | .rowHoldExpiry _ _ | .rowClose _ _ | .rowCloseDone _ _ 
  | .streamGroupClose _ _ | .extentRelocation _ _ _ | .pagePromotion _ _ _ _ | .storePerform _ | .loadPerform _ 
  | .atomicPerform _ _ _ _ | .mflushAddition _ | .vscaddUpdate _ | .rangeWalkDone _ | .matrixEngineStart _ 
  | .engineCommandStart _ _ | .engineResultPost _ _ | .graphNodeStart _ _ | .graphNodeComplete _ _ 
  | .graphLeafLoad _ _ | .gangDeadlock _ _ _ | .suspendComplete _ _ | .graderUpdate _ _ | .shadowRefresh _ _ _ 
  | .regionRetire _ _ | .deviceReset | .towerTrained _ | .firmwareImage _ _ | .spdmCertificate | .spdmChallenge _ 
  | .spdmMeasurements | .spdmKeyExchange _ | .firstThreshold _ _ | .secondThreshold _ _ | .thirdThreshold _ _ 
  | .evacuationEnd _ _ | .belowFirstThreshold _ _ | .tlimClear _ | .caveRecover _ | .softError _ | .supplySag _ 
  | .throttleStart | .throttleEnd | .cxlMemRead _ _ | .cxlMemWrite _ _ _ | .hostSnoop _ | .atomicopCompletion _ _ 
  | .relebRequest _ | .relebTimeout _ | .dmode _ | .respWalkAgain _ | .respRaiseTrap _ | .respPolicy _ _ 
  | .respResume _ | .respClearPoison _ | .respKeepPoison _ | .respAcceptLaunch _ | .respRejectLaunch _ _ 
  | .snapshotTrigger | .snapshotRelease | .registerWrite _ _ | .evcons _ | .queuePairTable _ _ | .poisonMarkerClear _ 
  | .portPageGrant _ _ _ _ _ => true
  | _ => false

/-- The never guard (R71). -/
def Mods.never (m : Mods) : Bool := m.g == 0 && m.gn

end Sys2Proof

namespace Sys2Proof.Machine

/-! ### The guard and the hints (R71, R74) -/

/-- The guard predicate's bit `e`, inverted when gn = 1; always true for g = 0, gn = 0. -/
def Ctx.guardBit (c : Ctx) (m : Mods) (e : Nat) : Bool := (c.readP m.g).getLsbD e ^^ m.gn

/-- The guard of an instruction that is not a lock-step vector instruction: bit 0, or the VP's own bit. -/
def Ctx.guard (c : Ctx) (m : Mods) : Bool := c.guardBit m (c.vpNow.getD 0)

/-- FIRST and LAST let the instruction issue; they count inside a press body only, and a level at or above NLEV has the single
index 0 (R74, R106). A replayed instruction has those of its own iteration (R355). -/
def Ctx.hintIssues (c : Ctx) (m : Mods) : Bool :=
  match c.nestNow with
  | none => true
  | some n =>
    if !(n.body.any fun b => b.1 == c.pc) then true else
    let lvl := (m.hint.extractLsb' 0 3).toNat
    let i := (c.idxNow n).getD lvl 0
    let last := if lvl < n.idx.length then nestCount n.image lvl - 1 else 0
    (!m.hint.getLsbD 3 || i == 0) && (!m.hint.getLsbD 4 || i == last)

/-- The instruction is skipped: a false guard, or a hint that does not select the iteration (R71, R106). -/
def Ctx.skips (c : Ctx) (a : Attr) : Bool :=
  !c.hintIssues a.mods ||
  if a.elem || a.perCmd then a.mods.never else !c.guard a.mods

/-! ### From the last decode checks to the end -/

/-- The mark of an instruction that stalls: a recorded one is recorded when the context stops (R129, R354). -/
def Ctx.stalled (c : Ctx) (i : Instr) : Ctx :=
  match c.stall with
  | .none | .again | .elem _ => { c with stall := if i.recorded then .elem i.bytes else .again }
  | _ => c

/-- How a body's end becomes the outcome of the instruction. -/
def finish (i : Instr) : Run Done → Host.Outcome State Fault Refusal
  | .ok (.adv s) => .next (s.upd fun c => c.advance i.bytes)
  | .ok (.to t s) => .next (s.upd fun c => c.jump t)
  | .ok (.as s) => .next s
  | .error (.trap c v s) => .next (s.takeTrap c v i.recorded i.bytes i.stores)
  | .error (.wait s) => .next (s.upd fun c => c.stalled i)

/-- An instruction that waits for something else than its trap has no trap that waits, and the access that gets no completion is none
of those before it (R383). -/
def Ctx.unmark (c : Ctx) : Ctx :=
  match c.stall with
  | .due | .peerLost _ => { c with stall := .again }
  | _ => c

/-- A trap of the instruction waits; what the instruction itself still has to report stays. -/
def Stall.dueTrap : Stall → Stall
  | .none | .again | .elem _ => .due
  | st => st

/-- A trap that has to wait is a stall: the instruction issues again and meets it again, and nothing comes before it (R351, R353).
`s` is the state at issue, which still has a lost store or a lost peer access to report (R383). -/
def holdTrap (s : State) : Run Done → Run Done
  | .error (.trap c v t) =>
    if t.trapWaits t.cx then
      .error (.wait (t.upd fun x => { x with lostStore := s.cx.lostStore, stall := x.stall.dueTrap }))
    else .error (.trap c v t)
  | .error (.wait t) => .error (.wait (t.upd Ctx.unmark))
  | r => r

/-- A br in a VP block goes forward and not beyond the block's vend (R101), and the only vend in it is its own (R180). -/
def brBad (b : VpBlock) (pc : Word) : Instr → Bool
  | .br _ disp => decide (disp.toInt ≤ 0) || decide ((pc.toNat : Int) + 4 * disp.toInt > b.last.toNat)
  | .vend => pc != b.last
  | _ => false

/-- The instruction is barred in the VP block that runs (R77, R101, R180; log 26). -/
def Ctx.vpBars (c : Ctx) (i : Instr) : Bool :=
  match c.vp with
  | some b => b.held == 0 && (!i.attr.vp || brBad b c.pc i)
  | none => false

/-- The current VP has executed 256 instructions and has not reached the vend (R181). -/
def Ctx.spent (c : Ctx) : Bool :=
  match c.vp with
  | some b => b.held == 0 && decide (256 ≤ b.count) && c.pc != b.last
  | none => false

/-- The trap that keeps an instruction from issuing: R181, then items 5 to 7 of R77; none when it issues. -/
def Ctx.issueTrap (c : Ctx) (i : Instr) : Option (Cause × Word) :=
  if c.spent then some (.illVp, 256)
  else if c.vpBars i then some (.illVp, i.tval)
  else if i.attr.sup && !c.sup then some (.priv, i.tval)
  else if !i.classesOk || !i.attr.operandsOk then some (.illOperand, i.tval)
  else none

/-- A skipped rowact that a trap or a switch has interrupted is given up (R71, R242). -/
def State.skipped (s : State) (i : Instr) : State :=
  match i with
  | .rowact _ _ _ => s.upd fun c => { c with h := c.h.map (Handle.skipAt c.pc) }
  | _ => s

/-- The last decode checks, the guard and the hints, then the body. -/
def issue (i : Instr) (s : State) (body : State → Run Done) : Host.Outcome State Fault Refusal :=
  match s.cx.issueTrap i with
  | some (c, v) => finish i (holdTrap s (.error (.trap c v s)))
  | none => if s.cx.skips i.attr then finish i (.ok (.adv (s.skipped i))) else finish i (holdTrap s (body s))

/-- An event of the device: it has its effect when it can happen, and changes nothing otherwise (95_what_each_step_holds.md). -/
def event (s : State) (e : Option State) : Host.Outcome State Fault Refusal := .next (e.getD s)

/-! ### Displacements -/

/-- The displacement of a memory operand in bytes: imm8 times `size` in the S form, K in the L form (R203, R216). -/
def dispBytes (m : Mods) (disp : BitVec 32) (size : Nat) : Word :=
  match m.form with
  | .s => BitVec.ofInt 64 (disp.toInt * size)
  | _ => disp.signExtend 64

/-- The displacement of a transfer in 4-byte units (R75). -/
def dispWords (disp : BitVec 32) : Word := BitVec.ofInt 64 (disp.toInt * 4)

/-- The second source: a register, or the sign-extended literal (R86). -/
def Ctx.src (c : Ctx) : Src → Word
  | .reg r => c.readX r
  | .lit k => k.signExtend 64

/-! ### Elements (R4, R129, R152) -/

/-- Active(e) (R4, R153). -/
def Ctx.active (c : Ctx) (m : Mods) (e : Nat) : Bool := c.guardBit m e && c.maskTop.getLsbD e && decide (e < c.vlN)

/-- The active elements from START to vl − 1, ascending. -/
def Ctx.elems (c : Ctx) (m : Mods) : List Nat :=
  ((List.range c.vlN).drop c.start).filter fun e => c.active m e

/-- vstart at a stop before element `e`: its index, and HARM as it stood before the element (R125, R129). -/
def Ctx.stopAt (c : Ctx) (harm : Word) (e : Nat) : Ctx :=
  { c with vstart := (harm &&& 0x8000000000000000) ||| BitVec.ofNat 64 e }

/-- A stop at an element leaves its index in START (R129). -/
def Stop.at (h : Word) : Stop → Nat → Stop
  | .trap c v s, e => .trap c v (s.upd fun x => x.stopAt h e)
  | .wait s, e => .wait (s.upd fun x => x.stopAt h e)

/-- The step in hand ends before element `e` (R357; log 14). -/
def State.cutsAt (s : State) (e : Nat) : Bool :=
  match s.cut with
  | some k => decide (k ≤ e)
  | none => false

/-- The index that a stop at element `e` leaves in START: its own, or the boundary before which the step in hand ends. -/
def State.startAt (s : State) (e : Nat) : Nat := if s.cutsAt e then max s.cx.start (s.cut.getD e) else e

/-- Elements of an element group: 128 bytes (R110, R157). -/
def Ctx.groupLen (c : Ctx) : Nat := 1024 / c.fmt.sew

/-- Process elements in order. A trap leaves the element's index in START (R129). A stall is one before the element group of its
element: it leaves the state `g` in which group `k` began, so that nothing comes between within a group (R357). -/
def overFrom (f : State → Nat → Run State) (g : State) (k : Nat) : List Nat → State → Run State
  | [], s => .ok s
  | e :: es, s =>
    let n := e / s.cx.groupLen + 1
    let g := if n = k then g else s
    if s.cutsAt e then .error ((Stop.wait s).at s.cx.vstart (s.startAt e))
    else match f s e with
      | .ok s' => overFrom f g n es s'
      | .error (.trap c v t) => .error ((Stop.trap c v t).at s.cx.vstart e)
      | .error (.wait _) => .error ((Stop.wait g).at g.cx.vstart (max g.cx.start (e / s.cx.groupLen * s.cx.groupLen)))

/-- Process elements in order, group by group. -/
def overElems (f : State → Nat → Run State) (es : List Nat) (s : State) : Run State := overFrom f s 0 es s

/-- Process elements in order with no stop between but a trap: a stall leaves the whole to be done again. The elements of a 16-byte
chunk that two element groups share are read or written together so (R300). -/
def overWhole (f : State → Nat → Run State) (es : List Nat) (s : State) : Run State :=
  match overElems f es { s with cut := none } with
  | .error (.wait _) => .error (.wait s)
  | r => r

/-- A completed vector instruction clears vstart (R129). -/
def State.vdone (s : State) : State := s.upd fun c => { c with vstart := 0 }

/-- A whole vector instruction: its elements in order, then vstart is 0. -/
def vector (m : Mods) (s : State) (f : State → Nat → Run State) : Run Done :=
  (overElems f (s.cx.elems m) s).map fun s' => .adv s'.vdone

/-- Element `e` of brick `r` at the current width. -/
def Ctx.el (c : Ctx) (r : Reg) (e : Nat) : Nat := elemAt c.v[r.toNat] c.fmt.sew e
/-- Write element `e` of brick `r` at the current width. -/
def Ctx.setEl (c : Ctx) (r : Reg) (e v : Nat) : Ctx := { c with v := c.v.set r.toNat (setElem c.v[r.toNat] c.fmt.sew e v) }

/-! ### Quires and offset reads (R119 to R127) -/

/-- A quire's fields (R119). -/
def qEn (d : Word) : Bool := bitOf d 32
def qBase (d : Word) : Nat := fld d 0 6
def qx (d : Word) : Nat := 2 ^ fld d 6 2
def qy (d : Word) : Nat := 2 ^ fld d 8 2
def qz (d : Word) : Nat := 2 ^ fld d 10 2
def qSize (d : Word) : Nat := qx d * qy d * qz d
/-- The policy of face 0 x−, 1 x+, 2 y−, 3 y+, 4 z−, 5 z+. -/
def qPolicy (d : Word) (face : Nat) : Nat := fld d (12 + 3 * face) 3
def qSpace (d : Word) : Space := (Space.of (d.extractLsb' 30 2)).getD .g
/-- A signed stride of qstride, or of the scalar of a strided access (R119, R219): axis 0, 1 or 2. -/
def strideOf (w : Word) (axis : Nat) : Int := (BitVec.ofNat 21 (fld w (21 * axis) 21)).toInt

/-- The enabled quire that holds brick `r` (R120). -/
def Ctx.quireOf (c : Ctx) (r : Nat) : Option (Fin 4) :=
  (List.finRange 4).find? fun q =>
    let d := c.qdesc[q]
    qEn d && decide (qBase d ≤ r ∧ r < qBase d + qSize d)

/-- The registers of the quire of brick `r`: itself alone when it lies in none (R120, R127). -/
def Ctx.sameQuire (c : Ctx) (r d : Nat) : Bool :=
  match c.quireOf r with
  | some q => decide (qBase c.qdesc[q] ≤ d ∧ d < qBase c.qdesc[q] + qSize c.qdesc[q])
  | none => r == d

/-- Where a source coordinate on one axis leads: inside, or out by the low or the high face. -/
def sideOf (v : Int) (extent : Nat) : Option Bool :=
  if v < 0 then some false else if v ≥ extent then some true else none

/-- tval of HALO (R125). -/
def haloTval (x y z : Int) (q opnd face : Nat) : Word :=
  BitVec.ofNat 64 (truncInt 16 z * 2 ^ 48 + truncInt 16 y * 2 ^ 32 + truncInt 16 x * 2 ^ 16 + q * 2 ^ 14 + opnd * 2 ^ 6 + face)

/-- An access stalls, or traps at its address, by what its walks meet (R198, R234, R383). -/
def walkFree (s : State) (sp : Space) (acc : Acc) (va : Word) (n : Nat) : Run Unit :=
  match s.walkMeets s.cx sp acc va n with
  | .free => .ok ()
  | .wait => .error (.wait s)
  | .lost => .error (.trap acc.access va s)

/-- The bytes that an atomic unit of a load joins to those at a place: those of the aligned 16-byte chunk (R300). -/
def Joint.spots (j : Joint) (p : Place) (n : Nat) : Space × List Nat :=
  match j with
  | .sector => p.spots n
  | .chunk _ => p.chunk n

/-- Read `n` bytes for the context in focus, a load at an element's address `va` by a path (R124, R188, R198, R234, R296, R364, R383).
A load of a 16-byte chunk waits for an own access to any byte of it, which the instruction reads whole (R300). -/
def State.loadAt (s : State) (path : Path) (sp : Space) (va : Word) (n : Nat) (j : Joint) : Run (Nat × State) :=
  match s.resolve s.cx sp .load va n with
  | .error (c, _) => .error (.trap c va s)
  | .ok (s', p) =>
    let walk := s.walkMeets s.cx sp .load va n
    if p.inReg || s.peerFailsNow p || walk = .lost then .error (.trap .dataAccess va s)
    else if s.poisoned p then .error (.trap .dataLost va s)
    else if s.blockedOn s.cx none (j.spots p n) || s.layerWaits (some s.cx.coreid) p || walk = .wait then .error (.wait s)
    else
      let t := s'.countPeer p
      .ok (t.loadPlace t.cx path j p n)

/-- Opnd(r, e): source operand `k` (0 a, 1 b, 2 c), brick `r` read at an offset for element `e` (R122 to R125). `i` is the
instruction, for the tval of a MEM face at width 4. -/
def State.opnd (s : State) (i : Instr) (k : Nat) (r : Reg) (o : Off) (e : Nat) : Run (Nat × State) :=
  let c := s.cx
  let sew := c.fmt.sew
  if o = {} then .ok (c.el r e, s) else
  let bx := 2 ^ fld c.vtype 4 3
  let by_ := 2 ^ fld c.vtype 7 3
  let bz := 2 ^ fld c.vtype 10 3
  let q := c.quireOf r.toNat
  -- a register in no quire is a quire of one whose faces are ZERO (R120)
  let d : Word := match q with | some q => c.qdesc[q] | none => BitVec.ofNat 64 r.toNat
  let pos := r.toNat - qBase d
  let ex := qx d * bx
  let ey := qy d * by_
  let ez := qz d * bz
  let sx : Int := (pos % qx d * bx + e % bx : Nat) + o.x.toInt
  let sy : Int := (pos / qx d % qy d * by_ + e / bx % by_ : Nat) + o.y.toInt
  let sz : Int := (pos / (qx d * qy d) * bz + e / (bx * by_) : Nat) + o.z.toInt
  let inside (x y z : Int) : Nat :=
    let x := x.toNat; let y := y.toNat; let z := z.toNat
    let brick := qBase d + x / bx + qx d * (y / by_ + qy d * (z / bz))
    elemAt (c.v.toList.getD brick 0) sew (x % bx + bx * (y % by_ + by_ * (z % bz)))
  let face : Option Nat :=
    match sideOf sx ex, sideOf sy ey, sideOf sz ez with
    | some hi, _, _ => some (if hi then 1 else 0)
    | none, some hi, _ => some (if hi then 3 else 2)
    | none, none, some hi => some (if hi then 5 else 4)
    | none, none, none => none
  match face with
  | none => .ok (inside sx sy sz, s)
  | some f =>
    let clamp (v : Int) (n : Nat) : Int := max 0 (min v (n - 1))
    match qPolicy d f with
    | 1 => .ok (inside (clamp sx ex) (clamp sy ey) (clamp sz ez), s)
    | 2 => .ok (inside (sx % ex) (sy % ey) (sz % ez), s)
    | 3 =>
      let n : Fin 4 := q.getD 0
      let w := c.qstride[n]
      let va := c.qbase[n] + BitVec.ofInt 64 (sx * strideOf w 0 + sy * strideOf w 1 + sz * strideOf w 2)
      if sew = 4 then .error (.trap .illOperand (i.tval &&& 0xffffffff) s)
      else if va.toNat % (sew / 8) != 0 then .error (.trap .align va s)
      else s.loadAt .l1 (qSpace d) va (sew / 8) .sector
    | 4 => .ok (c.qbase[(q.getD 0 : Fin 4)].toNat % 2 ^ sew, s)
    | 5 =>
      if c.harm && bitOf c.vstart 63 then
        .ok (c.vhalo.toNat % 2 ^ sew, s.upd fun c => { c with vstart := c.vstart &&& 0x7fffffffffffffff })
      else .error (.trap .halo (haloTval sx sy sz ((q.getD 0 : Fin 4).val) k f) s)
    | _ => .ok (0, s)

/-- The destination lies in the quire of a source read at a nonzero offset (R127). -/
def Ctx.offsetClash (c : Ctx) (d : Reg) (srcs : List (Reg × Off)) : Bool :=
  srcs.any fun (r, o) => o != {} && c.sameQuire r.toNat d.toNat

/-- Two sources, a before b (R152). -/
def State.opnd2 (s : State) (i : Instr) (m : Mods) (a b : Reg) (e : Nat) : Run (Nat × Nat × State) := do
  let (x, s) ← s.opnd i 0 a m.oa e
  let (y, s) ← s.opnd i 1 b m.ob e
  pure (x, y, s)

end Sys2Proof.Machine
end

