-- ==== Sys2Proof/Machine/Fetch.lean ====
section
/-! DEFINITION. Fetching and decoding the instruction at pc (R66, R67, R77 to R81, R106), and the traps that fetch raises. -/

namespace Sys2Proof.Machine

/-- A word that a core's instruction cache holds for the context in focus. -/
def State.codeWord (s : State) (n : Nat) : Option (BitVec 32) :=
  (s.co.code.find? fun e => e.asid == s.cx.asid && e.num == n).map Copy.word

/-- The instruction cache after a fetch: while the caches keep what they read, it takes the word; it has 64 KiB (R9, R81; log 89). -/
def State.afterFetch (s : State) (n : Nat) (w : BitVec 32) : State :=
  if s.caching && (s.codeWord n).isNone then
    { s with co := { s.co with code := (⟨s.cx.asid, n, w, s.ticks⟩ :: s.co.code).take 16384 } }
  else s

/-- The fetch of one word: translated by itself, read from the instruction cache, which no store changes, else from memory (R66,
R79, R81). -/
def State.fetchWord (s : State) (va : Word) : Except (Cause × Word) (State × BitVec 32) :=
  match s.gLocs (some s.cx.coreid) s.cx.ptbase s.cx.sup .fetch va 4 32 with
  | .error (c, _) => .error (c, va)
  | .ok (s', ls) =>
    if (Place.g ls).inReg then .error (.fetchAccess, va)
    else
      let n := (ls.headD ⟨0, 0, false⟩).pos / 4
      match s.codeWord n with
      | some w => .ok (s', w)
      | none =>
        if s.poisoned (.g ls) then .error (.dataLost, va)
        else
          let w := BitVec.ofNat 32 (ofBytes (ls.map (s.caveByte (towerOf s.cx.coreid))))
          .ok (s'.afterFetch n w, w)

/-- The words of an instruction of a form, word 0 given; words the form lacks are 0. -/
def State.fetchRest (s : State) (f : Form) (va : Word) : Except (Cause × Word) (State × BitVec 32 × BitVec 32) :=
  match f with
  | .c => .ok (s, 0, 0)
  | .s => (s.fetchWord (va + 4)).map fun (s, w) => (s, w, 0)
  | .l =>
    match s.fetchWord (va + 4) with
    | .error e => .error e
    | .ok (s, w1) => (s.fetchWord (va + 8)).map fun (s, w2) => (s, w1, w2)

/-- A fetch fault as the event of its row, any other failure as its trap. -/
def fetchFault (s : State) : Cause × Word → Except (Cause × Word) (State × Instr)
  | (.fetchXlate, v) => .ok (s, .fetchXlate v false)
  | (.fetchAccess, v) => .ok (s, .fetchXlate v true)
  | e => .error e

/-- What the words decode to: an instruction, the event of ILL_OP, or ILL_ENC (R77). -/
def decoded (s : State) (f : Form) (w0 w1 w2 : BitVec 32) : Except (Cause × Word) (State × Instr) :=
  let w1' : BitVec 32 := match f with | .c => 0 | _ => w1
  match decodeEnc (Enc.ofWords f w0 w1 w2) with
  | .ok i => .ok (s, i)
  | .error .illOp => .ok (s, .illOp w0 w1')
  | .error _ => .error (.illEnc, w1' ++ w0)

/-- Fill a loop buffer again from the addresses of its body (R81, R108). A word 0 that gives no length stands as it is. -/
def State.refill (s : State) : List Word → Except (Cause × Word) (State × List (Word × BitVec 96))
  | [] => .ok (s, [])
  | va :: rest =>
    match s.fetchWord va with
    | .error e => .error e
    | .ok (s1, w0) =>
      match s1.fetchRest ((Form.ofCode (w0.extractLsb' 0 2)).getD .c) va with
      | .error e => .error e
      | .ok (s2, w1, w2) => (s2.refill rest).map fun r => (r.1, (va, w2 ++ (w1 ++ w0)) :: r.2)

/-- The running nest with its buffer full, and the state that has filled it (R108; DESIGN CHOICE: it is filled when the first body
instruction after the switch issues, whose fetch faults are its own, log 90). -/
def State.fullNest (s : State) (n : Nest) : Except (Cause × Word) (State × Nest) :=
  if !n.stale then .ok (s, n)
  else (s.refill (n.body.map Prod.fst)).map fun r =>
    let n' := { n with body := r.2, stale := false }
    (r.1.upd fun c => { c with press := some n' }, n')

/-- The instruction at pc in memory (R66, R77, R79, R80). -/
def State.fetchAt (s : State) : Except (Cause × Word) (State × Instr) :=
  let pc := s.cx.pc
  if fld pc 0 2 != 0 then .error (.align, pc)
  else match s.fetchWord pc with
    | .error e => fetchFault s e
    | .ok (s1, w0) =>
      match Form.ofCode (w0.extractLsb' 0 2) with
      | none => .ok (s1, .illLen w0)
      | some f =>
        match s1.fetchRest f pc with
        | .error e => fetchFault s e
        | .ok (s2, w1, w2) => decoded s2 f w0 w1 w2

/-- The instruction at pc: from the loop buffer of a running nest, else from memory (R66, R77, R79, R80, R106). -/
def State.fetch (s : State) : Except (Cause × Word) (State × Instr) :=
  match s.cx.nestNow with
  | none => s.fetchAt
  | some n =>
    match s.fullNest n with
    | .error e => fetchFault s e
    | .ok (s, n) =>
      match n.body.find? fun b => b.1 == s.cx.pc with
      | none => s.fetchAt
      | some (_, w) =>
        match Form.ofCode (w.extractLsb' 0 2) with
        | none => .ok (s, .illLen (w.setWidth 32))
        | some f => decoded s f (w.setWidth 32) (w.extractLsb' 32 32) (w.extractLsb' 64 32)

/-! ### What a fetch waits for (R198, R234, R383) -/

/-- A word that a fetch meets nothing at: none; else the word's address, and whether its peer does not answer (R383) or it waits for
a held layer, as its table or the word lies in one (R234). -/
def State.wordMeets (s : State) (va : Word) : Option (Word × Bool) :=
  match s.walkMeets s.cx .g .fetch va 4 with
  | .lost => some (va, true)
  | .wait => some (va, false)
  | .free =>
    match s.gLocs (some s.cx.coreid) s.cx.ptbase s.cx.sup .fetch va 4 32 with
    | .error _ => none
    | .ok (t, ls) =>
      if (t.codeWord ((ls.headD ⟨0, 0, false⟩).pos / 4)).isNone && t.layerWaits (some s.cx.coreid) (.g ls) then some (va, false)
      else none

/-- The same for the words of the instruction at an address, the first one that meets something. -/
def State.instrMeets (s : State) (va : Word) : Option (Word × Bool) :=
  (s.wordMeets va).orElse fun _ =>
    match s.fetchWord va with
    | .error _ => none
    | .ok (t, w0) =>
      match Form.ofCode (w0.extractLsb' 0 2) with
      | some .s => t.wordMeets (va + 4)
      | some .l => (t.wordMeets (va + 4)).orElse fun _ => t.wordMeets (va + 8)
      | _ => none

/-- The same for `n` instructions from an address on (R107). -/
def State.runMeets (s : State) : Nat → Word → Option (Word × Bool)
  | 0, _ => none
  | n + 1, va =>
    (s.instrMeets va).orElse fun _ =>
      match s.fetchWord va with
      | .error _ => none
      | .ok (_, w0) =>
        match Form.ofCode (w0.extractLsb' 0 2) with
        | none => none
        | some f => s.runMeets n (va + BitVec.ofNat 64 (4 * f.words))

/-- The same for the fetch of the next instruction, and of the loop buffer when it has to be filled again (R108). -/
def State.fetchMeets (s : State) : Option (Word × Bool) :=
  if s.noClaims && !s.cx.stall.lost || fld s.cx.pc 0 2 != 0 then none
  else match s.cx.nestNow with
    | none => s.instrMeets s.cx.pc
    | some n =>
      (if n.stale then (n.body.map Prod.fst).findSome? s.instrMeets else none).orElse fun _ =>
        if n.body.any fun b => b.1 == s.cx.pc then none else s.instrMeets s.cx.pc

/-- Fetches of an instruction stall, or have its trap, by what they meet. -/
def fetchFree (s : State) : Option (Word × Bool) → Run Unit
  | none => .ok ()
  | some (va, lost) => .error (if lost then .trap .fetchAccess va s else .wait s)

/-- The trap of an instruction that fetch or decode turns away: it waits as every precise trap does (R351, R353). -/
def State.turnAway (s : State) (c : Cause) (v : Word) : State :=
  if s.trapWaits s.cx then s.upd fun x => match x.stall with
    | .none | .again => { x with stall := .due }
    | _ => x
  else s.takeTrap c v false 4 false

/-- ILL_LEN: word 0 alone decides it (R67, R77). -/
def execIllLen (w0 : BitVec 32) (s : State) : Host.Outcome State Fault Refusal := .next (s.turnAway .illLen (w0.setWidth 64))

/-- ILL_OP: the pair or the f4 is not listed (R77). -/
def execIllOp (w0 w1 : BitVec 32) (s : State) : Host.Outcome State Fault Refusal := .next (s.turnAway .illOp (w1 ++ w0))

/-- FETCH_XLATE or FETCH_ACCESS at the word `va` (R79). -/
def execFetchXlate (va : BitVec 64) (access : Bool) (s : State) : Host.Outcome State Fault Refusal :=
  .next (s.turnAway (if access then .fetchAccess else .fetchXlate) va)

end Sys2Proof.Machine
end

