-- ==== Sys2Proof/Machine/VConfig.lean ====
section
/-! DEFINITION. vtype, vlset, quire and the register forms of sscale (R110 to R121, R131). -/

namespace Sys2Proof.Machine

/-- bx·by·bz of a vtype image exceeds VLMAX(sew) (R111). -/
def shapeTooBig (vt : Word) : Bool :=
  decide (2 ^ (fld vt 4 3 + fld vt 7 3 + fld vt 10 3) > vlmax (Fmt.ofCode (vt.extractLsb' 0 4)).sew)

def execVtype (m : Mods) (d : Reg) (img : BitVec 24) (s : State) : Host.Outcome State Fault Refusal :=
  let i : Instr := .vtype m d img
  issue i s fun s => do
    let vt : Word := img.setWidth 64
    trapIf (shapeTooBig vt) .illOperand i.tval s
    pure (.adv (s.upd fun c =>
      let c := { c with vtype := vt, vstart := 0 }
      { c with vl := BitVec.ofNat 64 c.cap }.writeX d (BitVec.ofNat 64 c.cap)))

def execVlset (m : Mods) (d a : Reg) (s : State) : Host.Outcome State Fault Refusal :=
  issue (.vlset m d a) s fun s => .ok (.adv (s.upd fun c =>
    let vl := BitVec.ofNat 64 (min (c.readX a).toNat c.cap)
    { c with vl := vl }.writeX d vl))

/-! ### Quires (R119, R121) -/

/-- A reserved field of an enabled descriptor: a logarithm of 3, a policy of 6 or 7, SPACE of 3. -/
def qdescReserved (d : Word) : Bool :=
  (List.range 3).any (fun k => fld d (6 + 2 * k) 2 == 3) || (List.range 6).any (fun f => decide (qPolicy d f ≥ 6)) ||
  fld d 30 2 == 3

/-- An enabled descriptor that describes no quire, or one that meets another enabled quire (R120). -/
def Ctx.qdescClash (c : Ctx) (n : Fin 4) (d : Word) : Bool :=
  decide (qSize d > 16) || decide (qBase d + qSize d > 64) ||
  (List.finRange 4).any fun k =>
    let e := c.qdesc[k]
    k != n && qEn e && decide (qBase d < qBase e + qSize e ∧ qBase e < qBase d + qSize d)

/-- The trap that a descriptor offered to quire `n` raises (R116, R121). -/
def Ctx.qdescTrap (c : Ctx) (n : Fin 4) (d : Word) : Option Cause :=
  if fld d 33 31 != 0 then some .illEnc
  else if !qEn d then none
  else if qdescReserved d then some .illEnc
  else if c.qdescClash n d then some .illOperand
  else none

/-- Of a D and a T that both have reserved bits the trap reports D (R121; DESIGN CHOICE, log 96). -/
def execQuire (m : Mods) (n a b c : Reg) (s : State) : Host.Outcome State Fault Refusal :=
  issue (.quire m n a b c) s fun s => do
    let x := s.cx
    let q : Fin 4 := Fin.ofNat 4 n.toNat
    let d := x.readX a
    let t := x.readX c
    let long := m.form == .s
    trapIf (fld d 33 31 != 0) .illEnc d s
    trapIf (long && bitOf t 63) .illEnc t s
    match x.qdescTrap q d with
    | some e => .error (.trap e d s)
    | none => pure ()
    pure (.adv (s.upd fun y => { y with
      qdesc := y.qdesc.set q d, qbase := y.qbase.set q (x.readX b)
      qstride := if long then y.qstride.set q t else y.qstride }))

/-! ### Scale registers (R131) -/

/-- Byte `k` of a scale register (R141). -/
def scaleByte (v : Scale) (k : Nat) : Nat := (v.extractLsb' (8 * k) 8).toNat

def Ctx.scale (c : Ctx) (r : Reg) : Scale := c.sc[Fin.ofNat 8 r.toNat]
def Ctx.setScale (c : Ctx) (r : Reg) (v : Scale) : Ctx := { c with sc := c.sc.set (Fin.ofNat 8 r.toNat) v }

def execSscaleFromBrick (m : Mods) (d a : Reg) (s : State) : Host.Outcome State Fault Refusal :=
  issue (.sscaleFromBrick m d a) s fun s => .ok (.adv (s.upd fun c => c.setScale d (c.v[a.toNat].setWidth 1024)))
def execSscaleToBrick (m : Mods) (d a : Reg) (s : State) : Host.Outcome State Fault Refusal :=
  issue (.sscaleToBrick m d a) s fun s => .ok (.adv (s.upd fun c =>
    { c with v := c.v.set d.toNat ((c.v[d.toNat].extractLsb' 1024 15360) ++ c.scale a) }))

end Sys2Proof.Machine
end

