-- ==== Sys2Proof/Machine/Flags.lean ====
section
/-! DEFINITION. Number formats, exact values, rounding and the flags of fflags (R132 to R151). -/

namespace Sys2Proof.Machine

/-! ### Exact values -/

/-- A rational: `num / den`, `den` at least 1. -/
structure Frac where
  num : Int
  den : Nat
  deriving DecidableEq, Repr

def Frac.add (a b : Frac) : Frac :=
  if a.den = b.den then ⟨a.num + b.num, a.den⟩
  else
    let l := Nat.lcm a.den b.den
    ⟨a.num * (l / a.den : Nat) + b.num * (l / b.den : Nat), l⟩
def Frac.neg (a : Frac) : Frac := ⟨-a.num, a.den⟩
def Frac.mul (a b : Frac) : Frac := ⟨a.num * b.num, a.den * b.den⟩
/-- a / b for b not zero. -/
def Frac.div (a b : Frac) : Frac := ⟨a.num * b.den * b.num.sign, a.den * b.num.natAbs⟩
/-- a × 2^k. -/
def Frac.scale (a : Frac) (k : Int) : Frac :=
  if 0 ≤ k then ⟨a.num * (2 ^ k.toNat : Nat), a.den⟩ else ⟨a.num, a.den * 2 ^ (-k).toNat⟩
def Frac.lt (a b : Frac) : Bool := decide (a.num * b.den < b.num * a.den)

/-- What an element means, or the exact result of an operation before it is rounded. `neg` is the sign, which a zero keeps. -/
inductive Val where
  | nan (signalling : Bool)
  | inf (neg : Bool)
  | num (neg : Bool) (q : Frac)
  /-- the reserved code of M8 and M4 -/
  | nar
  deriving DecidableEq, Repr

/-- The flags of fflags: bit 0 NV, 1 DZ, 2 OF, 3 UF, 4 NX (R132). -/
abbrev Fl := BitVec 5
def flNV : Fl := 1
def flDZ : Fl := 2
def flOF : Fl := 4
def flUF : Fl := 8
def flNX : Fl := 16

/-- A number as an exact result. -/
def Val.of (q : Frac) : Val := .num (decide (q.num < 0)) q
def Val.zero (neg : Bool) : Val := .num neg ⟨0, 1⟩
def Val.isZero : Val → Bool
  | .num _ q => q.num == 0
  | _ => false
def Val.isNan : Val → Bool
  | .nan _ => true
  | _ => false
def Val.sig : Val → Bool
  | .nan b => b
  | _ => false
def Val.sign : Val → Bool
  | .inf b => b
  | .num b _ => b
  | _ => false
def Val.negate : Val → Val
  | .inf b => .inf (!b)
  | .num b q => .num (!b) q.neg
  | v => v

/-! ### Formats (R133, R134, R137) -/

/-- Fraction bits and exponent bits of an IEEE format (R134). -/
def ieee : Fmt → Option (Nat × Nat)
  | .f16 => some (10, 5)
  | .bf16 => some (7, 8)
  | .f32 => some (23, 8)
  | .f64 => some (52, 11)
  | _ => none

/-- The canonical quiet NaN (R135). -/
def canonNan (p eb : Nat) : Nat := (2 ^ eb - 1) * 2 ^ p + 2 ^ (p - 1)

/-- Decode an IEEE code. -/
def ieeeVal (p eb v : Nat) : Val :=
  let neg := v / 2 ^ (p + eb) % 2 == 1
  let e := v / 2 ^ p % 2 ^ eb
  let f := v % 2 ^ p
  let sgn : Int := if neg then -1 else 1
  let bias : Int := 2 ^ (eb - 1) - 1
  if e = 2 ^ eb - 1 then if f = 0 then .inf neg else .nan (f < 2 ^ (p - 1))
  else if e = 0 then .num neg ((Frac.mk (sgn * f) 1).scale (1 - bias - p))
  else .num neg ((Frac.mk (sgn * (2 ^ p + f : Nat)) 1).scale (e - bias - p))

/-- An M format: magnitude bits, and the number of decades below one. M8 has 7 and 3, M4 has 3 and 1 (R137). -/
def mKind : Fmt → Option (Nat × Nat)
  | .m8 => some (7, 3)
  | .m4 => some (3, 1)
  | _ => none

/-- The unit in which every magnitude of an M format is a whole number: 1/64,000 and 1/40. -/
def mUnit (k d : Nat) : Nat := 2 ^ (k - 1) * 10 ^ d

/-- The magnitude with decade `m` and fraction `f`, in units: (1 + 9 f / 2^n) × 10^(m − d) with n = k − 1 − m. -/
def mMag (k m f : Nat) : Nat := (2 ^ (k - 1) + 9 * f * 2 ^ m) * 10 ^ m

/-- The index of the lowest set bit of a nonzero `x` below `k` (R137). -/
def lowBit : Nat → Nat → Nat
  | 0, _ => 0
  | k + 1, x => if x % 2 = 1 then 0 else 1 + lowBit k (x / 2)

/-- Decode an M code (R137). -/
def mVal (k d v : Nat) : Val :=
  let neg := v / 2 ^ k % 2 == 1
  let x := v % 2 ^ k
  if x = 0 then if neg then .nar else .zero false
  else
    let m := lowBit k x
    let q : Int := mMag k m (x / 2 ^ (m + 1))
    .num neg ⟨if neg then -q else q, mUnit k d⟩

/-- What an element of a format means. -/
def fmtVal (f : Fmt) (v : Nat) : Val :=
  match ieee f with
  | some (p, eb) => ieeeVal p eb v
  | none =>
    match mKind f with
    | some (k, d) => mVal k d v
    | none => .of ⟨intOf f.signed f.sew v, 1⟩

/-! ### Rounding (R135, R136, R140, R143) -/

/-- Round the magnitude N / D between `lo` and `lo + 1`: does it go up? `neg` is the sign, `odd` the parity of `lo`, `r` the
random word of RSR. Signed lo and hi of R143 swap for a negative value. -/
def goesUp (mode : Rm) (neg odd : Bool) (rem d r : Nat) : Bool :=
  if rem = 0 then false else
  match mode with
  | .rtz => false
  | .rup => !neg
  | .rdn => neg
  | .rsr => if neg then decide (r * d ≥ (d - rem) * 2 ^ 32) else decide (r * d < rem * 2 ^ 32)
  | _ => decide (2 * rem > d) || (decide (2 * rem = d) && odd)

/-- floor(log2(n / d)) for a positive fraction. -/
def fracLog (n d : Nat) : Int :=
  let e : Int := (Nat.log2 n : Int) - Nat.log2 d
  let small := if 0 ≤ e then decide (n < d * 2 ^ e.toNat) else decide (n * 2 ^ (-e).toNat < d)
  if small then e - 1 else e

/-- n / d divided by 2^k, as quotient, remainder and divisor. -/
def quoAt (n d : Nat) (k : Int) : Nat × Nat × Nat :=
  let (n, d) := if 0 ≤ k then (n, d * 2 ^ k.toNat) else (n * 2 ^ (-k).toNat, d)
  (n / d, n % d, d)

/-- Round a positive magnitude into an IEEE format: the code without its sign, and the flags. Tininess is that of the result
rounded without a bound on its exponent (R135; log 23). -/
def ieeeRound (p eb : Nat) (mode : Rm) (r : Nat) (neg : Bool) (n d : Nat) : Nat × Fl :=
  let bias : Int := 2 ^ (eb - 1) - 1
  let emin : Int := 1 - bias
  let infCode := (2 ^ eb - 1) * 2 ^ p
  let e := fracLog n d
  let e' := max e emin
  let (lo, rem, dd) := quoAt n d (e' - p)
  let base : Nat := (e' - emin).toNat * 2 ^ p
  -- a magnitude beyond the largest finite value rounds as under RNE when RSR is selected (R143)
  let mode := if mode = .rsr && (decide (base + lo ≥ infCode) || (base + lo == infCode - 1 && rem != 0)) then .rne else mode
  let k := if goesUp mode neg (lo % 2 == 1) rem dd r then lo + 1 else lo
  let code := base + k
  if code ≥ infCode then
    let toInf := match mode with | .rtz => false | .rup => !neg | .rdn => neg | _ => true
    (if toInf then infCode else infCode - 1, flOF ||| flNX)
  else
    let tiny :=
      if e ≥ emin then false
      else if e < emin - 1 then true
      else
        let (lo, rem, dd) := quoAt n d (e - p)
        let k := if goesUp mode neg (lo % 2 == 1) rem dd r then lo + 1 else lo
        decide (k < 2 ^ (p + 1))
    (code, if rem = 0 then 0 else if tiny then flUF ||| flNX else flNX)

/-- The magnitudes of an M format in ascending order: value in units, code, fraction field (R138, R139). -/
def mTable (k : Nat) : List (Nat × Nat × Nat) :=
  (List.range k).flatMap fun m => (List.range (2 ^ (k - 1 - m))).map fun f => (mMag k m f, f * 2 ^ (m + 1) + 2 ^ m, f)

/-- The neighbours of N / D in the table: the last magnitude not above it (zero before the first) and the first not below. -/
def mFind (n d : Nat) : Nat × Nat × Nat → List (Nat × Nat × Nat) → (Nat × Nat × Nat) × Option (Nat × Nat × Nat)
  | lo, [] => (lo, none)
  | lo, h :: t => if h.1 * d ≤ n then mFind n d h t else (lo, some h)

/-- Round a positive magnitude into an M format (R140): the code without its sign, and the flags. -/
def mRound (k dec : Nat) (mode : Rm) (r : Nat) (neg : Bool) (n d : Nat) : Nat × Fl :=
  let n := n * mUnit k dec
  let (lo, hi?) := mFind n d (0, 0, 0) (mTable k)
  match hi? with
  | none => (lo.2.1, if n = lo.1 * d then 0 else flOF ||| flNX)
  | some hi =>
    if n = lo.1 * d then (lo.2.1, 0)
    else
      -- the value lies (n − lo d) of (hi − lo) d above lo; ties go to the even field, to the smaller when both are even
      let up := goesUp mode neg (lo.2.2 % 2 == 1) (n - lo.1 * d) ((hi.1 - lo.1) * d) r
      let c := if up then hi.2.1 else lo.2.1
      (c, if c = 0 then flUF ||| flNX else flNX)

/-- Encode an exact value into an IEEE or M format: the code and the flags (R135, R136, R140). A NaN that an operation makes is
quiet; NV for a signalling source is the operation's own. -/
def encodeVal (f : Fmt) (mode : Rm) (r : Nat) (v : Val) : Nat × Fl :=
  match ieee f with
  | some (p, eb) =>
    let sgn (neg : Bool) : Nat := if neg then 2 ^ (p + eb) else 0
    match v with
    | .nan _ | .nar => (canonNan p eb, 0)
    | .inf neg => (sgn neg + (2 ^ eb - 1) * 2 ^ p, 0)
    | .num neg q =>
      if q.num = 0 then (sgn neg, 0)
      else
        let (c, fl) := ieeeRound p eb mode r neg q.num.natAbs q.den
        (sgn neg + c, fl)
  | none =>
    match mKind f with
    | none => (0, 0)
    | some (k, d) =>
      let top := 2 ^ (k - 1)
      let sgn (neg : Bool) : Nat := if neg then 2 ^ k else 0
      match v with
      | .nan _ | .nar => (2 ^ k, flNV)
      | .inf neg => (sgn neg + top, flOF)
      | .num neg q =>
        if q.num = 0 then (0, 0)
        else
          let (c, fl) := mRound k d mode r neg q.num.natAbs q.den
          (if c = 0 then 0 else sgn neg + c, fl)

/-- Round a value to an integer in a mode; RSR acts as RNE (R136, R143). The integer, and whether it is inexact. -/
def roundInt (mode : Rm) (q : Frac) : Int × Bool :=
  let neg := decide (q.num < 0)
  let n := q.num.natAbs
  let mode := if mode = .rsr then .rne else mode
  let k := if goesUp mode neg (n / q.den % 2 == 1) (n % q.den) q.den 0 then n / q.den + 1 else n / q.den
  (if neg then -(k : Int) else k, n % q.den != 0)

/-- A floating-point value into an integer format: round, saturate; NaN gives 0 with NV, saturation NV, else inexact NX (R136). -/
def encodeInt (f : Fmt) (mode : Rm) (v : Val) : Nat × Fl :=
  let hi : Int := if f.signed then 2 ^ (f.sew - 1) - 1 else 2 ^ f.sew - 1
  let lo : Int := if f.signed then -(2 ^ (f.sew - 1)) else 0
  match v with
  | .nan _ | .nar => (0, flNV)
  | .inf neg => (satInt f (if neg then lo else hi), flNV)
  | .num _ q =>
    let (k, inexact) := roundInt mode q
    if k < lo ∨ k > hi then (satInt f k, flNV) else (truncInt f.sew k, if inexact then flNX else 0)

/-! ### Exact operations (R136, R169, R171, R174) -/

/-- NV when an operand is a signalling NaN (R135). -/
def sigFlag (l : List Val) : Fl := if l.any Val.sig then flNV else 0

/-- The sign of an exact zero sum: − when both addends are −0, else + except under RDN (R136; log 24). -/
def zeroSign (mode : Rm) (a b : Val) : Bool :=
  a.isZero && b.isZero && a.sign && b.sign || mode == .rdn

def addVal (mode : Rm) (a b : Val) : Val × Fl :=
  match a, b with
  | .nan _, _ | _, .nan _ | .nar, _ | _, .nar => (.nan false, sigFlag [a, b])
  | .inf x, .inf y => if x = y then (.inf x, 0) else (.nan false, flNV)
  | .inf x, _ => (.inf x, 0)
  | _, .inf y => (.inf y, 0)
  | .num _ p, .num _ q =>
    let s := p.add q
    if s.num = 0 then (.zero (zeroSign mode a b), 0) else (.of s, 0)

def mulVal (a b : Val) : Val × Fl :=
  match a, b with
  | .nan _, _ | _, .nan _ | .nar, _ | _, .nar => (.nan false, sigFlag [a, b])
  | .inf x, y => if y.isZero then (.nan false, flNV) else (.inf (x ^^ y.sign), 0)
  | x, .inf y => if x.isZero then (.nan false, flNV) else (.inf (x.sign ^^ y), 0)
  | .num x p, .num y q => (.num (x ^^ y) (p.mul q), 0)

def divVal (a b : Val) : Val × Fl :=
  match a, b with
  | .nan _, _ | _, .nan _ | .nar, _ | _, .nar => (.nan false, sigFlag [a, b])
  | .inf _, .inf _ => (.nan false, flNV)
  | .inf x, y => (.inf (x ^^ y.sign), 0)
  | x, .inf y => (.zero (x.sign ^^ y), 0)
  | .num x p, .num y q =>
    if q.num = 0 then if p.num = 0 then (.nan false, flNV) else (.inf (x ^^ y), flDZ)
    else (.num (x ^^ y) (p.div q), 0)

/-- A × B + C with one rounding to come: the product joins the sum unrounded. 0 × Inf gives NV even when C is a quiet NaN
(R171). -/
def fmaVal (mode : Rm) (a b c : Val) : Val × Fl :=
  let (p, fp) := mulVal a b
  let fl := fp ||| sigFlag [a, b, c]
  if p.isNan then (.nan false, fl)
  else
    let (s, fs) := addVal mode p c
    (s, fl ||| fs)

/-- A rational that rounds as √(n / d) does: the root when it is rational, else the middle of the cell of 2^−k that holds it. -/
def rootFrac (n d : Nat) : Frac :=
  let g := Nat.gcd n d
  let p := Nat.sqrt (n / g)
  let q := Nat.sqrt (d / g)
  if p * p * g = n ∧ q * q * g = d then ⟨p, q⟩
  else
    let k := 400 + Nat.log2 d
    ⟨2 * Nat.sqrt (n * 2 ^ (2 * k) / d) + 1, 2 ^ (k + 1)⟩

def sqrtVal : Val → Val × Fl
  | .nan s => (.nan false, if s then flNV else 0)
  | .nar => (.nan false, 0)
  | .inf neg => if neg then (.nan false, flNV) else (.inf false, 0)
  | .num neg q =>
    if q.num = 0 then (.zero neg, 0)
    else if neg then (.nan false, flNV)
    else (.num false (rootFrac q.num.natAbs q.den), 0)

/-- The order of two values; none when unordered. −0 equals +0 (R173). -/
def cmpVal (a b : Val) : Option Ordering :=
  match a, b with
  | .nan _, _ | _, .nan _ | .nar, _ | _, .nar => none
  | .inf x, .inf y => some (if x = y then .eq else if x then .lt else .gt)
  | .inf x, _ => some (if x then .lt else .gt)
  | _, .inf y => some (if y then .gt else .lt)
  | .num _ p, .num _ q => some (if p.lt q then .lt else if q.lt p then .gt else .eq)

/-- The smaller of two values, −0 below +0; the other operand when one is a NaN (R170). -/
def minVal (a b : Val) : Val × Fl :=
  let fl := sigFlag [a, b]
  match cmpVal a b with
  | some .lt => (a, fl)
  | some .gt => (b, fl)
  | some .eq => (if a.sign then a else b, fl)
  | none => (if a.isNan then if b.isNan then .nan false else b else a, fl)
def maxVal (a b : Val) : Val × Fl :=
  let fl := sigFlag [a, b]
  match cmpVal a b with
  | some .lt => (b, fl)
  | some .gt => (a, fl)
  | some .eq => (if a.sign then b else a, fl)
  | none => (if a.isNan then if b.isNan then .nan false else b else a, fl)

/-- A value times an S8 scale (R141). -/
def Val.scaled (v : Val) (code : Nat) : Val :=
  match v with
  | .num n q => .num n (q.scale ((code : Int) - 127))
  | v => v

/-! ### Random words (R144) -/

/-- G(key, counter). -/
def rndG (key counter : Word) : Word :=
  let z := key ^^^ counter
  let z := z ^^^ (z >>> 30)
  let z := z * 0xbf58476d1ce4e5b9
  let z := z ^^^ (z >>> 27)
  let z := z * 0x94d049bb133111eb
  z ^^^ (z >>> 31)

/-! ### Conversions (R175) -/

/-- Convert a source value into a format. `exact` tells that the source is an integer without a scale, which saturates without
a flag; a scaled integer sets NX only. -/
def convVal (sf df : Fmt) (scaled : Bool) (mode : Rm) (r : Nat) (v : Val) : Nat × Fl :=
  if df.intClass then
    if sf.intClass then
      match v with
      | .num _ q =>
        if scaled then
          let (k, inexact) := roundInt mode q
          (satInt df k, if inexact then flNX else 0)
        else (satInt df q.num, 0)
      | _ => (0, 0)
    else encodeInt df mode v
  else
    let mode := if mode = .rsr && (df == .f32 || df == .f64) then .rne else mode
    let (c, fl) := encodeVal df mode r v
    (c, fl ||| sigFlag [v])

/-! ### Special functions (R146) -/

/-- Fixed point with 640 fraction bits. -/
def fxOne : Int := 2 ^ 640

/-- Σ of a series whose next term the step gives, until the fuel ends. -/
def fxSeries (step : Nat → Int → Int) : Nat → Nat → Int → Int
  | 0, _, _ => 0
  | n + 1, k, t => t + fxSeries step n (k + 1) (step k t)

/-- atanh(1 / n)-like sums: Σ s^k z^(2k+1) / (2k + 1), with s = 1 or −1. -/
def fxAt (s : Int) (z : Int) : Nat → Nat → Int → Int
  | 0, _, _ => 0
  | n + 1, k, p => p / (2 * k + 1) + fxAt s z n (k + 1) (s * (p * z / fxOne * z / fxOne))

/-- ln 2 = 2 atanh(1/3). -/
def fxLn2 : Int := 2 * fxAt 1 (fxOne / 3) 220 0 (fxOne / 3)
/-- π by Machin's formula. -/
def fxPi : Int := 16 * fxAt (-1) (fxOne / 5) 150 0 (fxOne / 5) - 4 * fxAt (-1) (fxOne / 239) 50 0 (fxOne / 239)

/-- e^t for |t| below 1. -/
def fxExp (t : Int) : Int := fxSeries (fun k p => p * t / fxOne / (k + 1)) 150 0 fxOne
/-- sin t and cos t for |t| at most 2. -/
def fxSin (t : Int) : Int := fxSeries (fun k p => -(p * t / fxOne * t / fxOne / ((2 * k + 2) * (2 * k + 3)))) 90 0 t
def fxCos (t : Int) : Int := fxSeries (fun k p => -(p * t / fxOne * t / fxOne / ((2 * k + 1) * (2 * k + 2)))) 90 0 fxOne

/-- A fraction in fixed point. -/
def toFx (q : Frac) : Int := q.num * fxOne / q.den
def ofFx (v : Int) : Frac := ⟨v, 2 ^ 640⟩

/-- 2^q for a fraction of moderate size: exact for an integer. -/
def exp2Frac (q : Frac) : Frac :=
  let k := q.num / q.den
  let rest := q.num % q.den
  if rest = 0 then (⟨1, 1⟩ : Frac).scale k
  else (ofFx (fxExp (toFx ⟨rest, q.den⟩ * fxLn2 / fxOne))).scale k

/-- e^q for |q| at most 256. -/
def expFrac (q : Frac) : Frac :=
  let t := toFx q
  let k := t / fxLn2
  (ofFx (fxExp (t - k * fxLn2))).scale k

/-- log2 of a positive fraction: exact for a power of two. -/
def log2Frac (n d : Nat) : Frac :=
  let e := fracLog n d
  let m := (Frac.mk n d).scale (-e)
  if m.num = m.den then ⟨e, 1⟩
  else
    let z := toFx ⟨m.num - m.den, (m.num + m.den).toNat⟩
    let ln := 2 * fxAt 1 z 220 0 z
    (Frac.mk ln fxLn2.toNat).add ⟨e, 1⟩

/-- sin(πq) for a fraction that is no multiple of 1/2: q is reduced exactly to [0, 1/2]. -/
def sinpiFrac (q : Frac) : Frac :=
  let r := q.num % (2 * q.den : Nat)
  let d : Int := q.den
  let (neg, r) := if r ≥ d then (true, r - d) else (false, r)
  let r := if 2 * r > d then d - r else r
  let t := toFx ⟨r, q.den⟩ * fxPi / fxOne
  let s := ofFx (fxSin t)
  if neg then s.neg else s

/-- A tiny positive value, which every mode rounds as an inexact result next to zero or to one. -/
def fracTiny : Frac := ⟨1, 2 ^ 2000⟩

/-- A huge value, beyond every format. -/
def fracHuge : Frac := ⟨2 ^ 2000, 1⟩

/-- The eight functions of R146, in major order. -/
inductive SpecFn where
  | exp2 | log2 | rcp | rsqrt | sinpi | cospi | tanh | sigm
  deriving DecidableEq, Repr

/-- A rational within 2^−590 of each function's value, exact where the value is rational (R146; log 12). -/
def specVal (f : SpecFn) (v : Val) : Val × Fl :=
  match v with
  | .nan s => (.nan false, if s then flNV else 0)
  | .nar => (.nan false, 0)
  | .inf neg =>
    match f with
    | .exp2 => if neg then (.zero false, 0) else (.inf false, 0)
    | .log2 => if neg then (.nan false, flNV) else (.inf false, 0)
    | .rcp => (.zero neg, 0)
    | .rsqrt => if neg then (.nan false, flNV) else (.zero false, 0)
    | .sinpi | .cospi => (.nan false, flNV)
    | .tanh => (.of ⟨if neg then -1 else 1, 1⟩, 0)
    | .sigm => if neg then (.zero false, 0) else (.of ⟨1, 1⟩, 0)
  | .num neg q =>
    let big := decide (q.num.natAbs ≥ 256 * q.den)
    match f with
    | .exp2 => (if big then .of (if neg then fracTiny else fracHuge) else .of (exp2Frac q), 0)
    | .log2 =>
      if q.num = 0 then (.inf true, flDZ)
      else if neg then (.nan false, flNV)
      else
        let l := log2Frac q.num.natAbs q.den
        (if l.num = 0 then .zero false else .of l, 0)
    | .rcp => if q.num = 0 then (.inf neg, flDZ) else (.of ((⟨1, 1⟩ : Frac).div q), 0)
    | .rsqrt =>
      if q.num = 0 then (.inf neg, flDZ)
      else if neg then (.nan false, flNV)
      else (.of (rootFrac q.den q.num.natAbs), 0)
    | .sinpi =>
      if q.num % q.den = 0 then (.zero neg, 0)
      else if 2 * q.num % q.den = 0 then (.of ⟨if (2 * q.num / q.den) % 4 = 1 then 1 else -1, 1⟩, 0)
      else (.of (sinpiFrac q), 0)
    | .cospi =>
      let h := 2 * q.num
      if h % q.den = 0 then
        match (h / q.den) % 4 with
        | 0 => (.of ⟨1, 1⟩, 0)
        | 2 => (.of ⟨-1, 1⟩, 0)
        | _ => (.zero false, 0)
      else (.of (sinpiFrac (q.add ⟨1, 2⟩)), 0)
    | .tanh =>
      if q.num = 0 then (.zero neg, 0)
      else if big then
        let one : Frac := (⟨1, 1⟩ : Frac).add fracTiny.neg
        (.of (if neg then one.neg else one), 0)
      else
        let e := expFrac (⟨2 * q.num, q.den⟩ : Frac)
        (.of ⟨e.num - e.den, (e.num + e.den).toNat⟩, 0)
    | .sigm =>
      if big then (.of (if neg then fracTiny else (⟨1, 1⟩ : Frac).add fracTiny.neg), 0)
      else
        let e := expFrac q
        (.of ⟨e.num, (e.num + e.den).toNat⟩, 0)

/-- A special function on an element of f32 or bf16, rounded RNE (R146). -/
def specElem (fn : SpecFn) (f : Fmt) (v : Nat) : Nat × Fl :=
  let (x, fl) := specVal fn (fmtVal f v)
  let (c, fl') := encodeVal f .rne 0 x
  (c, fl ||| fl')

/-- The effective rounding mode of a field (R76, R132, R143): code 7 follows frm. -/
def rmOf (frm : Word) (m : Rm) : Rm :=
  match m with
  | .dyn =>
    match fld frm 0 3 with
    | 1 => .rup | 2 => .rdn | 3 => .rtz | 4 => .rsr | _ => .rne
  | m => m

/-- The mode of an instruction that RSR does not act on: RSR rounds RNE (R143). -/
def rmPlain (frm : Word) (m : Rm) : Rm :=
  match rmOf frm m with
  | .rsr => .rne
  | m => m

end Sys2Proof.Machine
end

