-- ==== Sys2Proof/Machine/Wait.lean ====
section
/-! DEFINITION. What an instruction waits for: the accesses and commands of its context that are not done (R210, R211, R301), the
stores that wait (R234, R383), and the use of watermarks (R285, R287). -/

namespace Sys2Proof.Machine

/-! ### What a context has issued and has not seen done -/

/-- A RUNNING node of the context (R282). -/
def State.nodesRunning (s : State) (c : Ctx) : Bool :=
  (s.core c.coreid).graph.toList.any fun e => e.st == .running && e.owner == some (.ctx c.id)

/-- Commands that have not been performed. -/
def Ctx.commandsOut (c : Ctx) : Bool := !c.cp.fifo.isEmpty || !c.gt.fifo.isEmpty
/-- Commands whose result is not in the ring. -/
def Ctx.resultsOut (c : Ctx) : Bool := !c.cp.running.isEmpty || !c.gt.running.isEmpty

/-- Range instructions whose walkers run (R213). -/
def State.walksOut (s : State) (id : Nat) : Bool := s.dev.walks.any fun w => w.id == id

/-- Everything that drain waits for is done (R211). -/
def State.drained (s : State) (c : Ctx) : Bool :=
  !s.writesOut c.id && !s.flushesOut c && !s.queued c && !c.commandsOut && !c.resultsOut && !s.nodesRunning c &&
  !s.walksOut c.id && c.hostReq.isNone

/-- A release waits until every earlier write is performed, and reports a peer store that was lost (R301, R383). The model
waits at every scope alike. -/
def State.release (s : State) : Run State :=
  if s.writesOut s.cx.id then .error (.wait s)
  else match s.cx.lostStore with
    | some va => .error (.trap .dataAccess va (s.upd fun c => { c with lostStore := none }))
    | none => .ok s

/-- DRAIN (R211): it waits, and is a fence at system scope, which releases and acquires. -/
def State.drain (s : State) : Run State :=
  if !s.drained s.cx then .error (.wait s) else s.release.map fun t => t.acquire .sys

/-- A release when the instruction carries one. -/
def State.releaseIf (s : State) (b : Bool) : Run State := if b then s.release else .ok s

/-! ### Stores -/

/-- The place as a waiting access holds it. -/
def Place.pairs : Place → List (Nat × Nat)
  | .g ls => ls.map fun l => (l.pa, l.pos)
  | _ => []

/-- Clear the poison of lines (R364). -/
def State.cleanse (s : State) (lines : List Nat) : State :=
  if s.poison.isEmpty then s else { s with poison := s.poison.filter fun l => !lines.contains l }

/-- Clear the poison of the lines that a vector store has written whole, now that no write of it on them waits (R364). -/
def State.cleanDone (s : State) : State :=
  if s.cleaning.isEmpty then s
  else
    let out (q : Nat × Nat × Nat) : Bool :=
      s.pend.any fun e => e.part == some (q.1, q.2.1) && e.locs.any fun l => lineOf l.2 == q.2.2
    { s.cleanse ((s.cleaning.filter fun q => !out q).map fun q => q.2.2) with cleaning := s.cleaning.filter out }

/-- How the parts of a vector store reach memory (R218 to R220, R299, R300): `num` is its number in its context, none for a scalar
store; `ordered` puts every write behind the earlier ones; `chunk` joins the elements of an aligned 16-byte chunk to one write. -/
structure Parts where
  num : Option Nat := none
  ordered : Bool := false
  chunk : Bool := false

/-- A write that waits joins the last one when both are of one chunk of one vector store, else it waits as its own. -/
def addPend (l : List Pend) (w : Parts) (id : Nat) (va : Word) (locs : List (Nat × Nat)) (bs : List (Byte × Byte)) : List Pend :=
  let new : Pend := .store (some id) va locs bs w.num w.ordered
  match l.getLast? with
  | some (.store j va' locs' bs' n o) =>
    if w.chunk && j == some id && n == w.num && (locs'.headD (0, 0)).2 / 16 == (locs.headD (0, 0)).2 / 16 then
      l.dropLast ++ [.store j va' (locs' ++ locs) (bs' ++ bs) n o]
    else l ++ [new]
  | _ => l ++ [new]

/-- The bytes that a write is joined with: its own, or those of its chunk (R300). -/
def Parts.spots (w : Parts) (p : Place) (n : Nat) : Space × List Nat := if w.chunk then p.chunk n else p.spots n

/-- An own access by another instruction must be performed before a write: to one of the bytes that it is joined with (R296, R300). -/
def State.writeBlocked (s : State) (w : Parts) (p : Place) (n : Nat) : Bool :=
  s.blockedOn s.cx (w.num.map fun k => (s.cx.id, k)) (w.spots p n)

/-- A write of a vector store joins or follows the earlier writes of the store that wait: all of them, or those on its bytes (R218 to
R220, R300). -/
def State.follows (s : State) (w : Parts) (p : Place) (n : Nat) : Bool :=
  match p, w.num with
  | .g _, some k =>
    s.pend.any fun e => e.part == some (s.cx.id, k) && (w.ordered || e.locs.any fun l => (w.spots p n).2.contains l.2)
  | _, _ => false

/-- Issue a write of bytes under masks at a place that has passed its checks, for the context in focus: ROW_SELF, a wait for an
own earlier access, a wait in the row controller, for the peer or for the earlier writes of its vector store, or performed at once
(R218, R219, R234, R296). -/
def State.issueWrite (s : State) (w : Parts) (va : Word) (p : Place) (bs : List (Byte × Byte)) : Run State :=
  if s.writeBlocked w p bs.length then .error (.wait s) else
  match s.rowMeets (some s.cx) p with
  | .self v => .error (.trap .rowSelf v s)
  | .wait => .ok { s with pend := addPend s.pend w s.cx.id va p.pairs bs }
  | .free =>
    if p.inPeer || s.follows w p bs.length then .ok { s with pend := addPend s.pend w s.cx.id va p.pairs bs }
    else .ok (s.putPlace p bs)

/-- What a store's instruction does to the lines that it touches (R364): it writes less than the whole of one; it writes all of them,
and this is not the last of its writes there; or it is. -/
inductive Cover where
  | no | begun | ends
  deriving DecidableEq, Repr

/-- The last write of a vector store on some lines has issued: their poison goes as soon as its writes there are performed. -/
def State.cleanAfter (s : State) (w : Parts) (lines : List Nat) : State :=
  let lines := lines.filter s.poison.contains
  if lines.isEmpty then s
  else match w.num with
    | none => s.cleanse lines
    | some k => State.cleanDone { s with cleaning := s.cleaning ++ lines.map fun l => (s.cx.id, k, l) }

/-- A store of bytes under masks at `va` that is not a register access. `tval` is what a trap reports in place of the first failing
byte, for a vector element (R197). -/
def State.storeAt (s : State) (w : Parts) (sp : Space) (va : Word) (bs : List (Byte × Byte)) (cover : Cover)
    (tval : Option Word) : Run State :=
  match s.resolve s.cx sp .store va bs.length with
  | .error (c, v) => .error (.trap c (tval.getD v) s)
  | .ok (s', p) =>
    let walk := s.walkMeets s.cx sp .store va bs.length
    if p.inReg || walk = .lost then .error (.trap .dataAccess (tval.getD va) s)
    else if s.poisoned p && cover = .no then .error (.trap .dataLost (tval.getD va) s)
    else if walk = .wait then .error (.wait s)
    else (s'.issueWrite w va p bs).map fun t => if cover = .ends then t.cleanAfter w p.marks else t

/-! ### Waiting accesses performed (R221, R234, R235, R261) -/

/-- The lines that a write touches, by the address accessed. -/
def linesOf (locs : List (Nat × Nat)) : List Nat := (locs.map fun l => lineOf l.1).eraseDups

/-- Write located bytes of g: space: one write to each line (R202). -/
def State.writeLocs (s : State) (id : Option Nat) (locs : List (Nat × Nat)) (bs : List (Byte × Byte)) : State :=
  (({ s with mem := mergeAt s.mem (locs.map Prod.snd) bs }).bumps (linesOf locs)).touchBy id (.store false) (locs.map Prod.snd)

/-- Replace an operand of `n` bytes by a function of it: in g: space, or in the scratch or cave of context `id`. -/
def State.modify (s : State) (id : Nat) (sp : Space) (locs : List (Nat × Nat)) (count : Bool) (f : Nat → Nat) : State :=
  let spots := locs.map Prod.snd
  let n := spots.length
  match sp with
  | .g =>
    let v := f (ofBytes (spots.map fun a => s.mem.byte a))
    let s' := ({ s with mem := mergeAt s.mem spots (whole n v) }).touchBy (some id) .atomic spots
    if count then s'.bumps (linesOf locs) else s'
  | .s => s.mapCtx id fun c => { c with scratch := mergeAt c.scratch spots (whole n (f (ofBytes (spots.map fun a => c.scratch.byte a)))) }
  | .c => s.mapCtx id fun c =>
      { c with
        cave := mergeAt c.cave spots (whole n (f (ofBytes (spots.map fun a => c.cave.byte a))))
        caveTags := if count then bumpCave c.caveTags (spots.headD 0) n else c.caveTags }

/-- One addition of vscadd, without flags (R221). -/
def scaddSum (f : Fmt) (rm : Rm) (x y : Nat) : Nat :=
  if f.intClass then (x + y) % 2 ^ f.sew
  else (encodeVal f rm 0 (addVal rm (fmtVal f x) (fmtVal f y)).1).1

/-- What an addition of mflush leaves (R261). -/
def flushSum (kind : MKind) (old t : Nat) : Nat :=
  match kind with
  | .f32 => (encodeVal .f32 .rne 0 (addVal .rne (fmtVal .f32 old) (fmtVal .f32 t)).1).1
  | .f64 => (encodeVal .f64 .rne 0 (addVal .rne (fmtVal .f64 old) (fmtVal .f64 t)).1).1
  | .i32 => satInt .i32 ((BitVec.ofNat 32 old).toInt + (BitVec.ofNat 32 t).toInt)

/-- Perform a waiting write: a store; the one update of an address at its ordering point; a flushed element's addition, of which
one counts for each line of its mflush (R202, R221, R261). -/
def State.performWrite (s : State) : Pend → State
  | .store id _ locs bs _ _ => s.writeLocs id locs bs
  | .update id sp locs fmt rm v => s.modify id sp locs true fun old => scaddSum fmt rm old v.toNat
  | .flush id sp locs kind count v => s.modify id sp locs count fun old => flushSum kind old v.toNat
  | .load _ _ _ _ => s

/-- A byte of a waiting access lies on a row. -/
def onRow (core : BitVec 12) (layer row : Nat) (l : Nat × Nat) : Bool := isDram l.2 && rowOf l.2 == (core, layer, row)

/-- Drain the write queue of a row: what waits for it is performed in order, unless an earlier access of its issuer has to come
first; of a store that reaches into another row the bytes of this one (R235, R300). -/
def State.drainRow (s : State) (core : BitVec 12) (layer row : Nat) : State :=
  let go (r : State × List Pend) (e : Pend) : State × List Pend :=
    let (s, kept) := r
    if e.space != .g || (kept.any fun f => f.leads e) || !e.locs.any (onRow core layer row) then (s, kept ++ [e])
    else match e with
      | .load _ _ _ _ => (s, kept ++ [e])
      | .store id va locs bs num ordered =>
        let on := (locs.zip bs).filter fun x => onRow core layer row x.1
        let off := (locs.zip bs).filter fun x => !onRow core layer row x.1
        (s.writeLocs id (on.map Prod.fst) (on.map Prod.snd),
          if off.isEmpty then kept else kept ++ [.store id va (off.map Prod.fst) (off.map Prod.snd) num ordered])
      | _ => (s.performWrite e, kept)
  let (t, kept) := s.pend.foldl go (s, [])
  State.cleanDone { t with pend := kept }

/-- Drain the write queue for a group and start its activation (R235, R242). -/
def State.activate (s : State) (id : Nat) (k : Fin 16) (g : Nat) : State :=
  match s.ctx? id with
  | none => s
  | some c =>
    let (layer, row) := (groupRow c.h[k].entry g).getD (0, 0)
    (s.drainRow c.coreid layer row).mapCtx id fun c =>
      { c with h := c.h.set k { c.h[k] with group := .opening g } }

/-! ### Watermarks (R285, R287) -/

/-- A kernel's AUX names watermark `k` in its producer link (byte 0) or its consumer link (byte 1) (R33). -/
def linkNames (aux : Word) (byte : Nat) (k : Nat) : Bool :=
  bitOf aux (8 * byte + 7) && fld aux (8 * byte) 6 == k

/-- Watermark `k`. -/
def State.wm (s : State) (k : Nat) : Wm := s.dev.wms[Fin.ofNat 64 k]
def State.setWm (s : State) (k : Nat) (w : Wm) : State :=
  { s with dev := { s.dev with wms := s.dev.wms.set (Fin.ofNat 64 k) w } }

/-- The context may use watermark `k`: its launch holds the index, and its kernel's links name it, the producer link for wmpub
(R51, R285, R286). -/
def State.wmAllowed (s : State) (k : Nat) (producer : Bool) : Bool :=
  match s.cx.leaf with
  | none => false
  | some (l, n) =>
    match s.node? l n with
    | none => false
    | some x => (s.wm k).holder == some l && x.kind == .kernel && (linkNames x.aux 0 k || (!producer && linkNames x.aux 1 k))

/-- The element at `va` waits for its index to fall below the watermark (R287). -/
def Wm.waits (w : Wm) (va : Word) : Bool :=
  if !w.init then true
  else if va.toNat < w.base.toNat then false
  else
    let i := (va.toNat - w.base.toNat) / w.esize
    decide (i < w.bound.toNat) && decide (w.w.toNat ≤ i)

end Sys2Proof.Machine
end

