-- ==== Sys2Proof/Machine/Ctl.lean ====
section
/-! DEFINITION. The control registers: their numbers, what each reads, what a write must satisfy and what it does (R113 to R116,
R132, R156, R190, R226, R249, R320 to R323, R347 to R349, R367). -/

namespace Sys2Proof.Machine

/-! ### What the registers show of the device -/

/-- Scratch ways that all contexts of a tower hold, the switched-out ones too, stopped or not (R63, R190, R359, R376). -/
def State.poolWays (s : State) (t : BitVec 3) : Nat :=
  ((s.ctxs.filter fun c => towerOf c.coreid == t && c.holdsCave).map Ctx.cavepart).sum

/-- cavestat (R190). -/
def State.cavestat (s : State) (c : Ctx) : Word :=
  let t := s.tower (towerOf c.coreid)
  BitVec.ofNat 64 ((if t.tlim then 2 ^ 63 else 0) + (if t.slices.toList.any Slice.evac then 2 ^ 62 else 0)
    + (if c.caveLost then 2 ^ 61 else 0) + s.poolWays (towerOf c.coreid) % 16 * 2 ^ 32 + c.caveWb.toNat)

/-- POOLID, TOWER and INIT of a pool leaf's AUX (R31). -/
def auxPool (aux : Word) : Nat := fld aux 4 12
def auxTower (aux : Word) : BitVec 3 := BitVec.ofNat 3 (fld aux 16 3)
def auxInit (aux : Word) : Nat := fld aux 32 32

/-- The pool that poolsel names: a pool of a live launch in the context's address space and tower (R323); of
two of one POOLID that of the earlier launch (DESIGN CHOICE, log 96). -/
def State.selectedPool (s : State) (c : Ctx) : Option (Nat × Nat) :=
  s.dev.launches.findSome? fun l =>
    if l.st == .live && fld l.ptbase 48 16 == fld c.ptbase 48 16 then
      (l.nodes.findIdx? fun n => n.kind == .pool && !n.retired && auxPool n.aux == fld c.poolsel 0 12 &&
        auxTower n.aux == towerOf c.coreid).map fun k => (l.num, k)
    else none

/-- Tasks of a pool leaf that run or are switched out, and suspended tasks whose record is not in the ring (R323). -/
def State.running (s : State) (r : Nat × Nat) : Nat :=
  (s.ctxs.filter fun c => c.leaf == some r && c.inTask && (c.resident || c.phase == .switchedOut)).length
  + ((List.range 8).map fun t => ((s.tower (BitVec.ofNat 3 t)).susp.filter fun e => e.leaf == r).length).sum

/-- READY; 0 when the consumer has run past the producer over records that software left in the ring (R380). -/
def Node.readyCount (n : Node) : Nat :=
  let k := (n.prod - n.cons).toNat
  if k < 2 ^ 31 then k else 0

/-! ### Reading -/

/-- The register of a number, for context `c`; none where no number is assigned (R367). -/
def State.ctlRead (s : State) (c : Ctx) (n : Nat) : Option Word :=
  match n with
  | 0x004 => some c.frm
  | 0x005 => some c.fflags
  | 0x006 => some c.srkey
  | 0x007 => some c.srbase
  | 0x008 => some c.vred
  | 0x009 => some (BitVec.ofNat 64 c.mask.length)
  | 0x00c => some (c.vatmap.setWidth 64)
  | 0x010 => some c.qdesc[0]
  | 0x011 => some c.qdesc[1]
  | 0x012 => some c.qdesc[2]
  | 0x013 => some c.qdesc[3]
  | 0x014 => some c.qbase[0]
  | 0x015 => some c.qbase[1]
  | 0x016 => some c.qbase[2]
  | 0x017 => some c.qbase[3]
  | 0x018 => some c.qstride[0]
  | 0x019 => some c.qstride[1]
  | 0x01a => some c.qstride[2]
  | 0x01b => some c.qstride[3]
  | 0x020 => some c.vl
  | 0x021 => some c.vtype
  | 0x022 => some c.vstart
  | 0x023 => some c.vhalo
  | 0x100 => some (BitVec.ofNat 64 c.cavepart)
  | 0x101 => some (s.cavestat c)
  | 0x102 => some c.ptbase
  | 0x110 => some (s.tower (towerOf c.coreid)).foliotab
  | 0x200 => some c.bound
  | 0x201 => some c.task
  | 0x202 => some s.dev.incmode
  | 0x203 => some c.tlive
  | 0x204 => some c.poolsel
  | 0x205 =>
    some (match (s.selectedPool c).bind fun r => s.node? r.1 r.2 with
      | some n => BitVec.ofNat 64 n.culled
      | none => 0)
  | 0x206 =>
    some (match s.selectedPool c with
      | some r =>
        BitVec.ofNat 64 (s.running r * 2 ^ 32 + (match s.node? r.1 r.2 with | some n => n.readyCount | none => 0))
      | none => 0)
  | 0x300 => some c.tvec
  | 0x301 => some c.epc
  | 0x302 => some c.cause
  | 0x303 => some c.tval
  | 0x304 => some c.fromReg
  | 0x305 => some c.status
  | 0x306 => some c.tscratch
  | 0x307 => some c.inflight
  | 0x308 => some c.ifrec[0]
  | 0x309 => some c.ifrec[1]
  | 0x30a => some c.ifrec[2]
  | 0x30b => some c.ifrec[3]
  | 0x400 => some c.inst
  | 0x401 => some c.region
  | 0x402 => some (c.coreid.setWidth 64)
  | 0x403 => some (Config.cycleAt s.ticks)
  | _ => none

/-- Registers reachable in supervisor mode only (R190, R226, R322, R347). -/
def ctlSup (n : Nat) : Bool := n == 0x102 || n == 0x110 || n == 0x202 || decide (0x300 ≤ n ∧ n ≤ 0x30b)

/-- Registers whose every field is read-only (R367). -/
def ctlReadOnly (n : Nat) : Bool :=
  n == 0x009 || n == 0x00c || n == 0x100 || n == 0x101 || n == 0x200 || n == 0x201 || n == 0x205 || n == 0x206 ||
  decide (0x400 ≤ n ∧ n ≤ 0x403)

/-- The bits of a register that must be zero. -/
def ctlReserved (n : Nat) : Word :=
  match n with
  | 0x004 => 0xfffffffffffffff8
  | 0x005 => 0xffffffffffffffe0
  | 0x010 | 0x011 | 0x012 | 0x013 => 0xfffffffe00000000
  | 0x018 | 0x019 | 0x01a | 0x01b => 0x8000000000000000
  | 0x020 => 0xffffffffffffe000
  | 0x021 => 0xffffffffff00e000
  | 0x022 => 0x7ffffffffffff000
  | 0x102 => 0x00000000000007ff
  | 0x110 => 0xfff000000003ffff
  | 0x202 => 0xffffffffffff0000
  | 0x204 => 0xfffffffffffff000
  | 0x300 => 0xff00000000000002
  | 0x305 => 0xffffffffffffff18
  | 0x307 => 0x1f00000000000003
  | 0x308 | 0x309 | 0x30a | 0x30b => 0x1c00000000000000
  | _ => 0

/-! ### Writing -/

/-- A mask of registers that a task may save: at most 16 bits, bit 0 clear (R37, R321). -/
def liveBad (v : Word) : Bool := bitOf v 0 || decide (((List.range 64).filter fun j => bitOf v j).length > 16)

/-- A bound handle of some context of the tower (R226). -/
def State.towerBound (s : State) (t : BitVec 3) : Bool :=
  s.ctxs.any fun c => c.phase != .absent && towerOf c.coreid == t && c.h.toList.any Handle.bound

/-- The trap that the value `v` offered to register `n` raises (R116, R132, R226, R321, R348, R367). -/
def State.ctlTrap (s : State) (n : Nat) (v : Word) : Option Cause :=
  let c := s.cx
  if v &&& ctlReserved n != 0 then some .illEnc else
  match n with
  | 0x004 => if fld v 0 3 > 4 then some .illEnc else none
  | 0x010 | 0x011 | 0x012 | 0x013 => c.qdescTrap (Fin.ofNat 4 n) v
  | 0x020 => if v.toNat > c.cap then some .illOperand else none
  | 0x021 =>
    if fld v 4 3 == 7 || fld v 7 3 == 7 || fld v 10 3 == 7 then some .illEnc
    else if shapeTooBig v then some .illOperand else none
  | 0x110 => if s.towerBound (towerOf c.coreid) then some .illOperand else none
  | 0x203 => if liveBad v then some .illOperand else none
  | 0x307 => if fld v 61 3 > 4 then some .illEnc else none
  | _ => none

/-- Write a context register (R115, R116, R348). -/
def Ctx.ctlPut (c : Ctx) (n : Nat) (v : Word) : Ctx :=
  match n with
  | 0x004 => { c with frm := v }
  | 0x005 => { c with fflags := v }
  | 0x006 => { c with srkey := v }
  | 0x007 => { c with srbase := v }
  | 0x008 => { c with vred := v }
  | 0x010 | 0x011 | 0x012 | 0x013 => { c with qdesc := c.qdesc.set (Fin.ofNat 4 n) v }
  | 0x014 | 0x015 | 0x016 | 0x017 => { c with qbase := c.qbase.set (Fin.ofNat 4 n) v }
  | 0x018 | 0x019 | 0x01a | 0x01b => { c with qstride := c.qstride.set (Fin.ofNat 4 n) v }
  | 0x020 => { c with vl := v }
  | 0x021 =>
    let c := { c with vtype := v }
    if c.vl.toNat > c.cap then { c with vl := BitVec.ofNat 64 c.cap } else c
  | 0x022 => { c with vstart := v }
  | 0x023 => { c with vhalo := v, vstart := c.vstart ||| 0x8000000000000000 }
  | 0x102 => { c with ptbase := v }
  | 0x203 => { c with tlive := v }
  | 0x204 => { c with poolsel := v }
  | 0x300 => { c with tvec := v }
  | 0x301 => { c with epc := v }
  | 0x302 => { c with cause := v }
  | 0x303 => { c with tval := v }
  | 0x304 => { c with fromReg := v }
  | 0x305 => { c with status := (v &&& 0x66) ||| (c.status &&& 0x81) }
  | 0x306 => { c with tscratch := v }
  | 0x307 => { c with inflight := v }
  | 0x308 | 0x309 | 0x30a | 0x30b => { c with ifrec := c.ifrec.set (Fin.ofNat 4 n) v }
  | _ => c

/-- Write a register for the context in focus: tower and device registers go where they are held (R226, R322). -/
def State.ctlPut (s : State) (n : Nat) (v : Word) : State :=
  match n with
  | 0x110 => s.setTower (towerOf s.cx.coreid) { s.tower (towerOf s.cx.coreid) with foliotab := v }
  | 0x202 => { s with dev := { s.dev with incmode := v } }
  | _ => s.upd fun c => c.ctlPut n v

end Sys2Proof.Machine
end

