-- ==== Sys2Proof/Machine/Save.lean ====
section
/-! DEFINITION. The saved context: the slot of R359 and R360, the points where a context may be stopped (R357), switching out
and restoring (R237, R354, R358, R361, R362). -/

namespace Sys2Proof.Machine

/-! ### Where a context may be stopped (R351, R357) -/

/-- A regl of the context has not written its status yet (R341, R357). -/
def State.reglOpen (s : State) (id : Nat) : Bool := s.dev.launches.any fun l => l.issuer == some id

/-- A vscadd update of the context is in flight (R221). -/
def State.updatesOut (s : State) (id : Nat) : Bool :=
  s.pend.any fun e => match e with
    | .update j _ _ _ _ _ => j == id
    | _ => false

/-- An asynchronous trap pends that the context has to take: no handler runs, or none is enabled (R351, R353). -/
def Ctx.asyncWants (c : Ctx) : Bool := c.phase == .running && !c.pending.isEmpty && (!bitOf c.status 2 || !bitOf c.tvec 0)

/-- Everything that R357 waits for is done, and the context stands between instructions or between the elements of one. -/
def State.strikes (s : State) (c : Ctx) : Bool :=
  c.phase == .running && c.vpNow.isNone && !s.queued c && !s.flushesOut c && !s.updatesOut c.id && !c.resultsOut &&
  !s.reglOpen c.id &&
  match c.stall with
  | .none | .again | .elem _ | .rowact => true
  | _ => false

/-- A running node of the context reaches its scratch block, which a switch gives up (R61, R282; log 32). -/
def State.nodesInScratch (s : State) (c : Ctx) : Bool :=
  (s.core c.coreid).graph.toList.any fun e => e.st == .running && e.owner == some (.ctx c.id) &&
    ((e.image.extractLsb' 232 2 == 1) || (e.image.extractLsb' 234 2 == 1))

/-- The context may be switched out: as for an asynchronous trap, with no handler running and no trap that has to come first, and
its stores performed, because the slot is written with release (R282, R356, R357, R359; log 32). -/
def State.canSwitch (s : State) (c : Ctx) : Bool :=
  s.strikes c && c.vp.isNone && !bitOf c.status 2 && !c.asyncWants && !s.writesOut c.id && !s.nodesInScratch c

/-! ### The slot (R359, R360) -/

/-- Bytes whose layout the spec does not give (log 30). -/
def freeBytes (seed n : Nat) : Nat := ofBytes ((List.range n).map fun k => Config.saveByte (seed + k))

/-- The register of a doubleword of the control-register area; none for a doubleword that is zero (R360). -/
def ctlOfDword (k : Nat) : Option Nat :=
  let n := if k < 64 then k else if k < 96 then 0x100 + (k - 64) else if k < 112 then 0x200 + (k - 96) else 0x300 + (k - 112)
  if n = 0x110 || n = 0x202 || n = 0x205 || n = 0x206 || k ≥ 124 then none else some n

/-- The doublewords of the control-register area. -/
def State.ctlDword (s : State) (c : Ctx) (k : Nat) : Word :=
  if k = 124 then c.inst else if k = 125 then c.region else if k = 126 then c.strip
  else ((ctlOfDword k).bind fun n => s.ctlRead c n).getD 0

/-- The entries of a core's graph table that a context owns, as a 64-bit map (R277). -/
def State.ownedMap (s : State) (c : Ctx) : Nat :=
  let g := (s.core c.coreid).graph
  ((List.finRange 64).map fun k => if g[k].owner == some (.ctx c.id) && g[k].st != .free then 2 ^ k.val else 0).sum

/-- The areas of a slot whose layout the spec does not give (R359; log 30). -/
inductive Area where
  | nest | handles | channels | pipes
  deriving DecidableEq, Repr

/-- Its number, its place in the slot, and its size. -/
def Area.num : Area → Nat
  | .nest => 0 | .handles => 1 | .channels => 2 | .pipes => 3
def Area.off : Area → Nat
  | .nest => 0x600 | .handles => 0x700 | .channels => 0xb000 | .pipes => 0xcd000
def Area.size : Area → Nat
  | .nest => 256 | .handles => 256 | .channels => 8192 | .pipes => 131072

/-- What the device writes into an area: free values, told apart by the number that the context remembers. -/
def areaWord (c : Ctx) (r : Area) : Nat := freeBytes (c.areas + 2 ^ 20 * r.num) r.size
def areaItem (c : Ctx) (r : Area) : Nat × Nat × Nat := (r.off, r.size, areaWord c r)

/-- A FIFO or a ring of the context holds something. -/
def Ctx.channelsHold (c : Ctx) : Bool := c.commandsOut || !c.cp.ring.isEmpty || !c.gt.ring.isEmpty

/-- What a slot holds of a context: offset, bytes and value; only areas of resources that it holds (R359). -/
def State.slotItems (s : State) (c : Ctx) : List (Nat × Nat × Nat) :=
  ((List.finRange 64).map fun k => (8 * k.val, 8, (c.readX (BitVec.ofNat 6 k.val)).toNat))
  ++ ((List.range 128).map fun k => (0x200 + 8 * k, 8, (s.ctlDword c k).toNat))
  ++ (if c.press.isSome then [areaItem c .nest] else [])
  ++ (if c.h.toList.any Handle.bound then [areaItem c .handles] else [])
  ++ ((List.finRange 8).map fun k => (0x800 + 128 * k.val, 128, c.sc[k].toNat))
  ++ [(0xc00, 8, c.cp.seq.toNat), (0xc08, 8, c.gt.seq.toNat), (0xc10, 8, s.ownedMap c), (0xc18, 0x28, 0)]
  ++ ((List.finRange 16).map fun k =>
      (0xc40 + 8 * k.val, 8, if c.h[k].group.claim.isSome then freeBytes (c.areas + 512 + 8 * k.val) 8 else 0))
  ++ [(0xcc0, 0x300, 0)]
  ++ (c.mask.reverse.mapIdx fun k m => (0x1000 + 512 * k, 512, m.toNat))
  ++ ((List.finRange 64).map fun k => (0x3000 + 512 * k.val, 512, (c.readP (BitVec.ofNat 6 k.val)).toNat))
  ++ (if c.channelsHold then [areaItem c .channels] else [])
  ++ ((List.finRange 64).map fun k => (0xd000 + 2048 * k.val, 2048, c.v[k].toNat))
  ++ ((List.finRange 4).filterMap fun k =>
      if c.vatmap.getLsbD k.val then some (0x2d000 + 32768 * k.val, 32768, c.a[k].toNat) else none)
  ++ ((List.range (if c.scrLog = 0 then 0 else 2 ^ c.scrLog / 4096)).map fun k =>
      (0x4d000 + 4096 * k, 4096, c.scratch.readN (4096 * k) 4096))
  ++ (match c.gang with
      | some (_, 0) => [areaItem c .pipes]
      | _ => [])

/-- Free values that one slot takes. -/
def slotFree : Nat := 2 ^ 22

/-- Write the slot at a virtual address (R359). -/
def State.writeSlot (s : State) (c : Ctx) (va : Word) : State :=
  let t := (s.slotItems c).foldl (fun t i => t.deviceWrite c.ptbase (va + BitVec.ofNat 64 i.1) i.2.1 i.2.2) s
  { t with free := s.free + slotFree }

/-- The slot as bytes by offset, for the save window (R362). -/
def State.windowOf (s : State) (c : Ctx) : Memory :=
  (s.slotItems c).foldl (fun m i => m.writeN i.1 i.2.1 i.2.2) []

/-! ### Restoring (R360) -/

/-- A value outside the range that its register states (R360). -/
def ctlOut (c : Ctx) (n : Nat) (v : Word) : Bool :=
  v &&& ctlReserved n != 0 ||
  match n with
  | 0x004 => fld v 0 3 > 4
  | 0x009 => v.toNat > 16
  | 0x010 | 0x011 | 0x012 | 0x013 => (c.qdescTrap (Fin.ofNat 4 n) v).isSome
  | 0x020 => v.toNat > 4096
  | 0x021 => fld v 4 3 == 7 || fld v 7 3 == 7 || fld v 10 3 == 7 || shapeTooBig v
  | 0x200 => fld v 32 32 != 0
  | 0x201 => fld v 30 33 != 0 || fld v 4 12 != 0
  | 0x203 => liveBad v
  | 0x307 => fld v 61 3 > 4
  | _ => false

/-- Restore a register without the checks of ctlw. The identity and the tower's bits of cavestat are the context's own, not the
slot's; LOST is set as well by a loss while the context was out (R360, R364). The grants follow in State.restoreGrants. -/
def Ctx.ctlRestore (c : Ctx) (n : Nat) (v : Word) : Ctx :=
  match n with
  | 0x021 => { c with vtype := v }
  | 0x023 => { c with vhalo := v }
  | 0x101 => { c with caveLost := bitOf v 61 || c.pending.any (fun q => q.1 == .caveLost), caveWb := v.setWidth 32 }
  | 0x200 => { c with bound := v }
  | 0x201 => { c with task := v }
  | 0x305 => { c with status := v }
  | _ => c.ctlPut n v

/-- A register from its doubleword: a value outside its range gives a free value within it (R360; log 30). -/
def Ctx.ctlFrom (c : Ctx) (n : Nat) (v old : Word) (seed : Nat) : Ctx :=
  let w : Word := BitVec.ofNat 64 (freeBytes seed 8) &&& ~~~(ctlReserved n)
  if !ctlOut c n v then c.ctlRestore n v
  else if n = 0x021 then c.ctlRestore n (legalShape v)
  else c.ctlRestore n (if !ctlOut c n w then w else if ctlOut c n old then 0 else old)

/-- vl within the shape (R111): a vl that exceeds it gives a free value. -/
def Ctx.vlWithin (c : Ctx) (seed : Nat) : Ctx :=
  if c.vl.toNat ≤ c.cap then c else { c with vl := BitVec.ofNat 64 (freeBytes seed 2 % (c.cap + 1)) }

/-- The number of a quire descriptor. -/
def isQdesc (n : Nat) : Bool := decide (0x010 ≤ n ∧ n < 0x014)

/-- The registers of a context from a slot that `rd` reads; what cannot be read stays as the device holds it (log 21, 30). The quire
descriptors are restored together: each is held to those of the slot, not to those that the context had (R119, R360). -/
def State.ctlFromSlot (s : State) (c : Ctx) (rd : Nat → Nat → Option Nat) (seed : Nat) : Ctx :=
  ((List.range 124).foldl (fun (d : Ctx) k =>
    match ctlOfDword k with
    | some n =>
      let old := (s.ctlRead c n).getD 0
      match (rd (0x200 + 8 * k) 8).orElse fun _ => if isQdesc n then some old.toNat else none with
      | some v => d.ctlFrom n (BitVec.ofNat 64 v) old (seed + 8 * k)
      | none => d
    | none => d) { c with qdesc := Vector.replicate 4 0 }).vlWithin (seed + 1024)

/-- The grants that a slot names: tiles that the context holds, by any names below VATN, and ways that it holds, in a size that
cavecfg accepts; anything beyond is a value outside the range, and a free one within it is taken (R258, R263, R360; log 33). -/
def Ctx.restoreGrants (c : Ctx) (vat cave : Option Nat) (seed : Nat) : Ctx :=
  let fits (v : Nat) : Bool :=
    decide (v < 16 ∧ v < 2 ^ c.vatn) && decide (popcount (BitVec.ofNat 4 v) ≤ popcount c.vatmap)
  let sizes := [0, 2, 4, 8, 12].filter fun w => decide (w ≤ c.cavepart)
  let pick (l : List Nat) (k : Nat) : Nat := l.getD (freeBytes (seed + k) 2 % l.length) 0
  let v := match vat with
    | some v => if fits v then v else pick ((List.range 16).filter fits) 0
    | none => c.vatmap.toNat
  let w := match cave with
    | some w => if sizes.contains w then w else pick sizes 2
    | none => c.cavepart
  let lim := w * (12 * 2 ^ 20)
  { c with
    vatmap := BitVec.ofNat 4 v, cavepart := w
    cave := if w = c.cavepart then c.cave else c.cave.below lim
    caveTags := if w = c.cavepart then c.caveTags else c.caveTags.filter fun t => decide (128 * t.1 < lim) }

/-! #### The areas without a given layout: what the host left, rearranged (R359, R362; log 30) -/

/-- An area as the host left it, in the order that the model reads; none when it stands as it was written. -/
def areaLeft (c : Ctx) (rd : Nat → Nat → Option Nat) (r : Area) : Option Nat :=
  match rd r.off r.size with
  | some v => if v = areaWord c r then none else some (Config.arranged r.num v)
  | none => none

/-- Bits of a rearranged area. -/
def abits (v o n : Nat) : Nat := v / 2 ^ o % 2 ^ n

/-- A press nest: the record, the indices, the bases, where its body begins and how long each instruction is. -/
def nestOf (v : Nat) : Nest :=
  let image : BitVec 1024 := BitVec.ofNat 1024 v
  let first : Word := BitVec.ofNat 64 (abits v 1376 62 * 4)
  let words := (List.range (abits v 1440 5 + 1)).map fun k => 1 + abits v (1445 + 2 * k) 2 % 3
  let addrs := words.foldl (fun (r : List Word × Word) w => (r.1 ++ [r.2], r.2 + BitVec.ofNat 64 (4 * w))) ([], first)
  { image := image
    idx := (List.range (nestLevels image)).map fun k => abits v (1024 + 16 * k) 16 % max 1 (nestCount image k)
    bases := (List.range (nestStreams image)).map fun j => BitVec.ofNat 64 (abits v (1120 + 64 * j) 64)
    body := addrs.1.map fun a => (a, 0)
    after := addrs.2, held := abits v 1509 3, stale := true }

def Ctx.nestFrom (c : Ctx) (rd : Nat → Nat → Option Nat) : Ctx :=
  match c.press, areaLeft c rd .nest with
  | some _, some v => if recordOk (nestOf v).image then { c with press := some (nestOf v) } else c
  | _, _ => c

/-- A handle: its binding, its position and its group; the entry is the one that it has, or else its table's. -/
def State.handleOf (s : State) (c : Ctx) (old : Handle) (v : Nat) : Handle :=
  let t := towerOf c.coreid
  let i : BitVec 12 := BitVec.ofNat 12 (abits v 1 12)
  let e := if old.bound && old.tower == t && old.index == i then old.entry else s.folioEntry t i.toNat
  let g := abits v 48 16
  let h : Handle := { old with bound := abits v 0 1 == 1, tower := t, index := i, entry := e, pos := abits v 16 32 }
  let group : Group := match abits v 13 2 with | 0 => .none | 1 => .opening g | 2 => .held g | _ => .lost g
  if !h.bound then {}
  else if !entValid e || decide (g ≥ entGroups e) || entCore e != columnOf c.coreid || decide (h.pos > entGroups e * 16384) then old
  else { h with group := group }

/-- The layers that a resumed context needs are idle and no resident context claims them (R237). -/
def State.layersFree (s : State) (c : Ctx) (core : BitVec 12) : Bool :=
  c.h.toList.all fun h =>
    match h.bound, h.group.claim with
    | true, some (g, _) =>
      match groupRow h.entry g with
      | some (ly, _) =>
        (s.core core).layers[Fin.ofNat 8 ly] == .idle && !(s.claims core).any fun k => k.id != c.id && k.layer == ly
      | none => true
    | _, _ => true

/-- No two handles of the context claim one layer. -/
def Ctx.layersApart (c : Ctx) : Bool :=
  let ls := c.h.toList.filterMap fun h => match h.group.claim with
    | some (g, _) => (groupRow h.entry g).map Prod.fst
    | none => none
  decide ls.Nodup

/-- The handles of a slot; ones that would reach what another context holds stay as the device has them. -/
def State.handlesFrom (s : State) (c : Ctx) (rd : Nat → Nat → Option Nat) : Ctx :=
  match areaLeft c rd .handles with
  | some v =>
    if !c.h.toList.any Handle.bound then c
    else
      let d := { c with h := c.h.mapIdx fun k (h : Handle) => s.handleOf c h (v / 2 ^ (128 * k)) }
      if s.layersFree d c.coreid && d.layersApart then d else c
  | none => c

/-- A channel: its FIFO and its ring. An element that the host has left acquires at the widest scope (log 30). -/
def chanOf (h : Channel) (v : Nat) : Channel :=
  let n := min 16 (abits v 0 5)
  { h with
    fifo := (List.range n).map fun k => ⟨BitVec.ofNat 1024 (abits v (16 + 1024 * k) 1024), h.seq - BitVec.ofNat 32 (n - k)⟩
    ring := (List.range (min 64 (abits v 5 7))).map fun k => BitVec.ofNat 128 (abits v (16400 + 128 * k) 128)
    scopes := List.replicate (min 64 (abits v 5 7)) .sys }

def Ctx.channelsFrom (c : Ctx) (rd : Nat → Nat → Option Nat) : Ctx :=
  match areaLeft c rd .channels with
  | some v => if c.channelsHold then { c with cp := chanOf c.cp v, gt := chanOf c.gt (v / 2 ^ 32768) } else c
  | none => c

/-- The pipes of a gang copy, from member 0's slot. -/
def State.pipesFrom (s : State) (c : Ctx) (rd : Nat → Nat → Option Nat) : State :=
  match c.leaf, c.gang, areaLeft c rd .pipes with
  | some (l, n), some (copy, 0), some v =>
    let items (p : Pipe) : List Brick :=
      let w := v / 2 ^ (140000 * p.bind.q)
      let width := if p.bind.brick then 16384 else 64
      (List.range (min (if p.bind.brick then 8 else 64) (abits w 0 7))).map fun k =>
        BitVec.ofNat 16384 (abits w (8 + width * k) width)
    let left (p : Pipe) : Pipe := if p.l == l && p.n == n && p.copy == copy then { p with items := items p } else p
    { s with dev := { s.dev with pipes := s.dev.pipes.map left } }
  | _, _, _ => s

/-- The graph entries that the slot's map no longer names are free (R277). -/
def State.entriesFrom (s : State) (c : Ctx) (rd : Nat → Nat → Option Nat) : State :=
  match rd 0xc10 8 with
  | some v =>
    let co := s.core c.coreid
    let free (k : Nat) (e : GEntry) : GEntry := if e.owner == some (.ctx c.id) && !v.testBit k then {} else e
    s.setCore c.coreid { co with graph := co.graph.mapIdx free }
  | none => s

/-- Restore a context from a slot that `rd` reads; what cannot be read stays as the device holds it (R360; log 21, 30). -/
def State.fromSlot (s : State) (c : Ctx) (rd : Nat → Nat → Option Nat) (seed : Nat) : Ctx :=
  let get (off n old : Nat) : Nat := (rd off n).getD old
  let c := { c with x := c.x.mapIdx fun k (w : Word) => BitVec.ofNat 64 (get (8 * k) 8 w.toNat) }
  let depth := match rd (0x200 + 8 * 9) 8 with
    | some v => if v ≤ 16 then v else freeBytes (seed + 9) 1 % 17
    | none => c.mask.length
  let c := (s.ctlFromSlot c rd seed).restoreGrants (rd 0x260 8) (rd 0x400 8) (seed + 2048)
  let c := { c with
    strip := BitVec.ofNat 64 (get 0x5f0 8 c.strip.toNat)
    sc := c.sc.mapIdx fun k (w : Scale) => BitVec.ofNat 1024 (get (0x800 + 128 * k) 128 w.toNat)
    cp := { c.cp with seq := BitVec.ofNat 32 (get 0xc00 8 c.cp.seq.toNat) }
    gt := { c.gt with seq := BitVec.ofNat 32 (get 0xc08 8 c.gt.seq.toNat) }
    mask := ((List.range depth).map fun k => BitVec.ofNat 4096 (get (0x1000 + 512 * k) 512 0)).reverse
    p := c.p.mapIdx fun k (w : Pred) => BitVec.ofNat 4096 (get (0x3000 + 512 * k) 512 w.toNat)
    v := c.v.mapIdx fun k (w : Brick) => BitVec.ofNat 16384 (get (0xd000 + 2048 * k) 2048 w.toNat)
    a := c.a.mapIdx fun k (w : Tile) =>
      if c.vatmap.getLsbD k then BitVec.ofNat 262144 (get (0x2d000 + 32768 * k) 32768 w.toNat) else w
    scratch := (List.range (if c.scrLog = 0 then 0 else 2 ^ c.scrLog / 4096)).foldl (fun m k =>
      match rd (0x4d000 + 4096 * k) 4096 with
      | some v => m.writeN (4096 * k) 4096 v
      | none => m) c.scratch }
  s.handlesFrom ((c.nestFrom rd).channelsFrom rd) rd

/-! ### Switching out and back -/

/-- The layers of a context's open groups begin to close (R237). -/
def State.closeLayers (s : State) (c : Ctx) : State :=
  let mine := (s.claims c.coreid).filter fun k => k.id == c.id && k.started
  let co := s.core c.coreid
  s.setCore c.coreid { co with layers := mine.foldl (fun l k => l.set (Fin.ofNat 8 k.layer) .closing) co.layers }

/-- Where the context stops: the records, epc and vstart as a trap would leave them, with nothing of a handler (R354); `seed` tells
its save's free values apart. A rowact that stalls keeps its claim, which the slot records as OPENING (R242). -/
def Ctx.stopped (c : Ctx) (seed : Nat) : Ctx :=
  let d := match c.stall with
    | .elem len => c.stopRegs true len c.pc
    | _ => c.stopRegs false 0 c.pc
  { d with stall := .none, areas := seed }

/-- The context is out: in its save slot, or stopped for a save that the host takes (R356, R359, R362). -/
def Ctx.isOut (c : Ctx) : Bool := c.phase == .switchedOut || (c.phase == .stopped && c.hostSave != .no)

/-- Switch a context out into save slot `k` (R359). -/
def State.switchOut (s : State) (c : Ctx) (k : Nat) : State :=
  let c1 := { c.stopped s.free with phase := .switchedOut, saveSlot := some k, outAt := Config.cycleAt s.ticks }
  let save := match c.leaf.bind fun r => s.node? r.1 r.2 with | some n => n.save | none => 0
  ((s.closeLayers c).mapCtx c.id fun _ => c1).writeSlot c1 (save + BitVec.ofNat 64 (k * 2 ^ 20))

/-- Stop a context whose save the host takes (R362). -/
def State.stopForHost (s : State) (c : Ctx) : State :=
  let c1 := { c.stopped s.free with
    phase := .stopped, saveSlot := some 0, outAt := Config.cycleAt s.ticks, hostSave := .waits }
  { (s.closeLayers c).mapCtx c.id fun _ => c1 with free := s.free + slotFree }

/-- The save window holds the save of some context. -/
def State.windowOpen (s : State) : Bool := s.ctxs.any fun c => c.hostSave == .asked

/-- The host is asked for the next save that waits; the device has one save window (R362, R386). -/
def State.askSave (s : State) : State :=
  if s.windowOpen then s else
  match s.ctxs.find? fun c => c.hostSave == .waits && c.phase == .stopped with
  | none => s
  | some c =>
    let s : State := { s with dev := { s.dev with window := s.windowOf c } }
    let addr := ((c.leaf.bind fun r => s.node? r.1 r.2).map Node.addr).getD 0
    (s.mapCtx c.id fun c => { c with hostSave := .asked }).emit
      ⟨4, (towerOf c.coreid).setWidth 8, addr, c.inst, c.place, some (.save c.id)⟩

/-- Groups that were OPENING or HELD open again, each as a rowact would activate it; a LOST group stays LOST (R235, R237). -/
def State.reopen (s : State) (c : Ctx) : State :=
  (List.finRange 16).foldl (fun s k =>
    match c.h[k].group with
    | .claimed g | .opening g | .held g => s.activate c.id k g
    | _ => s) s

/-- The asynchronous traps of a resumed context: PREEMPT when it asked for it, then what pended while it was out (R358,
R364, R351). -/
def State.wakeTraps (s : State) (c : Ctx) : State :=
  let old := c.pending
  let s := s.mapCtx c.id fun c => { c with pending := [] }
  let s := if bitOf c.status 5 then s.raiseAsync c.id .preempt (Config.cycleAt s.ticks - c.outAt) else s
  old.foldl (fun s q => s.raiseAsync c.id q.1 q.2) s

/-- Restore a context, its pipes and its entries from a slot; it does not go on yet. -/
def State.restore (s : State) (c : Ctx) (rd : Nat → Nat → Option Nat) : State :=
  let d := s.fromSlot c rd s.free
  let s := ({ s.mapCtx c.id (fun _ => d) with free := s.free + slotFree }).pipesFrom c rd
  s.entriesFrom c rd

/-- A restored context goes on: its records or its pc, its loop buffer empty, its groups open again, its traps pending (R108, R237,
R242, R355, R358, R361). Its loads see nothing that its core or its tower took before (R295). -/
def State.goAgain (s : State) (id : Nat) : State :=
  match s.ctx? id with
  | none => s
  | some c =>
    let s := s.acquireAt c.coreid .sys
    let d := Ctx.goOn { c with
      phase := .running, saveSlot := none, hostSave := .no, h := c.h.map (Handle.letGo c.epc)
      press := c.press.map fun n => { n with stale := true } }
    ((s.mapCtx id fun _ => d).reopen d).wakeTraps d

/-- Read a slot in memory. -/
def State.slotAt (s : State) (ptbase va : Word) (off n : Nat) : Option Nat :=
  (s.deviceRead ptbase (va + BitVec.ofNat 64 off) n).map Prod.fst

end Sys2Proof.Machine
end

