-- ==== Sys2Proof/Machine/Device.lean ====
section
/-! DEFINITION. The device register space: launch ports, control block, event ring answers, snapshot and save windows (R43 to
R46, R362, R381, R385, R386, R389); and bring-up, firmware and attestation (R387, R388). -/

namespace Sys2Proof.Machine

/-! ### Launch ports (R43 to R46) -/

def State.port (s : State) (page : BitVec 6) : Port := s.dev.ports[page.toNat]
def State.setPort (s : State) (page : BitVec 6) (p : Port) : State :=
  { s with dev := { s.dev with ports := s.dev.ports.set page.toNat p } }

/-- A write of ADDR (0), ARG (1), TOKEN (2) or FLAGS (3). -/
def Port.write (p : Port) (r : Nat) (v : Word) : Port :=
  let p := { p with wr := p.wr ||| BitVec.ofNat 4 (2 ^ r) }
  match r with
  | 0 => { p with addr := v }
  | 1 => { p with arg := v }
  | 2 => { p with token := v }
  | _ => { p with flags := v }

/-- A write of GO: it captures the four registers, or has no effect while STATE is 1 (R46). CODE and LP.BAD read 0 while STATE is 1, of
which R45 says nothing (DESIGN CHOICE, log 93). -/
def Port.go (p : Port) (v : Word) : Port :=
  if p.st = 1 then { p with drop := true }
  else
    { p with
      capWr := p.wr, capAddr := p.addr, capArg := p.arg, capToken := p.token, capFlags := p.flags
      wr := 0, drop := false, st := 1, code := 0, seq := v.setWidth 16, bad := 0 }

/-- In recovery every GO is dropped (R385). -/
def State.lpGo (s : State) (page : BitVec 6) (v : Word) : State :=
  if s.dev.recov then s else s.setPort page ((s.port page).go v)

/-- LP.STATUS (R45). -/
def Port.status (p : Port) : Word :=
  BitVec.ofNat 64 (p.seq.toNat * 2 ^ 16 + p.code.toNat * 2 ^ 8 + p.wr.toNat * 2 ^ 4 + (if p.drop then 8 else 0) + p.st.toNat)

/-! ### Answers of the host (R386) -/

/-- What the event `seq` asked, when it awaits an answer. -/
def State.askOf (s : State) (seq : BitVec 32) : Option Ask := (s.dev.asks.find? fun a => a.1 == seq).map Prod.snd
/-- The event has its answer. -/
def State.answered (s : State) (seq : BitVec 32) : State :=
  { s with dev := { s.dev with asks := s.dev.asks.filter fun a => a.1 != seq } }

/-- A translation fault: walk again, or raise the trap. -/
def State.respXlate (s : State) (seq : BitVec 32) (trap : Bool) : Option State :=
  match s.askOf seq with
  | some (.xlate id c v) =>
    some ((s.answered seq).mapCtx id fun x =>
      if x.phase == .stopped then { x with phase := .running, stall := if trap then .raise c v else x.stall } else x)
  | _ => none

/-- The node at which the question of FDOM ends: the one whose own value decides, or the root (R28). It is the node whose subtree
stops when the host answers policy 1, which neither R28 nor R386 names (DESIGN CHOICE, log 93). -/
def State.decider (s : State) : List (Nat × Nat) → Option (Nat × Nat)
  | [] => none
  | [r] => some r
  | r :: rs =>
    match (s.node? r.1 r.2).bind Node.fdom with
    | some 0 | some 1 => some r
    | _ => s.decider rs

/-- An unhandled fault: the policy to apply, 0 or 1 (R28, R353). -/
def State.respPolicy (s : State) (seq : BitVec 32) (pol : Nat) : Option State :=
  let top (leaf : Nat × Nat) : Nat × Nat := (s.decider (s.ancestors leaf)).getD leaf
  if pol > 1 then none else
  match s.askOf seq with
  | some (.fault id) =>
    let s' := s.answered seq
    match s.ctx? id with
    | none => some s'
    | some c =>
      match c.leaf with
      | some leaf => some (s'.applyPolicy (some c) (pol == 1) (top leaf))
      | none => some (s'.stopInstance c)
  | some (.record l n) => some ((s.answered seq).applyPolicy none (pol == 1) (top (l, n)))
  | _ => none

/-- The contexts that are switched together: the members of a gang copy, in order, or the one (R64). -/
def State.together (s : State) (c : Ctx) : List Ctx :=
  match c.leaf, c.gang with
  | some _, some (copy, _) =>
    let all := s.ctxs.filter fun d => d.leaf == c.leaf && d.gang.map Prod.fst == some copy
    (List.range 4).flatMap fun m => all.filter fun d => d.gang.map Prod.snd == some m
  | _, _ => [c]

/-- The host has answered for the context and for its whole gang copy, and the layers that they need are free: they go on together
(R64, R237, R362). -/
def State.goTogether (s : State) (c : Ctx) : Option State :=
  let cs := s.together c
  if cs.all fun d => d.phase == .stopped && d.hostSave == .answered && s.layersFree d d.coreid then
    some (cs.foldl (fun s d => s.goAgain d.id) s)
  else none

/-- A save: the context takes what the host left in the window, and the next save that waits takes the window. It goes on at once
when it can, else when its gang copy has its answers and its layers are free (R237, R362; log 75). -/
def State.respResume (s : State) (seq : BitVec 32) : Option State :=
  match s.askOf seq with
  | some (.save id) =>
    match s.ctx? id with
    | none => some (s.answered seq)
    | some c =>
      let s' := s.answered seq
      let w := s.dev.window
      let s' : State := { s' with dev := { s'.dev with window := [] } }
      if c.phase != .stopped then some (s'.mapCtx id fun c => { c with hostSave := .no }).askSave
      else
        let s' := (s'.restore c fun off n => some (w.readN off n)).mapCtx id fun c => { c with hostSave := .answered }
        some (match s'.ctx? id with
          | some d => ((s'.goTogether d).getD s').askSave
          | none => s'.askSave)
  | _ => none

/-- Clear the markers of the 4 KiB region of an address (R364, R386). -/
def State.clearRegion (s : State) (region : Nat) : State :=
  { s with poison := s.poison.filter fun l => l / 32 != region }

def State.respPoison (s : State) (seq : BitVec 32) (clear : Bool) : Option State :=
  match s.askOf seq with
  | some (.poison r) => some (if clear then (s.answered seq).clearRegion r else s.answered seq)
  | _ => none

/-- A launch under validation: accepted, or rejected with a code of R42 or R47. -/
def State.respLaunch (s : State) (seq : BitVec 32) (reject : Option (BitVec 8)) : Option State :=
  match s.askOf seq with
  | some (.launch l) =>
    let s' := s.answered seq
    match s.launch? l with
    | none => some s'
    | some x =>
      match reject with
      | none =>
        -- accepted now: the list of launches is in the order of acceptance (R52)
        let rest := s'.dev.launches.filter fun y => y.num != l
        let s' := { s' with dev := { s'.dev with launches := rest ++ [{ x with st := .queued }] } }
        some (match x.page with
          | some g => s'.setPort g { s'.port g with st := 2, code := 0, bad := 0 }
          | none => s')
      | some code =>
        match x.page with
        | some g =>
          some (State.setPort { s' with dev := { s'.dev with launches := s'.dev.launches.filter fun y => y.num != l } } g
            { s'.port g with st := 3, code := code, bad := 0 })
        | none => some (s'.mapLaunch l fun x => { x with st := .retired, code := code })
  | _ => none

/-- A write of RESP: what is not listed for the event is ignored. -/
def State.resp (s : State) (v : Word) : State :=
  let seq : BitVec 32 := v.extractLsb' 32 32
  let act := fld v 24 8
  let r := match s.askOf seq with
    | some (.xlate _ _ _) => if act ≤ 1 then s.respXlate seq (act == 1) else none
    | some (.fault _) | some (.record _ _) => s.respPolicy seq (fld v 0 2)
    | some (.save _) => if act = 0 then s.respResume seq else none
    | some (.poison _) => if act ≤ 1 then s.respPoison seq (act == 1) else none
    | some (.launch _) =>
      if act = 0 then s.respLaunch seq none
      else if act = 1 then s.respLaunch seq (some (v.extractLsb' 0 8)) else none
    | none => none
  r.getD s

/-! ### The control block (R385) -/

/-- Some launch is live, checking or queued. -/
def State.live (s : State) : Bool :=
  (s.dev.ports.toList.any fun p => p.st == 1) || s.dev.launches.any fun l => l.st != .retired

def State.towerBits (s : State) (f : Tower → Bool) : Nat :=
  ((List.range 8).map fun t => if f (s.tower (BitVec.ofNat 3 t)) then 2 ^ t else 0).sum

/-- DSTAT. -/
def State.dstat (s : State) : Word :=
  let ready := s.towerBits Tower.ready
  BitVec.ofNat 64 (Config.peerIndex.toNat * 2 ^ 24 + ready * 2 ^ 16 + s.towerBits Tower.early * 2 ^ 8
    + (if ready = 255 then 8 else 0) + (if s.live then 4 else 0) + (if s.dev.fwok then 2 else 0) + (if s.dev.recov then 1 else 0))

/-- SNAPCTL. -/
def State.snapReg (s : State) : Word :=
  BitVec.ofNat 64 (s.dev.snapSeq.toNat * 2 ^ 32 + (if s.dev.snapHeld then 2 ^ 10 else 0) + s.dev.snapctl.toNat)

/-- A write of DMODE: refused while a launch is live (R385). -/
def State.writeDmode (s : State) (v : Word) : State :=
  if s.live then { s with dev := { s.dev with rej := true } }
  else { s with dev := { s.dev with ha := v.setWidth 6, rej := false } }

/-- A write of EVCONS: slots are free, and events that waited are written (R386). -/
def State.writeEvcons (s : State) (v : BitVec 32) : State :=
  State.pumpEvents { s with dev := { s.dev with evcons := v } } s.dev.evwait.length

def State.releaseSnap (s : State) : State := { s with dev := { s.dev with snapHeld := false } }

/-- A doubleword of the snapshot window while a snapshot is held: 64 bytes for each core, which hold what the trigger latched of it
in a layout that the spec does not give (R385, R389; log 18). -/
def State.snapDword (s : State) (o : Nat) : Word :=
  if !s.dev.snapHeld then 0
  else
    let of (k : Nat) := s.dev.snap.find? fun e => e.1 == k
    let l := (((of (o / 64)).orElse fun _ => of 4096).map Prod.snd).getD []
    BitVec.ofNat 64 (ofBytes ((List.range 8).map fun k => Config.snapByte l (o % 64 + k)))

/-- Read the doubleword at an offset of the register space; every other offset reads zero (R381). -/
def State.regRead (s : State) (off : Nat) : Word :=
  if off < 0x40000 then
    let p := s.port (BitVec.ofNat 6 (off / 4096))
    match off % 4096 with
    | 0x000 => p.addr
    | 0x008 => p.arg
    | 0x018 => p.flags
    | 0x028 => p.status
    | 0x030 => p.bad
    | _ => 0
  else if off < 0x50000 then
    match off - 0x40000 with
    | 0x000 => s.dstat
    | 0x008 => BitVec.ofNat 64 (s.dev.ha.toNat + if s.dev.rej then 128 else 0)
    | 0x010 => s.dev.evbase
    | 0x018 => s.dev.evcons.setWidth 64
    | 0x020 => s.dev.evvec.setWidth 64
    | 0x030 => s.snapReg
    | _ => 0
  else if off < 0x90000 then s.snapDword (off - 0x50000)
  else if 0x100000 ≤ off ∧ off < 0x200000 then BitVec.ofNat 64 (s.dev.window.readN (off - 0x100000) 8)
  else 0

/-- Write the doubleword at an offset; every other offset ignores it, and reserved bits are dropped (R381, R385). -/
def State.regWrite (s : State) (off : Nat) (v : Word) : State :=
  if off < 0x40000 then
    let page : BitVec 6 := BitVec.ofNat 6 (off / 4096)
    match off % 4096 with
    | 0x000 => s.setPort page ((s.port page).write 0 v)
    | 0x008 => s.setPort page ((s.port page).write 1 v)
    | 0x010 => s.setPort page ((s.port page).write 2 v)
    | 0x018 => s.setPort page ((s.port page).write 3 v)
    | 0x020 => s.lpGo page v
    | _ => s
  else if off < 0x50000 then
    match off - 0x40000 with
    | 0x008 => s.writeDmode v
    | 0x010 => { s with dev := { s.dev with evbase := v &&& 0x000ffffffffff00f } }
    | 0x018 => s.writeEvcons (v.setWidth 32)
    | 0x020 => { s with dev := { s.dev with evvec := v.setWidth 11 } }
    | 0x028 => s.resp v
    | 0x030 =>
      let s := { s with dev := { s.dev with snapctl := v.setWidth 8 } }
      let s := if bitOf v 9 then s.releaseSnap else s
      if bitOf v 8 then s.snapshot.2 else s
    | _ => s
  else if 0x100000 ≤ off ∧ off < 0x200000 then
    if s.windowOpen then { s with dev := { s.dev with window := s.dev.window.writeN (off - 0x100000) 8 v.toNat } } else s
  else s

/-! ### The events of the host and of the management firmware -/

def execLpAddr (page : BitVec 6) (v : BitVec 64) (s : State) : Host.Outcome State Fault Refusal :=
  event s (some (s.setPort page ((s.port page).write 0 v)))
def execLpArg (page : BitVec 6) (v : BitVec 64) (s : State) : Host.Outcome State Fault Refusal :=
  event s (some (s.setPort page ((s.port page).write 1 v)))
def execLpToken (page : BitVec 6) (v : BitVec 64) (s : State) : Host.Outcome State Fault Refusal :=
  event s (some (s.setPort page ((s.port page).write 2 v)))
def execLpFlags (page : BitVec 6) (v : BitVec 64) (s : State) : Host.Outcome State Fault Refusal :=
  event s (some (s.setPort page ((s.port page).write 3 v)))
def execLpGo (page : BitVec 6) (v : BitVec 64) (s : State) : Host.Outcome State Fault Refusal :=
  event s (some (s.lpGo page v))

def execDmode (v : BitVec 64) (s : State) : Host.Outcome State Fault Refusal := event s (some (s.writeDmode v))
def execEvcons (v : BitVec 32) (s : State) : Host.Outcome State Fault Refusal := event s (some (s.writeEvcons v))
def execRegisterWrite (off : BitVec 24) (v : BitVec 64) (s : State) : Host.Outcome State Fault Refusal :=
  event s (if off.toNat % 8 = 0 ∧ off.toNat < 2 ^ 22 then some (s.regWrite off.toNat v) else none)

def execRespWalkAgain (seq : BitVec 32) (s : State) : Host.Outcome State Fault Refusal := event s (s.respXlate seq false)
def execRespRaiseTrap (seq : BitVec 32) (s : State) : Host.Outcome State Fault Refusal := event s (s.respXlate seq true)
def execRespPolicy (seq : BitVec 32) (pol : BitVec 2) (s : State) : Host.Outcome State Fault Refusal :=
  event s (s.respPolicy seq pol.toNat)
def execRespResume (seq : BitVec 32) (s : State) : Host.Outcome State Fault Refusal := event s (s.respResume seq)
def execRespClearPoison (seq : BitVec 32) (s : State) : Host.Outcome State Fault Refusal := event s (s.respPoison seq true)
def execRespKeepPoison (seq : BitVec 32) (s : State) : Host.Outcome State Fault Refusal := event s (s.respPoison seq false)
def execRespAcceptLaunch (seq : BitVec 32) (s : State) : Host.Outcome State Fault Refusal := event s (s.respLaunch seq none)
def execRespRejectLaunch (seq : BitVec 32) (code : BitVec 8) (s : State) : Host.Outcome State Fault Refusal :=
  event s (s.respLaunch seq (some code))

def execSnapshotTrigger (s : State) : Host.Outcome State Fault Refusal := event s (some s.snapshot.2)
def execSnapshotRelease (s : State) : Host.Outcome State Fault Refusal := event s (some s.releaseSnap)

/-- The host clears a region's markers, under host-assisted poison recovery (R364). -/
def execPoisonMarkerClear (pa : BitVec 64) (s : State) : Host.Outcome State Fault Refusal :=
  event s (if s.assisted 4 then some (s.clearRegion (pa.toNat / 4096)) else none)

/-- A grant by the management firmware (R44, R350). -/
def execPortPageGrant (page : BitVec 6) (check : BitVec 32) (asid : BitVec 16) (root : BitVec 64) (sup : Bool) (s : State) :
    Host.Outcome State Fault Refusal :=
  event s (if s.dev.fwok then some (s.setPort page { s.port page with
    granted := true, check := check, asid := asid, root := root &&& 0x0000fffffffff800, sup := sup }) else none)

def execQueuePairTable (qp : BitVec 16) (up : Bool) (s : State) : Host.Outcome State Fault Refusal :=
  event s (if s.dev.fwok then
    let rest := s.dev.qps.filter fun q => q != qp
    some { s with dev := { s.dev with qps := if up then qp :: rest else rest } } else none)

/-- Device reset (R328, R387): every register of the device and its towers as at reset. What memory holds, its tags and its
poison stay while the device is powered (R202; log 34), and so do the records of what has been sent. -/
def execDeviceReset (s : State) : Host.Outcome State Fault Refusal :=
  event s (some { State.reset with
    mem := s.mem, tags := s.tags, poison := s.poison, agenda := s.agenda, caching := s.caching, ticks := s.ticks
    free := s.free
    dev := { State.reset.dev with sent := s.dev.sent, rdma := s.dev.rdma } })

/-- A tower finishes training: early service, and full service for all once every tower has trained (R387). -/
def execTowerTrained (t : BitVec 3) (s : State) : Host.Outcome State Fault Refusal :=
  event s (
    if !s.dev.fwok || (s.tower t).early || (s.tower t).ready then none
    else
      let s := s.setTower t { s.tower t with early := true }
      if s.towerBits Tower.early = 255 then
        some ((List.range 8).foldl (fun s k =>
          s.setTower (BitVec.ofNat 3 k) { s.tower (BitVec.ofNat 3 k) with early := false, ready := true }) s)
      else some s)

/-- A firmware image is verified and runs, or leaves the device in recovery (R388). -/
def execFirmwareImage (digest : BitVec 256) (ok : Bool) (s : State) : Host.Outcome State Fault Refusal :=
  event s (some { s with dev :=
    if ok then { s.dev with fwok := true, recov := false, digest := digest }
    else { s.dev with fwok := false, recov := true } })

/-- An SPDM answer whose words the spec does not give (R388; log 19). -/
def State.spdm (s : State) : State := State.send { s with free := s.free + 1 } (.spdm (Config.spdmAnswer s.free))

def execSpdmCertificate (s : State) : Host.Outcome State Fault Refusal :=
  event s (if s.dev.fwok then some s.spdm else none)
def execSpdmChallenge (_ : BitVec 256) (s : State) : Host.Outcome State Fault Refusal :=
  event s (if s.dev.fwok then some s.spdm else none)
/-- The measurements are the firmware digest and DMODE. -/
def execSpdmMeasurements (s : State) : Host.Outcome State Fault Refusal :=
  event s (if s.dev.fwok then
    some ((s.send (.spdm s.dev.digest)).send (.spdm (BitVec.ofNat 256 (s.dev.ha.toNat + if s.dev.rej then 128 else 0))))
    else none)
def execSpdmKeyExchange (_ : BitVec 256) (s : State) : Host.Outcome State Fault Refusal :=
  event s (if s.dev.fwok then some (State.spdm { s with dev := { s.dev with ide := true } }) else none)

end Sys2Proof.Machine
end

