-- ==== Sys2Proof/Machine/Mem.lean ====
section
/-! DEFINITION. The scalar memory instructions, atomics, fences, range maintenance and the cave partition (R131, R203 to R215). -/

namespace Sys2Proof.Machine

/-- Bytes of a scalar access (R203). -/
def sizeOf (sz : MSize) : Nat :=
  match sz with
  | .b => 1 | .h => 2 | .w => 4 | .d => 8 | .q => 16

/-! ### Loads and stores (R203 to R205, R381) -/

/-- The offset in the register space of an access that it allows: aligned, of 8 bytes, on a UC page (R381). -/
def Place.regOffset (p : Place) (va : Word) (n : Nat) : Option Nat :=
  match p with
  | .g (l :: ls) =>
    if n = 8 && va.toNat % 8 == 0 && (l :: ls).all (fun l => isReg l.pa && l.uc) then some (l.pa - 2 ^ 39) else none
  | _ => none

/-- The first byte of an access on a poisoned line (R364). -/
def State.lostAt (s : State) (p : Place) (va : Word) : Option Word :=
  match p with
  | .g ls => (ls.findIdx? fun l => s.poison.contains (lineOf l.pos)).map fun k => va + BitVec.ofNat 64 k
  | _ => none

/-- A scalar load of `n` bytes by a path (R188, R196, R197, R204, R234, R296). -/
def State.scalarLoad (s : State) (path : Path) (sp : Space) (va : Word) (n : Nat) : Run (Nat × State) :=
  match s.resolve s.cx sp .load va n with
  | .error (c, v) => .error (.trap c v s)
  | .ok (s', p) =>
    if p.inReg then
      match p.regOffset va n with
      | some off => .ok ((s'.regRead off).toNat, s')
      | none => .error (.trap .dataAccess va s)
    else match s.lostAt p va with
      | some v => .error (.trap .dataLost v s)
      | none =>
        let walk := s.walkMeets s.cx sp .load va n
        if s.peerFails p || walk = .lost then .error (.trap .dataAccess va s)
        else if s.blocked s.cx p n || s.layerWaits (some s.cx.coreid) p || walk = .wait then .error (.wait s)
        else .ok (s'.loadPlace s'.cx path .sector p n)

/-- A scalar store of the `n` low bytes of `v` (R188, R196, R197, R205). -/
def State.scalarStore (s : State) (sp : Space) (va : Word) (n v : Nat) : Run State :=
  match s.resolve s.cx sp .store va n with
  | .error (c, x) => .error (.trap c x s)
  | .ok (s', p) =>
    if p.inReg then
      match p.regOffset va n with
      | some off => .ok (s'.regWrite off (BitVec.ofNat 64 v))
      | none => .error (.trap .dataAccess va s)
    else match s.lostAt p va with
      | some x => .error (.trap .dataLost x s)
      | none =>
        match s.walkMeets s.cx sp .store va n with
        | .lost => .error (.trap .dataAccess va s)
        | .wait => .error (.wait s)
        | .free => s'.issueWrite {} va p (whole n v)

/-- The address of a scalar access: x(a) plus the displacement in units of `unit` bytes (R203). -/
def Ctx.ea (c : Ctx) (m : Mods) (a : Reg) (disp : BitVec 32) (unit : Nat) : Word := c.readX a + dispBytes m disp unit

/-- What a load writes (R204). -/
def Ctx.loaded (c : Ctx) (d : Reg) (sz : MSize) (sx : Bool) (v : Nat) : Ctx :=
  match sz with
  | .q => (c.writeX d (BitVec.ofNat 64 v)).writeX (d + 1) (BitVec.ofNat 64 (v >>> 64))
  | _ => c.writeX d (if sx then sextN (8 * sizeOf sz) v else BitVec.ofNat 64 v)

/-- The data of a store (R205), or the operand of a cas (R209). -/
def Ctx.data (c : Ctx) (d : Reg) (sz : MSize) : Nat :=
  match sz with
  | .q => (c.readX d).toNat + 2 ^ 64 * (c.readX (d + 1)).toNat
  | _ => (c.readX d).toNat % 2 ^ (8 * sizeOf sz)

/-- The path of a load: an acquire at cluster scope or wider does not read the L1, and at system scope no copy of a peer line (R191,
R297, R298). -/
def loadPath (acq : Option Scope) : Path :=
  match acq with
  | none | some .cor => .l1
  | some .sys => .fresh
  | some _ => .cave

/-- An acquiring load invalidates after its read (R191, R301); its place in program order orders the later accesses (log 1). -/
def execLd (m : Mods) (d a : Reg) (sz : MSize) (sx : Bool) (sp : Space) (acq : Option Scope) (disp : BitVec 32) (s : State) :
    Host.Outcome State Fault Refusal :=
  issue (.ld m d a sz sx sp acq disp) s fun s => do
    let (v, s) ← s.scalarLoad (loadPath acq) sp (s.cx.ea m a disp (sizeOf sz)) (sizeOf sz)
    pure (.adv ((s.acquireIf acq).upd fun c => c.loaded d sz sx v))

def execSt (m : Mods) (d a : Reg) (sz : MSize) (sp : Space) (rel : Option Scope) (disp : BitVec 32) (s : State) :
    Host.Outcome State Fault Refusal :=
  issue (.st m d a sz sp rel disp) s fun s => do
    let s ← s.releaseIf rel.isSome
    let s ← s.scalarStore sp (s.cx.ea m a disp (sizeOf sz)) (sizeOf sz) (s.cx.data d sz)
    pure (.adv s)

/-- The rind path returns what the cluster's buffers hold, else what memory holds (R201; log 35). -/
def execLdro (m : Mods) (d a : Reg) (sz : MSize) (sx : Bool) (disp : BitVec 32) (s : State) : Host.Outcome State Fault Refusal :=
  issue (.ldro m d a sz sx disp) s fun s => do
    let (v, s) ← s.scalarLoad .rind .g (s.cx.ea m a disp (sizeOf sz)) (sizeOf sz)
    pure (.adv (s.upd fun c => c.loaded d sz sx v))

/-- The tag of the line that holds the first byte of a place; a line outside device DRAM has an unspecified one (R202; log 11). -/
def State.tagOf (s : State) (c : Ctx) (p : Place) : Word × State :=
  match p with
  | .g (l :: _) =>
    if isDram l.pa || isAperture l.pa then ((s.tags.get (lineOf l.pa)).setWidth 64, s)
    else ((Config.foreignTag s.free).setWidth 64, { s with free := s.free + 1 })
  | .c off => ((c.caveTags.get (off / 128)).setWidth 64, s)
  | _ => (0, s)

def execLdtag (m : Mods) (d a : Reg) (sp : Space) (disp : BitVec 32) (s : State) : Host.Outcome State Fault Refusal :=
  issue (.ldtag m d a sp disp) s fun s => do
    let ea := s.cx.ea m a disp 128 &&& 0xffffffffffffff80
    let (_, s1) ← s.loadAt .cave sp ea 128 .sector
    match s1.resolve s1.cx sp .load ea 1 with
    | .error (c, v) => .error (.trap c v s)
    | .ok (s2, p) =>
      let (t, s3) := s2.tagOf s2.cx p
      pure (.adv (s3.upd fun c => c.writeX d t))

/-! ### Atomics (R207 to R209, R305, R310) -/

/-- Where an atomic is performed. -/
inductive Target where
  | device | host | hostUc | peer | regs
  deriving DecidableEq, Repr

def Place.target : Place → Target
  | .g (l :: _) =>
    if isReg l.pa then .regs else if isHost l.pa then (if l.uc then .hostUc else .host)
    else if isPeer l.pa then .peer else .device
  | _ => .device

/-- The new value of an atom of `w` bits (R208). -/
def atomNew (op : AtomOp) (w old b : Nat) : Nat :=
  let f : Fmt := if w = 32 then .f32 else .f64
  match op with
  | .add => (old + b) % 2 ^ w
  | .and => old &&& b
  | .or => old ||| b
  | .xor => old ^^^ b
  | .min => if (BitVec.ofNat w old).toInt ≤ (BitVec.ofNat w b).toInt then old else b
  | .max => if (BitVec.ofNat w old).toInt ≤ (BitVec.ofNat w b).toInt then b else old
  | .minu => min old b
  | .maxu => max old b
  | .xchg => b
  | .fadd => (encodeVal f .rne 0 (addVal .rne (fmtVal f old) (fmtVal f b)).1).1

/-- The AtomicOp that carries an atom to UC host memory (R310). -/
def hostOp (op : AtomOp) (b : Nat) : Option HostOp :=
  match op with
  | .add => some (.fetchAdd (BitVec.ofNat 128 b))
  | .xchg => some (.swap (BitVec.ofNat 128 b))
  | _ => none

/-- One atomic at `va`: `new` gives the value that replaces the old one, `carried` the AtomicOp for UC host memory. It answers
the old value and the line's tag after the step. -/
def State.atomic (s : State) (sp : Space) (va : Word) (n : Nat) (rel : Bool) (new : Nat → Nat) (carried : Option HostOp) :
    Run (Nat × Word × State) :=
  match s.cx.stall with
  | .hostDone ok old => if ok then .ok (old.toNat % 2 ^ (8 * n), 0, s) else .error (.trap .dataAccess va s)
  | _ => do
    trapIf (va.toNat % n != 0) .align va s
    match s.resolve s.cx sp .atomic va n with
    | .error (c, v) => .error (.trap c v s)
    | .ok (s1, p) =>
      let t := p.target
      trapIf (t == .regs || (t == .hostUc && carried.isNone)) .atomicUnsupported va s
      trapIf (s.poisoned p) .dataLost va s
      let walk := s.walkMeets s.cx sp .atomic va n
      trapIf (s.peerFails p || walk = .lost) .dataAccess va s
      let _ ← s.releaseIf rel
      waitIf (s.blocked s.cx p n || walk = .wait) s
      match s.rowMeets (some s.cx) p with
      | .self v => .error (.trap .rowSelf v s)
      | .wait => .error (.wait s)
      | .free =>
        match t, carried, p with
        | .hostUc, some op, .g (l :: _) =>
          .error (.wait (s1.upd fun c => { c with stall := .host, hostReq := some ⟨l.pa, n, op⟩ }))
        | _, _, _ =>
          let old := s1.readPlace s1.cx p n
          let s2 := s1.swapPlace p (whole n (new old))
          let (tag, s3) := s2.tagOf s2.cx p
          pure (old, tag, s3)

/-- The order field holds a release (R301). -/
def Ord.releases : Ord → Bool
  | .rel | .ar => true
  | _ => false

/-- The scope at which an atomic acquires, when its order field has it do so (R301, R305). -/
def Ord.acquires (o : Ord) (sc : Scope) : Option Scope :=
  match o with
  | .acq | .ar => some sc
  | _ => none

def execAtom (m : Mods) (d a b c : Reg) (op : AtomOp) (dbl : Bool) (ord : Ord) (sc : Scope) (sp : Space) (disp : BitVec 24)
    (s : State) : Host.Outcome State Fault Refusal :=
  issue (.atom m d a b c op dbl ord sc sp disp) s fun s => do
    let n := if dbl then 8 else 4
    let v := (s.cx.readX b).toNat % 2 ^ (8 * n)
    let (old, tag, s) ← s.atomic sp (s.cx.readX a + disp.signExtend 64) n (Ord.releases ord) (atomNew op (8 * n) · v) (hostOp op v)
    pure (.adv ((s.acquireIf (Ord.acquires ord sc)).upd fun x => (x.writeX d (sextN (8 * n) old)).writeX c tag))

def execCas (m : Mods) (d a b c : Reg) (sz : MSize) (ord : Ord) (sc : Scope) (sp : Space) (disp : BitVec 24) (s : State) :
    Host.Outcome State Fault Refusal :=
  issue (.cas m d a b c sz ord sc sp disp) s fun s => do
    let expected := s.cx.data d sz
    let new := s.cx.data b sz
    let (old, tag, s) ← s.atomic sp (s.cx.readX a + disp.signExtend 64) (sizeOf sz) (Ord.releases ord)
      (fun old => if old = expected then new else old) (some (.cas (BitVec.ofNat 128 expected) (BitVec.ofNat 128 new)))
    pure (.adv ((s.acquireIf (Ord.acquires ord sc)).upd fun x => (x.loaded d sz false old).writeX c tag))

/-! ### Fences and drain (R210, R211, R304) -/

/-- With EN and neither LL nor LS the L1 keeps its words (R210, R297, R304; DESIGN CHOICE, log 96). -/
def execFence (kinds : BitVec 6) (sc : Scope) (s : State) : Host.Outcome State Fault Refusal :=
  issue (.fence kinds sc) s fun s => do
    let ack := kinds.getLsbD 5
    waitIf (ack && s.flushesOut s.cx) s
    waitIf (kinds.getLsbD 4 && (s.cx.commandsOut || s.nodesRunning s.cx)) s
    let s ← s.releaseIf (ack || kinds.getLsbD 2 || kinds.getLsbD 3)
    -- LL and LS invalidate as an acquire does (R191, R210)
    pure (.adv (s.acquireIf (if kinds.getLsbD 0 || kinds.getLsbD 1 then some sc else none)))

def execDrain (s : State) : Host.Outcome State Fault Refusal :=
  issue .drain s fun s => do
    let s ← s.drain
    pure (.adv s)

/-! ### Range maintenance (R212, R213) -/

/-- Walk the pages of a range as loads, and gather its spans in memory: pages that are not mapped or not readable are skipped; a
walk over a poisoned line is not. With `lost`, a poisoned line of the range stops it as well (R364). -/
def State.rangeWalk (lost : Bool) : Nat → Word → Nat → State → Except Word (State × List (Nat × Nat))
  | 0, _, _, s => .ok (s, [])
  | fuel + 1, va, n, s =>
    if n = 0 then .ok (s, []) else
    let k := min n (4096 - va.toNat % 4096)
    let next := va + BitVec.ofNat 64 k
    match s.gLocs (some s.cx.coreid) s.cx.ptbase s.cx.sup .load va k 2 with
    | .error (.dataLost, v) => .error v
    | .error _ => State.rangeWalk lost fuel next (n - k) s
    | .ok (s', ls) =>
      match if lost then s.lostAt (.g ls) va else none with
      | some v => .error v
      | none =>
        (State.rangeWalk lost fuel next (n - k) s').map fun r => (r.1, ((ls.map Loc.pos).headD 0, k) :: r.2)

/-- A range instruction: its pages, its walkers, and with `ack` the wait for every walker of the context. -/
def rangeOp (i : Instr) (op : RangeOp) (ack : Bool) (a b : Reg) (s : State) : Host.Outcome State Fault Refusal :=
  issue i s fun s => do
    let va := s.cx.readX a
    let n := (s.cx.readX b).toNat
    match s.cx.stall with
    | .walk _ =>
      waitIf (s.walksOut s.cx.id) s
      pure (.adv s)
    | _ =>
      if n = 0 then pure (.adv s)
      else do
        trapIf (decide (n > 2 ^ 40) || decide (va.toNat + n > 2 ^ 56)) .illOperand va s
        walkFree s .g .load va n
        match s.rangeWalk (op != .seal) (n / 4096 + 2) va n with
        | .error v => .error (.trap .dataLost v s)
        | .ok (s1, spans) =>
          let w := s1.dev.nextWalk
          let s2 := { s1 with dev := { s1.dev with nextWalk := w + 1, walks := s1.dev.walks ++ [⟨w, s1.cx.id, op, spans⟩] } }
          if ack then .error (.wait (s2.upd fun c => { c with stall := .walk w })) else pure (.adv s2)

def execFlush (m : Mods) (ack : Bool) (a b : Reg) (s : State) : Host.Outcome State Fault Refusal :=
  rangeOp (.flush m ack a b) .flush ack a b s
def execInval (m : Mods) (ack : Bool) (a b : Reg) (s : State) : Host.Outcome State Fault Refusal :=
  rangeOp (.inval m ack a b) .inval ack a b s
def execSeal (m : Mods) (a b : Reg) (s : State) : Host.Outcome State Fault Refusal :=
  rangeOp (.seal m a b) .seal true a b s

/-! ### The cave partition (R214, R215) -/

/-- The ways that contexts of a subtree hold in a tower (R25, BCAVE). -/
def State.caveUse (s : State) (top : Nat × Nat) (t : BitVec 3) : Nat :=
  ((s.ctxs.filter fun c => towerOf c.coreid == t && c.holdsCave &&
    match c.leaf with | some r => s.under top r | none => false).map Ctx.cavepart).sum

/-- A partition that cavecfg accepts. -/
def waysOk (w : Word) : Bool := w == 0 || w == 2 || w == 4 || w == 8 || w == 12

/-- Growing from `old` to `w` ways is refused. -/
def State.caveRefuses (s : State) (old w : Nat) : Bool :=
  let t := towerOf s.cx.coreid
  decide (s.poolWays t - old + w > 12) || s.tw.early || s.tw.arraysOff ||
  match s.cx.leaf with
  | none => false
  | some r => (s.ancestors r).any fun q =>
      match s.node? q.1 q.2 with
      | some n => decide (s.caveUse q t - old + w > n.caps.cave)
      | none => false

/-- An earlier c: access of the context has not been performed. -/
def State.caveBusy (s : State) (c : Ctx) : Bool :=
  (s.pend.any fun e => e.owner == some c.id && e.space == .c) ||
  (s.core c.coreid).queue.any fun q => match q with
    | .mflush j _ _ sp _ _ => j == c.id && sp == .c
    | _ => false

/-- Lines written back from `k` ways of every slice: at most all of them (R193; log 9). -/
def dirtyCount (seed k : Nat) : BitVec 32 := BitVec.ofNat 32 ((Config.dirtyLines seed).toNat % (k * 16 * 6144 + 1))

def execCavecfg (d a : Reg) (s : State) : Host.Outcome State Fault Refusal :=
  issue (.cavecfg d a) s fun s => do
    let w := s.cx.readX a
    let old := s.cx.cavepart
    trapIf (!waysOk w) .illOperand w s
    trapIf (decide (w.toNat > old) && s.caveRefuses old w.toNat) .cavePool w s
    waitIf (s.caveBusy s.cx) s
    let n := if w.toNat > old then dirtyCount s.free (w.toNat - old) else 0
    let lim := w.toNat * (12 * 2 ^ 20)
    pure (.adv (State.upd { s with free := s.free + 1 } fun c =>
      { c with
        cavepart := w.toNat, caveWb := n, caveLost := false
        cave := c.cave.below lim
        caveTags := c.caveTags.filter fun t => decide (128 * t.1 < lim) }.writeX d (n.setWidth 64)))

def execCavewb (d a : Reg) (s : State) : Host.Outcome State Fault Refusal :=
  issue (.cavewb d a) s fun s => do
    let w := s.cx.readX a
    trapIf (!waysOk w) .illOperand w s
    let n := if w.toNat ≤ s.cx.cavepart then 0 else dirtyCount s.free (w.toNat - s.cx.cavepart)
    pure (.adv (State.upd { s with free := s.free + 1 } fun c => c.writeX d (n.setWidth 64)))

/-! ### Scale registers in memory (R131) -/

/-- The address of an sscale, aligned to 128. -/
def Ctx.scaleAddr (c : Ctx) (a : Reg) (disp : BitVec 8) : Word := c.readX a + BitVec.ofInt 64 (disp.toInt * 128)

def execSscaleLoad (m : Mods) (d a : Reg) (sp : Space) (disp : BitVec 8) (s : State) : Host.Outcome State Fault Refusal :=
  issue (.sscaleLoad m d a sp disp) s fun s => do
    let va := s.cx.scaleAddr a disp
    trapIf (va.toNat % 128 != 0) .align va s
    let (v, s) ← s.loadAt .l1 sp va 128 .sector
    pure (.adv (s.upd fun c => c.setScale d (BitVec.ofNat 1024 v)))

def execSscaleStore (m : Mods) (d a : Reg) (sp : Space) (disp : BitVec 8) (s : State) : Host.Outcome State Fault Refusal :=
  issue (.sscaleStore m d a sp disp) s fun s => do
    let va := s.cx.scaleAddr a disp
    trapIf (va.toNat % 128 != 0) .align va s
    let s ← s.storeAt { num := some s.cx.stores } sp va (whole 128 (s.cx.scale d).toNat) .ends (some va)
    pure (.adv (s.upd fun c => { c with stores := c.stores + 1 }))

end Sys2Proof.Machine
end

