-- ==== Sys2Proof/Machine/VInt.lean ====
section
/-! DEFINITION. The vector integer instructions, vsel, vbcast and vid (R152 to R166). -/

namespace Sys2Proof.Machine

/-- The number an element means in an integer format (R133). -/
def eInt (f : Fmt) (v : Nat) : Int := intOf f.signed f.sew v

def anyClass (_ : Fmt) : Bool := true

/-- An element-wise operation on two sources (R152, R154, R127). -/
def elemOp2 (i : Instr) (m : Mods) (d a b : Reg) (ok : Fmt → Bool) (f : Fmt → Nat → Nat → Nat) (s : State) :
    Host.Outcome State Fault Refusal :=
  issue i s fun s => do
    trapIf (!ok s.cx.fmt || s.cx.offsetClash d [(a, m.oa), (b, m.ob)]) .illOperand i.tval s
    vector m s fun s e => do
      let (x, y, s) ← s.opnd2 i m a b e
      pure (s.upd fun c => c.setEl d e (f c.fmt x y))

/-- The shift amount B[w − 1:0], with w = log2 sew (R159). -/
def elemShift (f : Fmt) (y : Nat) : Nat := y % 2 ^ f.logSew

def execVadd (m : Mods) (d a b : Reg) (s : State) : Host.Outcome State Fault Refusal :=
  elemOp2 (.vadd m d a b) m d a b Fmt.intClass (fun f x y => (x + y) % 2 ^ f.sew) s
def execVsub (m : Mods) (d a b : Reg) (s : State) : Host.Outcome State Fault Refusal :=
  elemOp2 (.vsub m d a b) m d a b Fmt.intClass (fun f x y => truncInt f.sew (x - y)) s
def execVand (m : Mods) (d a b : Reg) (s : State) : Host.Outcome State Fault Refusal :=
  elemOp2 (.vand m d a b) m d a b anyClass (fun _ x y => x &&& y) s
def execVor (m : Mods) (d a b : Reg) (s : State) : Host.Outcome State Fault Refusal :=
  elemOp2 (.vor m d a b) m d a b anyClass (fun _ x y => x ||| y) s
def execVxor (m : Mods) (d a b : Reg) (s : State) : Host.Outcome State Fault Refusal :=
  elemOp2 (.vxor m d a b) m d a b anyClass (fun _ x y => x ^^^ y) s
def execVshl (m : Mods) (d a b : Reg) (s : State) : Host.Outcome State Fault Refusal :=
  elemOp2 (.vshl m d a b) m d a b anyClass (fun f x y => (x <<< elemShift f y) % 2 ^ f.sew) s
def execVshr (m : Mods) (d a b : Reg) (s : State) : Host.Outcome State Fault Refusal :=
  elemOp2 (.vshr m d a b) m d a b anyClass (fun f x y => x >>> elemShift f y) s
/-- A is signed on every format (R159). -/
def execVsra (m : Mods) (d a b : Reg) (s : State) : Host.Outcome State Fault Refusal :=
  elemOp2 (.vsra m d a b) m d a b Fmt.intClass
    (fun f x y => truncInt f.sew (intOf true f.sew x / (2 ^ elemShift f y : Nat))) s
def execVmin (m : Mods) (d a b : Reg) (s : State) : Host.Outcome State Fault Refusal :=
  elemOp2 (.vmin m d a b) m d a b Fmt.intClass (fun f x y => if eInt f x < eInt f y then x else y) s
def execVmax (m : Mods) (d a b : Reg) (s : State) : Host.Outcome State Fault Refusal :=
  elemOp2 (.vmax m d a b) m d a b Fmt.intClass (fun f x y => if eInt f x < eInt f y then y else x) s
def execVmul (m : Mods) (d a b : Reg) (s : State) : Host.Outcome State Fault Refusal :=
  elemOp2 (.vmul m d a b) m d a b Fmt.intClass (fun f x y => x * y % 2 ^ f.sew) s
/-- Bits 2·sew − 1 to sew of the product (R160). -/
def execVmulh (m : Mods) (d a b : Reg) (s : State) : Host.Outcome State Fault Refusal :=
  elemOp2 (.vmulh m d a b) m d a b Fmt.intClass
    (fun f x y => truncInt f.sew (eInt f x * eInt f y / (2 ^ f.sew : Nat))) s
def execVsadd (m : Mods) (d a b : Reg) (s : State) : Host.Outcome State Fault Refusal :=
  elemOp2 (.vsadd m d a b) m d a b Fmt.intClass (fun f x y => satInt f (eInt f x + eInt f y)) s
def execVssub (m : Mods) (d a b : Reg) (s : State) : Host.Outcome State Fault Refusal :=
  elemOp2 (.vssub m d a b) m d a b Fmt.intClass (fun f x y => satInt f (eInt f x - eInt f y)) s

/-! ### vdot (R162, R150) -/

/-- The destination and source formats of a vdot. -/
def dotOk (df sf : Fmt) : Bool :=
  df.intClass && decide (16 ≤ df.sew) && sf.intClass && decide (sf.sew < df.sew)

/-- The exact sum of the products that destination element `e` combines. -/
def dotSum (a b : Brick) (sf : Fmt) (k e : Nat) : Int :=
  ((List.range k).map fun j =>
    eInt sf (elemAt a sf.sew (k * e + j)) * eInt sf (elemAt b sf.sew (k * e + j))).sum

def execVdot (m : Mods) (d a b : Reg) (sf : Fmt) (s : State) : Host.Outcome State Fault Refusal :=
  let i : Instr := .vdot m d a b sf
  issue i s fun s => do
    trapIf (!dotOk s.cx.fmt sf) .illOperand i.tval s
    vector m s fun s e =>
      let c := s.cx
      let k := c.fmt.sew / sf.sew
      .ok (s.upd fun c => c.setEl d e
        (satInt c.fmt (eInt c.fmt (c.el d e) + dotSum c.v[a.toNat] c.v[b.toNat] sf k e)))

/-! ### vcmp, vsel, vbcast, vid (R163 to R166) -/

def iccHolds (cc : ICc) (x y : Int) : Bool :=
  match cc with
  | .eq => x == y
  | .ne => x != y
  | .lt => decide (x < y)
  | .le => decide (x ≤ y)
  | .gt => decide (x > y)
  | .ge => decide (x ≥ y)

def execVcmp (m : Mods) (d a b : Reg) (cc : ICc) (s : State) : Host.Outcome State Fault Refusal :=
  let i : Instr := .vcmp m d a b cc
  issue i s fun s => do
    trapIf (!s.cx.fmt.intClass) .illOperand i.tval s
    vector m s fun s e => do
      let (x, y, s) ← s.opnd2 i m a b e
      pure (s.upd fun c => c.writeP d (setBit (c.readP d) e (iccHolds cc (eInt c.fmt x) (eInt c.fmt y))))

def execVsel (m : Mods) (d a b c : Reg) (s : State) : Host.Outcome State Fault Refusal :=
  let i : Instr := .vsel m d a b c
  issue i s fun s => do
    trapIf (s.cx.offsetClash d [(a, m.oa), (b, m.ob)]) .illOperand i.tval s
    vector m s fun s e => do
      let (x, y, s) ← s.opnd2 i m a b e
      pure (s.upd fun k => k.setEl d e (if (k.readP c).getLsbD e then x else y))

def execVbcast (m : Mods) (d : Reg) (a : Src) (s : State) : Host.Outcome State Fault Refusal :=
  issue (.vbcast m d a) s fun s => vector m s fun s e =>
    .ok (s.upd fun c => c.setEl d e ((c.src a).toNat % 2 ^ c.fmt.sew))

/-- The coordinates of an element under a vtype (R111). -/
def Ctx.coord (c : Ctx) (e : Nat) : Nat × Nat × Nat :=
  let bx := 2 ^ fld c.vtype 4 3
  let by_ := 2 ^ fld c.vtype 7 3
  (e % bx, e / bx % by_, e / (bx * by_))

def execVid (m : Mods) (d : Reg) (ax : Axis) (s : State) : Host.Outcome State Fault Refusal :=
  issue (.vid m d ax) s fun s => vector m s fun s e =>
    .ok (s.upd fun c =>
      let (x, y, z) := c.coord e
      let v := match ax with | .e => e | .x => x | .y => y | .z => z
      c.setEl d e (v % 2 ^ c.fmt.sew))

end Sys2Proof.Machine
end

