-- ==== Sys2Proof/Machine/VFloat.lean ====
section
/-! DEFINITION. The vector floating-point instructions, conversions, special functions and vrand (R169 to R178). -/

namespace Sys2Proof.Machine

/-! ### Operands (R141, R142, R155) -/

/-- The reserved code of an M format (R137). -/
def narCode (f : Fmt) : Option Nat :=
  match f with
  | .m8 => some 0x80
  | .m4 => some 0x8
  | _ => none

def isNar (f : Fmt) (v : Nat) : Bool := narCode f == some v

/-- The scale register that vtype enables for source `k`: 0 a, 1 b (R114, R155). -/
def Ctx.scaleOf (c : Ctx) (k : Nat) : Option (BitVec 3) :=
  match k with
  | 0 => if bitOf c.vtype 19 then some (c.vtype.extractLsb' 16 3) else none
  | 1 => if bitOf c.vtype 23 then some (c.vtype.extractLsb' 20 3) else none
  | _ => none

/-- The numeric value of an element that operand `k` has read, NaR checked before the scale (R141, R142). -/
def State.numeric (s : State) (k : Nat) (f : Fmt) (v e : Nat) (scale : Option (BitVec 3)) : Run Val :=
  if isNar f v then .error (.trap .elemReserved (BitVec.ofNat 64 (k * 1024 + v)) s)
  else
    match scale with
    | none => .ok (fmtVal f v)
    | some r =>
      let code := scaleByte s.cx.sc[r.toNat] (e / 32)
      if code = 255 then .error (.trap .scaleReserved (BitVec.ofNat 64 (k * 1024 + 0xf8 + r.toNat)) s)
      else .ok ((fmtVal f v).scaled code)

/-- Source `k` of a float instruction: its offset read, its checks, its value (R152). -/
def State.fopnd (s : State) (i : Instr) (k : Nat) (r : Reg) (o : Off) (e : Nat) (scaled : Bool) : Run (Val × Nat × State) := do
  let (v, s) ← s.opnd i k r o e
  let x ← s.numeric k s.cx.fmt v e (if scaled then s.cx.scaleOf k else none)
  pure (x, v, s)

/-- OR flags into fflags (R145). -/
def Ctx.addFlags (c : Ctx) (fl : Fl) : Ctx := { c with fflags := c.fflags ||| fl.setWidth 64 }

/-- Write an element and its flags. -/
def State.putF (s : State) (d : Reg) (e : Nat) (r : Nat × Fl) : State := s.upd fun c => (c.setEl d e r.1).addFlags r.2

/-- Round an exact result into the current format (R136, R140, R143). -/
def Ctx.roundTo (c : Ctx) (rm : Rm) (r : Val × Fl) : Nat × Fl :=
  let (v, fl) := encodeVal c.fmt (rmPlain c.frm rm) 0 r.1
  (v, fl ||| r.2)

/-! ### Arithmetic (R169 to R171, R174) -/

/-- An operation on two sources that rounds once. -/
def floatOp2 (i : Instr) (m : Mods) (d a b : Reg) (rm : Rm) (scaled : Bool) (f : Rm → Val → Val → Val × Fl) (s : State) :
    Host.Outcome State Fault Refusal :=
  issue i s fun s => do
    trapIf (!s.cx.fmt.floatClass || s.cx.offsetClash d [(a, m.oa), (b, m.ob)]) .illOperand i.tval s
    vector m s fun s e => do
      let (x, _, s) ← s.fopnd i 0 a m.oa e scaled
      let (y, _, s) ← s.fopnd i 1 b m.ob e scaled
      pure (s.putF d e (s.cx.roundTo rm (f (rmPlain s.cx.frm rm) x y)))

def execVfadd (m : Mods) (d a b : Reg) (rm : Rm) (s : State) : Host.Outcome State Fault Refusal :=
  floatOp2 (.vfadd m d a b rm) m d a b rm true addVal s
/-- A − B is A plus B with its sign turned (R169). -/
def execVfsub (m : Mods) (d a b : Reg) (rm : Rm) (s : State) : Host.Outcome State Fault Refusal :=
  floatOp2 (.vfsub m d a b rm) m d a b rm true (fun r x y => addVal r x y.negate) s
def execVfmul (m : Mods) (d a b : Reg) (rm : Rm) (s : State) : Host.Outcome State Fault Refusal :=
  floatOp2 (.vfmul m d a b rm) m d a b rm true (fun _ x y => mulVal x y) s
def execVfdiv (m : Mods) (d a b : Reg) (rm : Rm) (s : State) : Host.Outcome State Fault Refusal :=
  floatOp2 (.vfdiv m d a b rm) m d a b rm true (fun _ x y => divVal x y) s
def execVfmin (m : Mods) (d a b : Reg) (s : State) : Host.Outcome State Fault Refusal :=
  floatOp2 (.vfmin m d a b) m d a b .rne false (fun _ x y => minVal x y) s
def execVfmax (m : Mods) (d a b : Reg) (s : State) : Host.Outcome State Fault Refusal :=
  floatOp2 (.vfmax m d a b) m d a b .rne false (fun _ x y => maxVal x y) s

/-- A fused operation on three sources; scales apply to a and b (R171). -/
def floatOp3 (i : Instr) (m : Mods) (d a b c : Reg) (rm : Rm) (f : Rm → Val → Val → Val → Val × Fl) (s : State) :
    Host.Outcome State Fault Refusal :=
  issue i s fun s => do
    trapIf (!s.cx.fmt.floatClass || s.cx.offsetClash d [(a, m.oa), (b, m.ob), (c, m.oc)]) .illOperand i.tval s
    vector m s fun s e => do
      let (x, _, s) ← s.fopnd i 0 a m.oa e true
      let (y, _, s) ← s.fopnd i 1 b m.ob e true
      let (z, _, s) ← s.fopnd i 2 c m.oc e false
      pure (s.putF d e (s.cx.roundTo rm (f (rmPlain s.cx.frm rm) x y z)))

def execVfma (m : Mods) (d a b c : Reg) (rm : Rm) (s : State) : Host.Outcome State Fault Refusal :=
  floatOp3 (.vfma m d a b c rm) m d a b c rm fmaVal s
/-- C − A × B (R171). -/
def execVfnma (m : Mods) (d a b c : Reg) (rm : Rm) (s : State) : Host.Outcome State Fault Refusal :=
  floatOp3 (.vfnma m d a b c rm) m d a b c rm (fun r x y z => fmaVal r x.negate y z) s

def execVfsqrt (m : Mods) (d a : Reg) (rm : Rm) (s : State) : Host.Outcome State Fault Refusal :=
  let i : Instr := .vfsqrt m d a rm
  issue i s fun s => do
    trapIf (!s.cx.fmt.floatClass || s.cx.offsetClash d [(a, m.oa)]) .illOperand i.tval s
    vector m s fun s e => do
      let (x, _, s) ← s.fopnd i 0 a m.oa e true
      pure (s.putF d e (s.cx.roundTo rm (sqrtVal x)))

/-! ### Signs and comparisons (R172, R173) -/

def sgnOf (v : SgnOp) (a b : Bool) : Bool :=
  match v with
  | .cp => b
  | .neg => !b
  | .xor => a ^^ b

/-- The code of A's magnitude with a sign: bits in an IEEE format, the numeric value in an M format (R172). -/
def signedCode (f : Fmt) (v : SgnOp) (x y : Nat) : Nat :=
  let w := f.sew - 1
  let mag := x % 2 ^ w
  let neg := sgnOf v (x / 2 ^ w % 2 == 1) (y / 2 ^ w % 2 == 1)
  if mag = 0 ∧ (mKind f).isSome then 0 else if neg then mag + 2 ^ w else mag

def execVfsgn (m : Mods) (d a b : Reg) (v : SgnOp) (s : State) : Host.Outcome State Fault Refusal :=
  let i : Instr := .vfsgn m d a b v
  issue i s fun s => do
    trapIf (!s.cx.fmt.floatClass || s.cx.offsetClash d [(a, m.oa), (b, m.ob)]) .illOperand i.tval s
    vector m s fun s e => do
      let (_, x, s) ← s.fopnd i 0 a m.oa e false
      let (_, y, s) ← s.fopnd i 1 b m.ob e false
      pure (s.upd fun c => c.setEl d e (signedCode c.fmt v x y))

/-- A condition of vfcmp, and NV (R173). -/
def fccHolds (cc : FCc) (x y : Val) : Bool × Fl :=
  let o := cmpVal x y
  let quiet := sigFlag [x, y]
  let loud : Fl := if o.isNone then flNV else 0
  match cc with
  | .eq => (o == some .eq, quiet)
  | .ne => (o != some .eq, quiet)
  | .lt => (o == some .lt, loud)
  | .le => (o == some .lt || o == some .eq, loud)
  | .gt => (o == some .gt, loud)
  | .ge => (o == some .gt || o == some .eq, loud)
  | .un => (o.isNone, quiet)
  | .or => (o.isSome, quiet)

def execVfcmp (m : Mods) (d a b : Reg) (cc : FCc) (s : State) : Host.Outcome State Fault Refusal :=
  let i : Instr := .vfcmp m d a b cc
  issue i s fun s => do
    trapIf (!s.cx.fmt.floatClass) .illOperand i.tval s
    vector m s fun s e => do
      let (x, _, s) ← s.fopnd i 0 a m.oa e false
      let (y, _, s) ← s.fopnd i 1 b m.ob e false
      let (r, fl) := fccHolds cc x y
      pure (s.upd fun c => (c.writeP d (setBit (c.readP d) e r)).addFlags fl)

/-! ### Conversions (R175, R176) -/

/-- The random word of RSR for destination element `e` (R143). -/
def Ctx.srWord (c : Ctx) (e : Nat) : Nat := ((rndG c.srkey (c.srbase + BitVec.ofNat 64 e)) >>> 32).toNat

/-- Convert one source element into the current format (R175). -/
def State.convert (s : State) (k : Nat) (sf : Fmt) (v e : Nat) (rm : Rm) (scale : Option (BitVec 3)) : Run (Nat × Fl) := do
  let x ← s.numeric k sf v e scale
  let c := s.cx
  pure (convVal sf c.fmt scale.isSome (rmOf c.frm rm) (c.srWord e) x)

/-- Bricks of the source group of a vcvt (R175). -/
def Ctx.cvtGroup (c : Ctx) (sf : Fmt) : Nat := (c.cap - 1) * sf.sew / 16384 + 1

def execVcvt (m : Mods) (d a : Reg) (sf : Fmt) (rm : Rm) (s : State) : Host.Outcome State Fault Refusal :=
  let i : Instr := .vcvt m d a sf rm
  issue i s fun s => do
    let g := s.cx.cvtGroup sf
    let inside := decide (a.toNat ≤ d.toNat ∧ d.toNat < a.toNat + g)
    operandTrapIf i (decide (a.toNat + g > 64) || (inside && !(d == a && g == 1))) s
    vector m s fun s e => do
      let c := s.cx
      let v := elemAt (c.v.toList.getD (a.toNat + e * sf.sew / 16384) 0) sf.sew (e % vlmax sf.sew)
      let r ← s.convert 0 sf v e rm (c.scaleOf 0)
      pure (s.putF d e r)

/-- The source format of a vpack into a format (R176). -/
def packPartner : Fmt → Option Fmt
  | .i4 => some .i8 | .n4 => some .n8 | .i8 => some .i16 | .n8 => some .n16 | .i16 => some .i32 | .n16 => some .n32
  | .i32 => some .i64 | .n32 => some .n64 | .f16 => some .f32 | .bf16 => some .f32 | .f32 => some .f64
  | .m8 => some .bf16 | .m4 => some .m8 | .i64 => none | .n64 => none | .f64 => none

/-- The source format of a vunpack into a format; f16 has no partner in the table (R176; log 28). -/
def unpackPartner (bf : Bool) : Fmt → Option Fmt
  | .i8 => some .i4 | .n8 => some .n4 | .i16 => some .i8 | .n16 => some .n8 | .i32 => some .i16 | .n32 => some .n16
  | .i64 => some .i32 | .n64 => some .n32 | .f32 => some (if bf then .bf16 else .f16) | .f64 => some .f32
  | .bf16 => some .m8 | .m8 => some .m4 | .i4 => none | .n4 => none | .f16 => none | .m4 => none

/-- R176; for a 1 × 1 × 1 shape H is the quotient 0 (DESIGN CHOICE, log 95). -/
def execVpack (m : Mods) (d a b : Reg) (rm : Rm) (s : State) : Host.Outcome State Fault Refusal :=
  let i : Instr := .vpack m d a b rm
  issue i s fun s => do
    match packPartner s.cx.fmt with
    | none => .error (operandTrap i s)
    | some sf =>
      operandTrapIf i (d == a || d == b) s
      vector m s fun s e => do
        let c := s.cx
        let h := c.cap / 2
        let (k, r, j) := if e < h then (0, a, e) else (1, b, e - h)
        let q ← s.convert k sf (elemAt c.v[r.toNat] sf.sew j) e rm none
        pure (s.putF d e q)

/-- R176; for a 1 × 1 × 1 shape H is the quotient 0 (DESIGN CHOICE, log 95). -/
def execVunpack (m : Mods) (d a : Reg) (half bf : Bool) (rm : Rm) (s : State) : Host.Outcome State Fault Refusal :=
  let i : Instr := .vunpack m d a half bf rm
  issue i s fun s => do
    trapIf (bf && s.cx.fmt != .f32) .illEnc i.tval s
    match unpackPartner bf s.cx.fmt with
    | none => .error (operandTrap i s)
    | some sf =>
      operandTrapIf i (d == a) s
      vector m s fun s e => do
        let c := s.cx
        let j := e + (if half then c.cap / 2 else 0)
        let q ← s.convert 0 sf (elemAt c.v[a.toNat] sf.sew j) e rm none
        pure (s.putF d e q)

/-! ### Special functions and random numbers (R177, R178) -/

def special (i : Instr) (m : Mods) (d a : Reg) (fn : SpecFn) (s : State) : Host.Outcome State Fault Refusal :=
  issue i s fun s => do
    trapIf ((s.cx.fmt != .f32 && s.cx.fmt != .bf16) || s.cx.offsetClash d [(a, m.oa)]) .illOperand i.tval s
    vector m s fun s e => do
      let (v, s) ← s.opnd i 0 a m.oa e
      pure (s.putF d e (specElem fn s.cx.fmt v))

def execVexp2 (m : Mods) (d a : Reg) (s : State) : Host.Outcome State Fault Refusal := special (.vexp2 m d a) m d a .exp2 s
def execVlog2 (m : Mods) (d a : Reg) (s : State) : Host.Outcome State Fault Refusal := special (.vlog2 m d a) m d a .log2 s
def execVrcp (m : Mods) (d a : Reg) (s : State) : Host.Outcome State Fault Refusal := special (.vrcp m d a) m d a .rcp s
def execVrsqrt (m : Mods) (d a : Reg) (s : State) : Host.Outcome State Fault Refusal := special (.vrsqrt m d a) m d a .rsqrt s
def execVsinpi (m : Mods) (d a : Reg) (s : State) : Host.Outcome State Fault Refusal := special (.vsinpi m d a) m d a .sinpi s
def execVcospi (m : Mods) (d a : Reg) (s : State) : Host.Outcome State Fault Refusal := special (.vcospi m d a) m d a .cospi s
def execVtanh (m : Mods) (d a : Reg) (s : State) : Host.Outcome State Fault Refusal := special (.vtanh m d a) m d a .tanh s
def execVsigm (m : Mods) (d a : Reg) (s : State) : Host.Outcome State Fault Refusal := special (.vsigm m d a) m d a .sigm s

/-- The random word of element `e` (R178). -/
def Ctx.randWord (c : Ctx) (a b : Reg) (k : BitVec 32) (e : Nat) : Word :=
  rndG (c.readX a) (c.readX b + k.signExtend 64 + BitVec.ofNat 64 e)

def execVrand (m : Mods) (d a b : Reg) (k : BitVec 32) (s : State) : Host.Outcome State Fault Refusal :=
  issue (.vrand m d a b k) s fun s => vector m s fun s e =>
    .ok (s.upd fun c => c.setEl d e ((c.randWord a b k e).toNat % 2 ^ c.fmt.sew))

def execVrandU (m : Mods) (d a b : Reg) (k : BitVec 32) (s : State) : Host.Outcome State Fault Refusal :=
  let i : Instr := .vrandU m d a b k
  issue i s fun s => do
    trapIf (ieee s.cx.fmt).isNone .illOperand i.tval s
    vector m s fun s e =>
      .ok (s.putF d e (encodeVal s.cx.fmt .rne 0 (.of ⟨((s.cx.randWord a b k e) >>> 40).toNat, 2 ^ 24⟩)))

end Sys2Proof.Machine
end

