-- ==== Sys2Proof/Machine/VMem.lean ====
section
/-! DEFINITION. The vector memory instructions (R216 to R221). -/

namespace Sys2Proof.Machine

/-- Bits of an element size (R216). -/
def vsizeBits (sz : VSize) : Nat :=
  match sz with
  | .n => 4 | .b => 8 | .h => 16 | .w => 32 | .d => 64

/-- A size other than the current sew raises ILL_OPERAND at issue (R216). -/
def sizeCheck (i : Instr) (sz : VSize) (s : State) : Run Unit :=
  operandTrapIf i (vsizeBits sz != s.cx.fmt.sew) s

/-- The address of a contiguous element (R216). -/
def contiguous (ea : Word) (sew e : Nat) : Word := ea + BitVec.ofNat 64 (e * sew / 8)

/-- How a vector load reaches memory: the path, and what of it is single-copy atomic (R201, R300). -/
structure Way where
  path : Path := .l1
  joint : Joint := .sector

/-- Load element `e` from its address; at 4 bits it is nibble e mod 2 (R216). -/
def State.elemLoad (s : State) (w : Way) (sp : Space) (va : Word) (e : Nat) : Run (Nat × State) := do
  let sew := s.cx.fmt.sew
  if sew = 4 then
    let (v, s) ← s.loadAt w.path sp va 1 w.joint
    pure (v >>> (4 * (e % 2)) % 16, s)
  else
    trapIf (va.toNat % (sew / 8) != 0) .align va s
    s.loadAt w.path sp va (sew / 8) w.joint

/-- The bytes of an element under their masks. -/
def elemBytes (sew e v : Nat) : List (Byte × Byte) :=
  if sew = 4 then
    if e % 2 = 0 then [(0x0f, BitVec.ofNat 8 v)] else [(0xf0, BitVec.ofNat 8 (16 * v))]
  else whole (sew / 8) v

/-- Store element `e` of a brick to its address (R216). -/
def State.elemStore (s : State) (w : Parts) (sp : Space) (va : Word) (d : Reg) (e : Nat) (cover : Cover) : Run State := do
  let sew := s.cx.fmt.sew
  trapIf (sew != 4 && va.toNat % (sew / 8) != 0) .align va s
  s.storeAt w sp va (elemBytes sew e (s.cx.el d e)) cover (some va)

/-- A vector load: `addr` gives each element's address. -/
def vectorLoad (m : Mods) (d : Reg) (w : Way) (sp : Space) (addr : Nat → Word) (s : State) : Run Done :=
  vector m s fun s e => do
    let (v, s) ← s.elemLoad w sp (addr e) e
    pure (s.upd fun c => c.setEl d e v)

/-- How a contiguous instruction goes through its elements: chunk by chunk, so that where two element groups share an aligned 16-byte
chunk it stops between none (R300). -/
def overChunks (ea : Word) (f : State → Nat → Run State) (es : List Nat) (s : State) : Run State :=
  if ea.toNat % 16 = 0 then overElems f es s else overWhole f es s

/-- The words of the aligned 16-byte chunk of element `e` that the elements `es` read (R300). -/
def chunkMates (es : List Nat) (addr : Nat → Word) (e : Nat) : List Nat :=
  (((es.map addr).filter fun a => a.toNat / 16 == (addr e).toNat / 16).map fun a => a.toNat / 4 % 4).eraseDups

/-- The caches that loads go through hold words, or may take some. -/
def State.holdsWords (s : State) : Bool := s.caching || !s.co.l1.isEmpty || !s.dev.rind.isEmpty

/-- A contiguous vector load: its atomic units are the chunks (R300). -/
def chunkLoad (m : Mods) (d : Reg) (ea : Word) (read : State → Joint → Word → Nat → Run (Nat × State)) (s : State) : Run Done :=
  let c := s.cx
  let addr := contiguous ea c.fmt.sew
  let es := c.elems m
  (overChunks ea (fun s e => do
    let (v, s) ← read s (.chunk (if s.holdsWords then chunkMates es addr e else [])) (addr e) e
    pure (s.upd fun c => c.setEl d e v)) es s).map fun s' => .adv s'.vdone

/-- A completed vector store clears vstart; the next one has another number (R129). -/
def State.storeDone (s : State) : State := s.upd fun c => { c with vstart := 0, stores := c.stores + 1 }

/-- A vector store: its elements are issued in ascending order, and its writes reach memory as `w` has it (R218 to R220). -/
def vectorStore (m : Mods) (d : Reg) (w : Parts) (sp : Space) (addr : Nat → Word) (s : State) : Run Done :=
  (overElems (fun s e => s.elemStore { w with num := some s.cx.stores } sp (addr e) d e .no) (s.cx.elems m) s).map
    fun s' => .adv s'.storeDone

/-! ### vld, vldro, vst, vstu (R217, R218) -/

/-- The address has an index in the buffer of a watermark (R287). -/
def Wm.indexed (w : Wm) (va : Word) : Bool :=
  decide (w.base.toNat ≤ va.toNat ∧ (va.toNat - w.base.toNat) / w.esize < w.bound.toNat)

/-- Element `e` of a vld.wm(k): the wait for its index, after which its load acquires at device scope (R287). `past`: another element
of its chunk does so, and the chunk, which is read as one, goes the same way (R300). -/
def State.wmLoad (s : State) (k : Nat) (sp : Space) (j : Joint) (past : Bool) (va : Word) (e : Nat) : Run (Nat × State) := do
  let w := s.wm k
  waitIf (w.waits va) s
  if w.indexed va then (s.acquire .dev).elemLoad { path := .cave, joint := j } sp va e
  else s.elemLoad { path := if past then .cave else .l1, joint := j } sp va e

def execVld (m : Mods) (d a : Reg) (sz : VSize) (sp : Space) (wm : Option Reg) (disp : BitVec 32) (s : State) :
    Host.Outcome State Fault Refusal :=
  let i : Instr := .vld m d a sz sp wm disp
  issue i s fun s => do
    sizeCheck i sz s
    let ea := s.cx.ea m a disp 128
    match wm with
    | none => chunkLoad m d ea (fun s j va e => s.elemLoad { joint := j } sp va e) s
    | some k =>
      trapIf (!s.wmAllowed k.toNat false) .queueUnbound (k.setWidth 64) s
      let addr := contiguous ea s.cx.fmt.sew
      let es := s.cx.elems m
      chunkLoad m d ea (fun s j va e => s.wmLoad k.toNat sp j (s.holdsWords && es.any fun x =>
        (addr x).toNat / 16 == va.toNat / 16 && (s.wm k.toNat).indexed (addr x)) va e) s

def execVldro (m : Mods) (d a : Reg) (sz : VSize) (disp : BitVec 32) (s : State) : Host.Outcome State Fault Refusal :=
  let i : Instr := .vldro m d a sz disp
  issue i s fun s => do
    sizeCheck i sz s
    chunkLoad m d (s.cx.ea m a disp 128) (fun s j va e => s.elemLoad { path := .rind, joint := j } .g va e) s

/-- What the elements of the instruction do to the 128-byte line of element `e`, which they write from START on (R364). -/
def lineCover (es : List Nat) (addr : Nat → Word) (sew e : Nat) : Cover :=
  let on := es.filter fun j => (addr j).toNat / 128 == (addr e).toNat / 128
  if on.length != 1024 / sew then .no else if on.getLast? == some e then .ends else .begun

/-- The chunks of a contiguous store are its atomic units; vst performs them in ascending order (R218, R300). With poisoned lines about,
it stops within no line. -/
def storeContiguous (i : Instr) (ordered : Bool) (m : Mods) (d a : Reg) (sz : VSize) (sp : Space) (disp : BitVec 32) (s : State) :
    Host.Outcome State Fault Refusal :=
  issue i s fun s => do
    sizeCheck i sz s
    let c := s.cx
    let ea := c.ea m a disp 128
    let addr := contiguous ea c.fmt.sew
    let es := c.elems m
    let go := if s.poison.isEmpty || ea.toNat % 128 = 0 then overChunks ea else overWhole
    (go (fun t e => t.elemStore { num := some t.cx.stores, ordered := ordered, chunk := true } sp (addr e) d e
      (if s.poison.isEmpty then .no else lineCover es addr c.fmt.sew e)) es s).map fun s' => .adv s'.storeDone

def execVst (m : Mods) (d a : Reg) (sz : VSize) (sp : Space) (disp : BitVec 32) (s : State) : Host.Outcome State Fault Refusal :=
  storeContiguous (.vst m d a sz sp disp) true m d a sz sp disp s
/-- Chunks in any order: those that wait let the others pass (R218). -/
def execVstu (m : Mods) (d a : Reg) (sz : VSize) (sp : Space) (disp : BitVec 32) (s : State) : Host.Outcome State Fault Refusal :=
  storeContiguous (.vstu m d a sz sp disp) false m d a sz sp disp s

/-! ### vlds, vsts (R219) -/

/-- The address of element (x, y, z): strides count bytes. -/
def Ctx.strided (c : Ctx) (ea t : Word) (e : Nat) : Word :=
  let (x, y, z) := c.coord e
  ea + BitVec.ofInt 64 (x * strideOf t 0 + y * strideOf t 1 + z * strideOf t 2)

def execVlds (m : Mods) (d a b : Reg) (sz : VSize) (sp : Space) (disp : BitVec 32) (s : State) :
    Host.Outcome State Fault Refusal :=
  let i : Instr := .vlds m d a b sz sp disp
  issue i s fun s => do
    sizeCheck i sz s
    let t := s.cx.readX b
    trapIf (bitOf t 63) .illOperand t s
    vectorLoad m d {} sp (s.cx.strided (s.cx.ea m a disp 128) t) s

def execVsts (m : Mods) (d a b : Reg) (sz : VSize) (sp : Space) (disp : BitVec 32) (s : State) :
    Host.Outcome State Fault Refusal :=
  let i : Instr := .vsts m d a b sz sp disp
  issue i s fun s => do
    sizeCheck i sz s
    let t := s.cx.readX b
    trapIf (bitOf t 63) .illOperand t s
    vectorStore m d { ordered := true } sp (s.cx.strided (s.cx.ea m a disp 128) t) s

/-! ### vldx, vstx (R220) -/

/-- Width of an index. -/
def idxWidth (w64 : Bool) : Nat := if w64 then 64 else 32

/-- Bricks of the index group: those of bx * by * bz indices (R220; DESIGN CHOICE, log 96). -/
def Ctx.idxGroup (c : Ctx) (w64 : Bool) : Nat := (c.cap - 1) * idxWidth w64 / 16384 + 1

/-- The address of an indexed element. -/
def Ctx.indexed (c : Ctx) (a b : Reg) (w64 : Bool) (sh : BitVec 3) (e : Nat) : Word :=
  let iw := idxWidth w64
  let v := elemAt (c.v.toList.getD (b.toNat + e * iw / 16384) 0) iw (e % vlmax iw)
  c.readX a + (sextN iw v <<< sh.toNat)

/-- The index group reaches beyond v63. -/
def Ctx.groupBeyond (c : Ctx) (b : Reg) (w64 : Bool) : Bool := decide (b.toNat + c.idxGroup w64 > 64)

def execVldx (m : Mods) (d a b : Reg) (sz : VSize) (sp : Space) (w64 : Bool) (sh : BitVec 3) (s : State) :
    Host.Outcome State Fault Refusal :=
  let i : Instr := .vldx m d a b sz sp w64 sh
  issue i s fun s => do
    sizeCheck i sz s
    let c := s.cx
    operandTrapIf i (c.groupBeyond b w64 || decide (b.toNat ≤ d.toNat ∧ d.toNat < b.toNat + c.idxGroup w64)) s
    vectorLoad m d {} sp (c.indexed a b w64 sh) s

def execVstx (m : Mods) (d a b : Reg) (sz : VSize) (sp : Space) (w64 : Bool) (sh : BitVec 3) (s : State) :
    Host.Outcome State Fault Refusal :=
  let i : Instr := .vstx m d a b sz sp w64 sh
  issue i s fun s => do
    sizeCheck i sz s
    let c := s.cx
    operandTrapIf i (c.groupBeyond b w64) s
    vectorStore m d {} sp (c.indexed a b w64 sh) s

/-! ### vscadd (R221) -/

/-- The formats that vscadd accepts. -/
def scaddOk (f : Fmt) : Bool :=
  match f with
  | .i32 | .n32 | .i64 | .n64 | .f16 | .bf16 | .f32 | .f64 => true
  | _ => false

/-- The place of an update of `n` bytes as a waiting access holds it. -/
def Place.updatePairs (p : Place) (n : Nat) : List (Nat × Nat) :=
  match p with
  | .g ls => ls.map fun l => (l.pa, l.pos)
  | .s off => (List.range n).map fun k => (off + k, off + k)
  | .c off => (List.range n).map fun k => (off + k, off + k)

/-- Check the update of one element at its address: the place, or why it stops. -/
def State.scaddPlace (s : State) (sp : Space) (va : Word) (n : Nat) : Run (Place × State) := do
  trapIf (va.toNat % n != 0) .align va s
  match s.resolve s.cx sp .atomic va n with
  | .error (c, _) => .error (.trap c va s)
  | .ok (s', p) =>
    trapIf (p.target == .regs || p.target == .hostUc || p.target == .peer) .atomicUnsupported va s
    trapIf (s.poisoned p) .dataLost va s
    walkFree s sp .atomic va n
    match s.rowMeets (some s.cx) p with
    | .self v => .error (.trap .rowSelf v s)
    | _ =>
      waitIf (s.blocked s.cx p n) s
      pure (p, s')

/-- Add an element to the sum of its address, or begin one. -/
def addSum (f : Fmt) (rm : Rm) (va : Word) (p : Place) (v : Nat) : List (Word × Place × Nat) → List (Word × Place × Nat)
  | [] => [(va, p, v)]
  | (w, q, t) :: l => if w = va then (w, q, scaddSum f rm t v) :: l else (w, q, t) :: addSum f rm va p v l

/-- The sums over the active elements in order, and the stop that ends them, with its element. -/
def scaddSums (sp : Space) (d : Reg) (f : Fmt) (rm : Rm) (addr : Nat → Word) :
    List Nat → State → List (Word × Place × Nat) → State × List (Word × Place × Nat) × Option (Nat × Stop)
  | [], s, l => (s, l, none)
  | e :: es, s, l =>
    match s.scaddPlace sp (addr e) (f.sew / 8) with
    | .error x => (s, l, some (e, x))
    | .ok (p, s') => scaddSums sp d f rm addr es s' (addSum f rm (addr e) p (s.cx.el d e) l)

/-- Send one update for each address. -/
def State.sendUpdates (s : State) (sp : Space) (f : Fmt) (rm : Rm) (l : List (Word × Place × Nat)) : State :=
  { s with pend := s.pend ++ l.map fun q =>
      .update s.cx.id sp (q.2.1.updatePairs (f.sew / 8)) f rm (BitVec.ofNat 64 q.2.2) }

/-- A stall sends nothing and starts again; a trap sends the sums of the elements below it first. -/
def execVscadd (m : Mods) (d a b : Reg) (rm : Rm) (sp : Space) (w64 : Bool) (sh : BitVec 3) (s : State) :
    Host.Outcome State Fault Refusal :=
  let i : Instr := .vscadd m d a b rm sp w64 sh
  issue i s fun s => do
    let c := s.cx
    trapIf (!scaddOk c.fmt) .illOperand i.tval s
    trapIf (c.fmt.intClass && rm != .rne) .illEnc i.tval s
    operandTrapIf i (c.groupBeyond b w64) s
    let mode := rmPlain c.frm rm
    let (s1, l, stop) := scaddSums sp d c.fmt mode (c.indexed a b w64 sh) (c.elems m) s []
    match stop with
    | none => pure (.adv (s1.sendUpdates sp c.fmt mode l).vdone)
    | some (_, .wait _) => .error (.wait s)
    | some (e, .trap t v _) => .error ((Stop.trap t v (s1.sendUpdates sp c.fmt mode l)).at s1.cx.vstart e)

end Sys2Proof.Machine
end

