-- ==== Sys2Proof/Machine/Perform.lean ====
section
/-! DEFINITION. Accesses performed after their issue, and those of other agents: stores, updates, additions, suspended loads,
host and peer requests, walkers (R202, R213, R221, R234, R261, R294, R305, R309 to R311, R383). -/

namespace Sys2Proof.Machine

/-! ### Waiting accesses -/

/-- An earlier entry has to be performed before entry `n` (R218, R219, R296). -/
def State.earlier (s : State) (n : Nat) (e : Pend) : Bool := (s.pend.take n).any fun f => f.leads e

/-- The row controller lets every byte of a write be performed (R234); one that has waited goes past the cave. -/
def State.rowsLet (s : State) (owner : Option Nat) (past : Bool) (locs : List (Nat × Nat)) : Bool :=
  locs.all fun l =>
    match s.rowMeet (owner.bind fun id => s.ctx? id) ⟨l.1, l.2, past⟩ with
    | .free => true
    | _ => false

/-- Entry `n` leaves the list. -/
def State.dropPend (s : State) (n : Nat) : State := { s with pend := s.pend.eraseIdx n }

/-- Perform entry `n`, a write, when nothing has to come first and its layer lets it. -/
def State.performEntry (s : State) (n : Nat) (e : Pend) : Option State :=
  if s.earlier n e || (e.space == .g && !s.rowsLet e.owner true e.locs) then none
  else some ((s.dropPend n).performWrite e).cleanDone

def execStorePerform (n : Nat) (s : State) : Host.Outcome State Fault Refusal :=
  event s (match s.pend[n]? with
    | some (.store id va locs bs num ordered) => s.performEntry n (.store id va locs bs num ordered)
    | _ => none)

/-- One per-address sum is added at its ordering point (R221). -/
def execVscaddUpdate (n : Nat) (s : State) : Host.Outcome State Fault Refusal :=
  event s (match s.pend[n]? with
    | some (.update id sp locs fmt rm v) => s.performEntry n (.update id sp locs fmt rm v)
    | _ => none)

/-- One flushed element is added (R261). -/
def execMflushAddition (n : Nat) (s : State) : Host.Outcome State Fault Refusal :=
  event s (match s.pend[n]? with
    | some (.flush id sp locs kind count v) => s.performEntry n (.flush id sp locs kind count v)
    | _ => none)

/-- The suspended task of a leaf that waits for a load from `pa`, in the buffer of a tower. -/
def State.loadWaiter (s : State) (t : BitVec 3) (leaf : Nat × Nat) (pa : Nat) : Option (Nat × Word × Word) :=
  ((s.tower t).susp.mapIdx fun k e => (k, e)).findSome? fun q =>
    match q.2.wait with
    | .load a pc va => if q.2.leaf == leaf && a == pa then some (q.1, pc, va) else none
    | _ => none

/-- Change entry `k` of a suspension buffer. -/
def State.setSusp (s : State) (t : BitVec 3) (k : Nat) (f : Susp → Susp) : State :=
  s.setTower t { s.tower t with susp := (s.tower t).susp.modify k f }

/-- The load of a suspend.ld, entry `n`, fails: its task takes the trap at its resume. -/
def State.failLoad (s : State) (n : Nat) (t : BitVec 3) (leaf : Nat × Nat) (locs : List (Nat × Nat)) (cause : Cause) : State :=
  match s.loadWaiter t leaf (locs.headD (0, 0)).1 with
  | some (k, pc, va) => (s.dropPend n).setSusp t k fun e => { e with wait := .ready, deliver := .fault cause pc va }
  | none => s.dropPend n

/-- The load of a suspend.ld: its 64 bytes go into RESULT of the record, which is then ready; it waits for a held layer (R234,
R335), and gives DATA_LOST on a line that has been poisoned since it was issued (R364). -/
def execLoadPerform (n : Nat) (s : State) : Host.Outcome State Fault Refusal :=
  event s (match s.pend[n]? with
    | some (.load t leaf locs uc) =>
      if locs.any fun l => s.loadWaits none ⟨l.1, l.2, uc⟩ then none
      else if locs.any fun l => s.poison.contains (lineOf l.2) then some (s.failLoad n t leaf locs .dataLost)
      else
        let v := ofBytes (locs.map fun l => s.caveByte t ⟨l.1, l.2, uc⟩)
        match s.loadWaiter t leaf (locs.headD (0, 0)).1 with
        | some (k, _, _) =>
          some ((s.dropPend n).setSusp t k fun e =>
            { e with image := (e.image &&& BitVec.ofNat 2048 (2 ^ 1536 - 1)) ||| BitVec.ofNat 2048 (v * 2 ^ 1536), wait := .ready })
        | none => some (s.dropPend n)
    | _ => none)

/-! ### Other agents (R305, R309 to R311) -/

/-- `n` bytes at a physical address: their places, when they exist and no register is among them. -/
def State.physical (s : State) (pa n : Nat) : Option (List Loc) :=
  match (List.range n).mapM fun k => s.locate false (pa + k) with
  | some ls => if (Place.g ls).inReg then none else some ls
  | none => none

/-- Another agent's read: the value, and whether a line is poisoned; it waits for a held layer (R234). -/
def State.agentRead (s : State) (pa n : Nat) : Option (Nat × Bool) :=
  match s.physical pa n with
  | some ls =>
    if s.layerWaits none (.g ls) then none else some (ofBytes (ls.map fun l => s.mem.byte l.pos), s.poisoned (.g ls))
  | none => none

/-- Another agent's write; it waits while a held layer stands in its way (R234). -/
def State.agentWrite (s : State) (pa n v : Nat) : Option State :=
  match s.physical pa n with
  | some ls =>
    if s.rowsLet none false (Place.g ls).pairs then some (s.writePlace 0 (.g ls) (whole n v)) else none
  | none => none

/-- Another agent's atomic: the old value and the tag (R305). -/
def State.agentAtomic (s : State) (pa n : Nat) (f : Nat → Nat) : Option (Nat × Word × State) :=
  if pa % n != 0 then none else
  match s.physical pa n with
  | some ls =>
    let p := Place.g ls
    if s.poisoned p || !s.rowsLet none false p.pairs then none
    else
      let old := ofBytes (ls.map fun l => s.mem.byte l.pos)
      let s1 := s.writePlace 0 p (whole n (f old))
      let (t, s2) := s1.tagOf s1.cx p
      some (old, t, s2)
  | none => none

def execAtomicPerform (pa : BitVec 64) (op : AtomOp) (dbl : Bool) (v : BitVec 64) (s : State) :
    Host.Outcome State Fault Refusal :=
  let n := if dbl then 8 else 4
  event s ((s.agentAtomic pa.toNat n fun old => atomNew op (8 * n) old (v.toNat % 2 ^ (8 * n))).map fun r => r.2.2)

/-- What the host reaches of the device: its memory, and the folios through their apertures (R229, R309, R403). -/
def hostReaches (pa : BitVec 64) : Bool := isDram pa.toNat || isAperture pa.toNat

/-- A host CXL.mem read of device memory: data with the poison indication (R309, R364). -/
def execCxlMemRead (pa : BitVec 64) (sz : MSize) (s : State) : Host.Outcome State Fault Refusal :=
  event s (if hostReaches pa then
    (s.agentRead pa.toNat (sizeOf sz)).map fun r => s.send (.data (BitVec.ofNat 128 r.1) r.2) else none)

def execCxlMemWrite (pa : BitVec 64) (sz : MSize) (v : BitVec 128) (s : State) : Host.Outcome State Fault Refusal :=
  event s (if hostReaches pa then s.agentWrite pa.toNat (sizeOf sz) v.toNat else none)

/-- A snoop of host memory is answered with the line's data; memory here has no other copy (R382; log 1). -/
def execHostSnoop (pa : BitVec 64) (s : State) : Host.Outcome State Fault Refusal :=
  event s (if isHost pa.toNat then
    (s.agentRead (pa.toNat / 16 * 16) 16).map fun r => s.send (.data (BitVec.ofNat 128 r.1) r.2) else none)

/-- A peer's request to this device's memory (R311, R383). -/
def execRelebRequest (r : PeerReq) (s : State) : Host.Outcome State Fault Refusal :=
  event s (match r with
    | .read pa sz =>
      if isDram pa.toNat then
        (s.agentRead pa.toNat (sizeOf sz)).map fun r => s.send (.data (BitVec.ofNat 128 r.1) r.2) else none
    | .write pa sz v => if isDram pa.toNat then s.agentWrite pa.toNat (sizeOf sz) v.toNat else none
    | .atomic pa op dbl v =>
      let n := if dbl then 8 else 4
      if isDram pa.toNat then
        (s.agentAtomic pa.toNat n fun old => atomNew op (8 * n) old (v.toNat % 2 ^ (8 * n))).map fun q =>
          (q.2.2.send (.data (BitVec.ofNat 128 q.1) false)).send (.tag q.2.1)
      else none)

/-- What of a context a missing completion may strike: the access of its next instruction, the command that one of its channels
runs next, or one of its nodes that run (R383). -/
inductive Strike where
  | instr
  | command (gt : Bool)
  | node (k : Fin 64)
  /-- in no context: the load of a suspend.ld, entry `n` of the waiting accesses -/
  | load (n : Nat) (t : BitVec 3) (leaf : Nat × Nat) (locs : List (Nat × Nat))
  /-- in no context: a running node of an engine graph leaf, on a core -/
  | leafNode (core : BitVec 12) (k : Fin 64)

def Stall.isElem : Stall → Bool
  | .elem _ => true
  | _ => false

def State.strikesOf (s : State) (c : Ctx) : List Strike :=
  let g := (s.core c.coreid).graph
  (if c.phase == .running && (c.stall == .none || c.stall == .again || c.stall.isElem) then [.instr] else []) ++
  (if c.cp.fifo.isEmpty then [] else [.command false]) ++ (if c.gt.fifo.isEmpty then [] else [.command true]) ++
  (((List.finRange 64).filter fun k => g[k].st == .running && g[k].owner == some (.ctx c.id)).map .node)

/-- A peer access of a running node gets no completion. -/
def State.loseNode (s : State) (core : BitVec 12) (k : Fin 64) : State :=
  let co := s.core core
  s.setCore core { co with graph := co.graph.set k { co.graph[k] with lost := true } }

/-- One of them is struck; of a vector instruction the peer access after some others, as many as a free value says. -/
def State.strike (s : State) (c : Ctx) : Strike → State
  | .instr => State.mapCtx { s with free := s.free + 1 } c.id fun c => { c with stall := .peerLost (Config.lostFrom s.free % 4096) }
  | .command gt => s.mapCtx c.id fun c =>
      if gt then { c with gt := { c.gt with lost := true } } else { c with cp := { c.cp with lost := true } }
  | .node k => s.loseNode c.coreid k
  | _ => s

/-- The running nodes of engine graph leaves (R39). -/
def State.leafNodes (s : State) : List Strike :=
  (s.cx.coreid :: s.cores.map fun c => BitVec.ofNat 12 c.1).eraseDups.flatMap fun core =>
    (List.finRange 64).filterMap fun k =>
      let e := (s.core core).graph[k]
      match e.st, e.owner with
      | .running, some (.leaf _ _) => some (.leafNode core k)
      | _, _ => none

/-- What runs in no context is struck. -/
def State.strikeLone (s : State) : Strike → State
  | .load n t leaf locs => s.failLoad n t leaf locs .dataAccess
  | .leafNode core k => s.loseNode core k
  | _ => s

/-- A peer access gets no completion (R383): a waiting store is lost, performed or not (log 31); else an access of the context or of
its engines, which one is a free value, fails when it is made (log 77). A number that no context has names a load of a suspend.ld from
a peer, whose task takes DATA_ACCESS at its resume, or a running node of an engine graph leaf, which one is a free value too. -/
def execRelebTimeout (id : Nat) (s : State) : Host.Outcome State Fault Refusal :=
  let toPeer (e : Pend) : Bool := match e with
    | .store j _ locs _ _ _ => j == some id && locs.any fun l => isPeer l.1
    | _ => false
  event s (match s.ctx? id with
    | some c =>
      match s.pend.findIdx? toPeer with
      | some n =>
        match s.pend[n]? with
        | some (.store j va locs bs num o) =>
          let s' := if Config.peerDone s.free then (s.dropPend n).performWrite (.store j va locs bs num o) else s.dropPend n
          some (State.mapCtx { s'.cleanDone with free := s.free + 1 } id fun c => { c with lostStore := some va })
        | _ => none
      | none =>
        let l := s.strikesOf c
        (l[Config.lostFrom s.free % l.length]?).map fun k => State.strike { s with free := s.free + 1 } c k
    | none =>
      let loads := (s.pend.mapIdx fun k e => (k, e)).filterMap fun q => match q.2 with
        | .load t leaf locs _ => if locs.any fun l => isPeer l.1 then some (Strike.load q.1 t leaf locs) else none
        | _ => none
      let l := loads ++ s.leafNodes
      (l[Config.lostFrom s.free % l.length]?).map fun k => State.strikeLone { s with free := s.free + 1 } k)

/-- The host completes an AtomicOp, or reports it unsupported (R310). -/
def execAtomicopCompletion (id : Nat) (ok : Bool) (s : State) : Host.Outcome State Fault Refusal :=
  event s (match s.ctx? id with
    | some c =>
      match c.stall, c.hostReq with
      | .host, some q =>
        let old := s.mem.readN q.pa q.size
        let new := match q.op with
          | .fetchAdd v => (old + v.toNat) % 2 ^ (8 * q.size)
          | .swap v => v.toNat
          | .cas e n => if old = e.toNat then n.toNat else old
        let spots := (List.range q.size).map (q.pa + ·)
        let s' := if ok then ({ s with mem := s.mem.writeN q.pa q.size new }).touchBy (some id) .atomic spots else s
        some (s'.mapCtx id fun c => { c with stall := .hostDone ok (BitVec.ofNat 128 old), hostReq := none })
      | _, _ => none
    | none => none)

/-- The walkers of range instruction `n` finish; they began after the context's earlier stores were performed (R212, R213). -/
def execRangeWalkDone (n : Nat) (s : State) : Host.Outcome State Fault Refusal :=
  event s (match s.dev.walks.find? fun w => w.num == n with
    | some w =>
      if s.writesOut w.id then none
      else some (State.walkEffect { s with dev := { s.dev with walks := s.dev.walks.filter fun w => w.num != n } } w)
    | none => none)

end Sys2Proof.Machine
end

