-- ==== Sys2Proof/Machine/Rows.lean ====
section
/-! DEFINITION. Folios, handles and held rows: the row and stream instructions, and the row controller's events (R225 to R246). -/

namespace Sys2Proof.Machine

/-- The index of a handle; decode leaves 0 to 15 (R77). -/
def hIdx (r : Reg) : Fin 16 := Fin.ofNat 16 r.toNat
def Ctx.handle (c : Ctx) (r : Reg) : Handle := c.h[hIdx r]
def Ctx.setHandle (c : Ctx) (r : Reg) (h : Handle) : Ctx := { c with h := c.h.set (hIdx r) h }

/-- The group in its states OPENING and HELD, or claimed. -/
def Handle.holds (h : Handle) : Bool := h.group.claim.isSome

/-- The layer of a logical group. -/
def layerOf (e : BitVec 512) (g : Nat) : Nat := ((groupRow e g).map Prod.fst).getD 0

def State.layer (s : State) (core : BitVec 12) (y : Nat) : LayerSt := (s.core core).layers[Fin.ofNat 8 y]
def State.setLayer (s : State) (core : BitVec 12) (y : Nat) (st : LayerSt) : State :=
  s.setCore core { s.core core with layers := (s.core core).layers.set (Fin.ofNat 8 y) st }

/-! ### fbind, frel, fseek (R239 to R241) -/

/-- An extent word whose reserved bits are zero and whose rows lie in a bank (R227, R239). -/
def extOk (x : BitVec 32) : Bool :=
  x.extractLsb' 26 3 == 0 && x.extractLsb' 11 5 == 0 && decide (1 ≤ extRows x ∧ extRows x ≤ 1024 ∧ extRow0 x + extRows x ≤ 1024)

/-- An entry that fbind accepts for a token and an address space (R239). -/
def entryOk (e : BitVec 512) (tok : Word) (asid : Nat) : Bool :=
  entValid e && entCheck e == fld tok 48 16 && entAsid e == asid &&
  decide (1 ≤ entNext e ∧ entNext e ≤ 8) &&
  e.extractLsb' 41 7 == 0 && e.extractLsb' 50 6 == 0 && e.extractLsb' 64 64 == 0 && e.extractLsb' 416 96 == 0 &&
  (List.range 8).all (fun k => if k < entNext e then extOk (entExt e k) else entExt e k == 0) &&
  (entSpare e == 0 || extOk (entSpare e))

/-- Close a handle's group as rowclose does: the close starts when the earlier consumers have finished (R243). -/
def State.closeGroup (s : State) (r : Reg) : State :=
  let h := s.cx.handle r
  let s := match h.group with
    | .opening g | .held g => s.setLayer s.cx.coreid (layerOf h.entry g) .pending
    | _ => s
  s.upd fun c => c.setHandle r { h with group := .none, issuing := none }

/-- The entry of a folio table as an ordinary physical load of the context in focus reads it (R239). -/
def State.loadEntry (s : State) (pa : Nat) : Run (BitVec 512 × State) :=
  match s.physical pa 64 with
  | none => .error (.trap .dataAccess (BitVec.ofNat 64 pa) s)
  | some ls => do
    let p := Place.g ls
    trapIf (s.poisoned p) .dataLost (BitVec.ofNat 64 pa) s
    trapIf (s.peerFails p) .dataAccess (BitVec.ofNat 64 pa) s
    waitIf (s.blocked s.cx p 64 || s.layerWaits (some s.cx.coreid) p) s
    let (v, s) := s.loadPlace s.cx .l1 .sector p 64
    pure (BitVec.ofNat 512 v, s)

def execFbind (m : Mods) (d a : Reg) (s : State) : Host.Outcome State Fault Refusal :=
  issue (.fbind m d a) s fun s => do
    let tok := s.cx.readX a
    let t := towerOf s.cx.coreid
    let i := fld tok 0 12
    trapIf (fld tok 12 3 != t.toNat || fld tok 15 33 != 0 || s.tw.foliotab == 0) .folioRange tok s
    let (e, s) ← s.loadEntry (s.tw.foliotab.toNat + 64 * i)
    trapIf (!entryOk e tok (fld s.cx.ptbase 48 16)) .folioRange tok s
    let h := s.cx.handle d
    match h.group.claim with
    | some (g, _) =>
      .error (.trap .rowBusy (rowTval g (layerOf h.entry g) false (hIdx d).val (hIdx d).val) s)
    | none => pure (.adv (s.upd fun c => c.setHandle d ⟨true, t, BitVec.ofNat 12 i, e, 0, .none, none⟩))

def execFrel (m : Mods) (d : Reg) (s : State) : Host.Outcome State Fault Refusal :=
  issue (.frel m d) s fun s => .ok (.adv (
    if (s.cx.handle d).bound then (s.closeGroup d).upd fun c => c.setHandle d {} else s))

def execFseek (m : Mods) (d a : Reg) (s : State) : Host.Outcome State Fault Refusal :=
  issue (.fseek m d a) s fun s => do
    let v := s.cx.readX a
    let h := s.cx.handle d
    trapIf (v.toNat % 2048 != 0) .align v s
    trapIf (!h.bound) .folioRange (BitVec.allOnes 64) s
    trapIf (decide (v.toNat > entGroups h.entry * 16384)) .folioRange v s
    pure (.adv (s.upd fun c => c.setHandle d { h with pos := v.toNat }))

/-! ### rowact, rowclose, rowstat (R242 to R244) -/

/-- The trap of a rowact, and of the activation of a suspend.row (R242). -/
def State.rowactTrap (s : State) (d : Reg) (g : Word) : Option (Cause × Word) :=
  let c := s.cx
  let h := c.handle d
  let k := (hIdx d).val
  if !h.bound then some (.folioRange, BitVec.allOnes 64)
  else if entCore h.entry != columnOf c.coreid || decide (g.toNat ≥ entGroups h.entry) then
    some (.folioRange, BitVec.ofNat 64 (g.toNat * 2 ^ 32) ||| BitVec.ofNat 64 k)
  else
    match h.group.claim with
    | some (held, _) => some (.rowBusy, rowTval g.toNat (layerOf h.entry held) false k k)
    | none =>
      let ly := layerOf h.entry g.toNat
      match (s.claims c.coreid).find? fun x => x.layer == ly with
      | some x => some (.rowBusy, rowTval g.toNat ly (x.id != c.id) x.h k)
      | none => none

/-- Claim the layer, and start the activation when nothing stands in its way. -/
def State.claimGroup (s : State) (d : Reg) (g : Nat) : State :=
  let h := s.cx.handle d
  let s := s.upd fun c => c.setHandle d { h with group := .claimed g }
  if s.layer s.cx.coreid (layerOf h.entry g) == .idle then s.activate s.cx.id (hIdx d) g else s

/-- The claim of a handle waits for its activation. -/
def Handle.claimed (h : Handle) : Bool := match h.group with | .claimed _ => true | _ => false

/-- A rowact that has claimed its layer: it stalls until the activation has started, then retires. A trap or a switch during the
stall leaves the claim, and the rowact that comes back makes no check again (R231, R242). -/
def State.rowactGoes (s : State) (d : Reg) : Run Done :=
  let h := s.cx.handle d
  if h.claimed then
    .error (.wait (s.upd fun c => { c.setHandle d { h with issuing := some (c.pc, 0) } with stall := .rowact }))
  else .ok (.adv (s.upd fun c => c.setHandle d { h with issuing := none }))

def execRowact (m : Mods) (d a : Reg) (s : State) : Host.Outcome State Fault Refusal :=
  issue (.rowact m d a) s fun s =>
    if (s.cx.handle d).issuing == some (s.cx.pc, 0) then s.rowactGoes d
    else match s.rowactTrap d (s.cx.readX a) with
      | some (e, v) => .error (.trap e v s)
      | none => (s.claimGroup d (s.cx.readX a).toNat).rowactGoes d

def execRowclose (m : Mods) (d : Reg) (s : State) : Host.Outcome State Fault Refusal :=
  issue (.rowclose m d) s fun s => .ok (.adv (s.closeGroup d))

/-- The state of the four banks of layer `y` (R244). -/
def State.bankCode (s : State) (y : Nat) : Nat :=
  match (s.claims s.cx.coreid).find? fun x => x.layer == y with
  | some x => if x.id = s.cx.id then 1 else 2
  | none => if s.layer s.cx.coreid y == .idle then 0 else 3

def execRowstat (m : Mods) (d : Reg) (s : State) : Host.Outcome State Fault Refusal :=
  issue (.rowstat m d) s fun s =>
    let v := ((List.range 32).map fun k => s.bankCode (k / 4) * 4 ^ k).sum
    .ok (.adv (s.upd fun c => c.writeX d (BitVec.ofNat 64 v)))

/-- The state of a handle (R244). -/
def Handle.stat (h : Handle) : Word :=
  if !h.bound then 0 else
  let (g, st) := match h.group with
    | .none => (0, 1)
    | .claimed g | .opening g => (g, 2)
    | .held g => (g, 3)
    | .lost g => (g, 4)
  BitVec.ofNat 64 (h.pos / 2048 * 2 ^ 47 + entGroups h.entry * 2 ^ 33 + g * 2 ^ 20 + (if entWrite h.entry then 8 else 0) + st)

def execRowstatH (m : Mods) (d a : Reg) (s : State) : Host.Outcome State Fault Refusal :=
  issue (.rowstatH m d a) s fun s => .ok (.adv (s.upd fun c => c.writeX d (c.handle a).stat))

/-! ### sld, sst (R245) -/

/-- The brick's bytes of a folio: aperture addresses, and the DRAM behind them (R229). -/
def Handle.stream (h : Handle) : List Loc :=
  let base := 2 ^ 51 + h.tower.toNat * 2 ^ 40 + h.index.toNat * 2 ^ 27 + h.pos
  match folioAddr h.tower.toNat h.entry h.pos with
  | none => []
  | some d => (List.range 2048).map fun k => ⟨base + k, d + k, false⟩

/-- The checks of a stream that both instructions make; then its row, and what claims its layer. -/
def State.streamStart (s : State) (a : Reg) : Run (Handle × Option Claim) := do
  let c := s.cx
  let h := c.handle a
  let p := BitVec.ofNat 64 h.pos
  trapIf (!h.bound) .folioRange (BitVec.allOnes 64) s
  trapIf (entCore h.entry != columnOf c.coreid || h.pos == entGroups h.entry * 16384) .folioRange p s
  let ly := layerOf h.entry (h.pos / 16384)
  pure (h, (s.claims c.coreid).find? fun x => x.layer == ly)

/-- The controller serves a stream: it waits while the layer closes, and opens the group when none is open. -/
def State.openStream (s : State) (y : Nat) : Run State :=
  match s.layer s.cx.coreid y with
  | .pending | .closing => .error (.wait s)
  | _ => .ok (s.setLayer s.cx.coreid y .streaming)

/-- The first byte on a poisoned line, as an address: what DATA_LOST reports for a stream (R346; log 64). -/
def State.poisonedAt (s : State) (ls : List Loc) : Word :=
  BitVec.ofNat 64 (((ls.find? fun l => s.poison.contains (lineOf l.pos)).map Loc.pa).getD 0)

/-- The row of a logical group. -/
def rowIn (e : BitVec 512) (g : Nat) : Nat := ((groupRow e g).map Prod.snd).getD 0

def execSld (m : Mods) (d h : Reg) (s : State) : Host.Outcome State Fault Refusal :=
  issue (.sld m d h) s fun s => do
    let (x, k) ← s.streamStart h
    let g := x.pos / 16384
    let ly := layerOf x.entry g
    let p := Place.g x.stream
    let s1 ← match k with
      | some k =>
        if k.row != rowIn x.entry g then
          .error (.trap .rowBusy (rowTval g ly (k.id != s.cx.id) k.h (hIdx h).val) s)
        else match ((s.ctx? k.id).map fun c => c.h[Fin.ofNat 16 k.h].group).getD .none with
          | .held _ => .ok s
          | _ => .error (.wait s)
      | none => s.openStream ly
    trapIf (s.poisoned p) .dataLost (s.poisonedAt x.stream) s
    waitIf (s.blocked s.cx p 2048) s
    let (v, s2) := s1.loadPlace s1.cx .cave (.chunk []) p 2048
    pure (.adv (s2.upd fun c =>
      { c.setHandle h { x with pos := x.pos + 2048 } with v := c.v.set d.toNat (BitVec.ofNat 16384 v) }))

def execSst (m : Mods) (d h : Reg) (s : State) : Host.Outcome State Fault Refusal :=
  issue (.sst m d h) s fun s => do
    let (x, k) ← s.streamStart h
    let g := x.pos / 16384
    let ly := layerOf x.entry g
    let p := Place.g x.stream
    trapIf (!entWrite x.entry) .dataAccess (BitVec.ofNat 64 x.pos) s
    match k with
    | some k =>
      if k.row = rowIn x.entry g then .error (.trap .rowSelf (rowTval g ly (k.id != s.cx.id) k.h k.h) s)
      else .error (.trap .rowBusy (rowTval g ly (k.id != s.cx.id) k.h (hIdx h).val) s)
    | none => pure ()
    waitIf (s.blocked s.cx p 2048) s
    let s1 ← s.openStream ly
    let s2 := (s1.cleanse p.marks).putPlace p (whole 2048 s1.cx.v[d.toNat].toNat)
    pure (.adv (s2.upd fun c => c.setHandle h { x with pos := x.pos + 2048 }))

/-! ### The row controller (R231 to R237, R243, R245) -/

/-- Change the group of a handle of a context. -/
def State.setGroup (s : State) (id : Nat) (k : BitVec 4) (g : Group) : State :=
  s.mapCtx id fun c => { c with h := c.h.set k.toNat { c.h[k.toNat] with group := g } }

/-- The handle of a context whose groups claim layers. -/
def State.rowHandle (s : State) (id : Nat) (k : BitVec 4) : Option (Ctx × Handle) :=
  match s.ctx? id with
  | some c => if c.holdsRows && c.h[k.toNat].bound then some (c, c.h[k.toNat]) else none
  | none => none

/-- The stall of an activation ends: the layer is idle. -/
def execRowActivation (id : Nat) (k : BitVec 4) (s : State) : Host.Outcome State Fault Refusal :=
  event s (match s.rowHandle id k with
    | some (c, h) =>
      match h.group with
      | .claimed g => if s.layer c.coreid (layerOf h.entry g) == .idle then some (s.activate id k.toFin g) else none
      | _ => none
    | none => none)

/-- The open window ends: HELD. -/
def execRowOpenDone (id : Nat) (k : BitVec 4) (s : State) : Host.Outcome State Fault Refusal :=
  event s (match s.rowHandle id k with
    | some (_, h) => match h.group with | .opening g => some (s.setGroup id k (.held g)) | _ => none
    | none => none)

/-- The hold limit ends: the group is force-closed and LOST (R232). -/
def execRowHoldExpiry (id : Nat) (k : BitVec 4) (s : State) : Host.Outcome State Fault Refusal :=
  event s (match s.rowHandle id k with
    | some (c, h) =>
      match h.group with
      | .held g => some ((s.setGroup id k (.lost g)).setLayer c.coreid (layerOf h.entry g) .pending)
      | _ => none
    | none => none)

/-- A queued matrix instruction reads the group of a layer. -/
def MOp.readsLayer (y : Nat) : MOp → Bool
  | .mopa _ _ _ _ _ _ _ _ l _ => l == some y
  | _ => false

/-- A close starts once every earlier consumer has finished (R243). -/
def execRowClose (core : BitVec 12) (y : BitVec 3) (s : State) : Host.Outcome State Fault Refusal :=
  event s (
    if s.layer core y.toNat == .pending && !((s.core core).queue.any fun q => q.readsLayer y.toNat) then
      some (s.setLayer core y.toNat .closing)
    else none)

/-- Perform, in order, the writes that waited for a layer, unless an earlier access of their issuer has to come first, another
layer holds them back, or they go to a peer too (R234). -/
def State.releaseLayer (s : State) (core : BitVec 12) (y : Nat) : State :=
  let here (l : Nat × Nat) : Bool := isDram l.2 && (rowOf l.2).1 == core && (rowOf l.2).2.1 == y
  let isLoad (e : Pend) : Bool := match e with
    | .load _ _ _ _ => true
    | _ => false
  let goes (s : State) (kept : List Pend) (e : Pend) : Bool :=
    !isLoad e && e.space == .g && e.locs.any here && !(kept.any fun f => f.leads e) && !(e.locs.any fun l => isPeer l.1) &&
    s.rowsLet e.owner true e.locs
  let (t, kept) := s.pend.foldl (fun (r : State × List Pend) e =>
    if goes r.1 r.2 e then (r.1.performWrite e, r.2) else (r.1, r.2 ++ [e])) (s, [])
  State.cleanDone { t with pend := kept }

/-- The close window ends: the stores, updates and additions that waited for the layer are performed (R231, R234). -/
def execRowCloseDone (core : BitVec 12) (y : BitVec 3) (s : State) : Host.Outcome State Fault Refusal :=
  event s (
    if s.layer core y.toNat == .closing then some ((s.setLayer core y.toNat .idle).releaseLayer core y.toNat)
    else none)

/-- A group opened for streaming is closed (R245). -/
def execStreamGroupClose (core : BitVec 12) (y : BitVec 3) (s : State) : Host.Outcome State Fault Refusal :=
  event s (if s.layer core y.toNat == .streaming then some (s.setLayer core y.toNat .idle) else none)

/-! ### Relocation (R236) and page promotion (R199) -/

/-- No group of a folio is claimed, opening or held (R236). -/
def State.folioQuiet (s : State) (t : BitVec 3) (i : BitVec 12) : Bool :=
  s.ctxs.all fun c => c.h.toList.all fun h =>
    !(h.bound && h.tower == t && h.index == i && h.group.claim.isSome && c.holdsRows)

/-- An access that has issued and has not been performed, a flush in a matrix queue or a host AtomicOp among them, has a byte at one
of some places. -/
def State.inFlightAt (s : State) (hit : Nat × Nat → Bool) : Bool :=
  (s.pend.any fun e => e.space == .g && e.locs.any hit) ||
  (s.ctxs.any fun c =>
    ((s.core c.coreid).queue.any fun q => match q with
      | .mflush _ _ _ sp lines _ => sp == .g && lines.any hit
      | _ => false) ||
    (c.hostReq.any fun q => hit (q.pa, q.pa)))

/-- A place lies in the rows of an extent. -/
def inExtent (t column : Nat) (x : BitVec 32) (pos : Nat) : Bool :=
  let (core, layer, row) := rowOf pos
  isDram pos && core.toNat == 512 * t + column && layer == extLayer x && decide (extRow0 x ≤ row ∧ row < extRow0 x + extRows x)

/-- The DRAM rows of an extent copied to those of another. -/
def copyRows (t column : Nat) (x y : BitVec 32) (m : Memory) : Memory :=
  (List.range (extRows x)).foldl (fun m r =>
    m.writeN (rowAddr t column (extLayer y) (extRow0 y + r) 0) 16384
      (m.readN (rowAddr t column (extLayer x) (extRow0 x + r) 0) 16384)) m

/-- The poison markers of the rows go with them. -/
def poisonRows (t column : Nat) (x y : BitVec 32) (poison : List Nat) : List Nat :=
  (List.range (extRows x)).foldl (fun ps r =>
    let fromLine := lineOf (rowAddr t column (extLayer x) (extRow0 x + r) 0)
    let toLine := lineOf (rowAddr t column (extLayer y) (extRow0 y + r) 0)
    (ps.filter fun l => l / 128 != toLine / 128) ++
      (ps.filter fun l => l / 128 == fromLine / 128).map fun l => toLine + (l - fromLine)) poison

/-- The word that holds, after a move of extent `x` to `y`, what word `n` of memory held; none for a word of `y`, whose bytes are gone. -/
def movedWord (t column : Nat) (x y : BitVec 32) (n : Nat) : Option Nat :=
  let pos := 4 * n
  if inExtent t column x pos then
    some (rowAddr t column (extLayer y) (extRow0 y + (pos / 2 ^ 26 % 1024 - extRow0 x)) (pos % 16384) / 4)
  else if inExtent t column y pos then none else some n

/-- The hardware moves an extent into its spare and swaps the two words of the entry in one update, when the accesses in flight to
the folio have been performed (R236). Only an extent as long as the spare moves, so that the folio keeps its groups. The copies of
the entry that handles hold follow, and so do the words that caches hold, as the folio's name and data never change; no L1 keeps a
word of the entry (log 36). -/
def execExtentRelocation (t : BitVec 3) (i : BitVec 12) (k : BitVec 3) (s : State) : Host.Outcome State Fault Refusal :=
  event s (
    let ft := (s.tower t).foliotab
    let e := s.folioEntry t i.toNat
    let x := entExt e k.toNat
    let y := entSpare e
    let col := entCore e
    let longest := (((List.range (min 8 (entNext e))).map fun j => extRows (entExt e j)).max?).getD 0
    let folio := t.toNat * 2 ^ 13 + i.toNat
    let touches (l : Nat × Nat) : Bool :=
      (isAperture l.1 && (l.1 - 2 ^ 51) / 2 ^ 27 == folio) || inExtent t.toNat col x l.2 || inExtent t.toNat col y l.2
    if ft = 0 || !entValid e || decide (k.toNat ≥ entNext e) || y == 0 || extRows y != longest || extRows x != extRows y ||
      !s.folioQuiet t i || s.inFlightAt touches || !s.dev.walks.isEmpty then none
    else
      let m := copyRows t.toNat col x y s.mem
      let at_ := ft.toNat + 64 * i.toNat
      let m := (m.writeN (at_ + 16 + 4 * k.toNat) 4 y.toNat).writeN (at_ + 48) 4 x.toNat
      let s := ({ s with mem := m, poison := poisonRows t.toNat col x y s.poison }).bump (lineOf at_)
      let s := (s.renumber (movedWord t.toNat col x y)).dropWords fun n => decide (at_ / 4 ≤ n ∧ n < at_ / 4 + 16)
      let e' := s.folioEntry t i.toNat
      let follow (h : Handle) : Handle := if h.bound && h.tower == t && h.index == i then { h with entry := e' } else h
      some { s with
        cx := { s.cx with h := s.cx.h.map follow }
        others := s.others.map fun c => { c with h := c.h.map follow } })

/-- The lines of a 2 MiB page with their tags and their poison, in another frame. A page of host memory has its tags in the cave,
and the model holds none of them (log 11). -/
def State.movePage (s : State) (old new : Nat) : State :=
  let lines := List.range 16384
  let tagOf (k : Nat) : BitVec 32 := if isDram old then s.tags.get (lineOf old + k) else Config.foreignTag (s.free + k)
  { s with
    mem := (List.range 512).foldl (fun m k => m.writeN (new + 4096 * k) 4096 (m.readN (old + 4096 * k) 4096)) s.mem
    tags := lines.foldl (fun t k => t.put (lineOf new + k) (tagOf k)) s.tags
    poison := (s.poison.filter fun l => l / 16384 != lineOf new / 16384) ++
      (lines.filter fun k => s.poison.contains (lineOf old + k)).map (lineOf new + ·)
    free := if isDram old then s.free else s.free + 16384 }

/-- The same of a move of the 2 MiB frame `old` to the frame `new`. -/
def framedWord (old new n : Nat) : Option Nat :=
  let pos := 4 * n
  if pos / 2 ^ 21 = old / 2 ^ 21 then some ((new + pos % 2 ^ 21) / 4) else if pos / 2 ^ 21 = new / 2 ^ 21 then none else some n

/-- The device moves a 2 MiB page with MIG set into a frame of the promotion pool of tower `t`, where hardware promotion is enabled
(R199; log 94), when the accesses in flight to the page, and the range walks, have been performed. Nothing races the commit in one step, so the compare
of GEN always succeeds. A commit removes the page from every TLB and writes a KIND 1 event, and none starts while the ring is full
(R386). A frame holds one page; the words that caches hold of the page go with it. -/
def execPagePromotion (t : BitVec 3) (ptb va frame : BitVec 64) (s : State) : Host.Outcome State Fault Refusal :=
  event s (
    match walkFrom s none va.toNat 4 (fld ptb 11 37 * 2048) with
    | .error _ => none
    | .ok l =>
      let old := fld l.pte 12 40 * 4096
      let new := frame.toNat
      let remote := isHost old || (isDram old && old / 2 ^ 36 != t.toNat)
      let pos := ((s.locate false l.at_).map Loc.pos).getD l.at_
      if l.level != 1 || !bitOf l.pte 11 || !remote || !isDram new || new / 2 ^ 36 != t.toNat || new % 2 ^ 21 != 0 ||
        !Config.promotes t.toNat new || s.dev.frames.contains (new / 2 ^ 21) || s.inFlightAt (fun p => p.2 / 2 ^ 21 == old / 2 ^ 21) ||
        !s.dev.walks.isEmpty || ringFull s.dev || !s.dev.evwait.isEmpty || fld va 56 8 != 0 then none
      else
        let s := (s.movePage old new).renumber (framedWord old new)
        let s := { s with dev := { s.dev with frames := new / 2 ^ 21 :: s.dev.frames.filter fun f => f != old / 2 ^ 21 } }
        let pte := setFld (setFld l.pte 12 40 (new / 4096)) 56 8 (fld l.pte 56 8 + 1)
        let s := ({ s with mem := s.mem.writeN pos 8 pte.toNat }).bump (lineOf l.at_)
        let s := s.dropXlates fun x => x.at_ == l.at_
        some (s.emit ⟨1, t.setWidth 8, va, pte, 0, none⟩))

end Sys2Proof.Machine
end

