-- ==== Sys2Proof/Machine/Matrix.lean ====
section
/-! DEFINITION. The vat and the matrix engine: mopa, mzero, mrd, mwr, mflush, mwait, and the engine's start of a queued
instruction (R151, R247 to R263). -/

namespace Sys2Proof.Machine

/-! ### Tiles (R247, R248) -/

def tIdx (r : Reg) : Fin 4 := Fin.ofNat 4 r.toNat
/-- The tile name is held. -/
def Ctx.tileHeld (c : Ctx) (n : Nat) : Bool := c.vatmap.getLsbD n

/-- Free physical tiles of a core (R62, R248). -/
def State.vatFree (s : State) (core : BitVec 12) : Nat :=
  4 - ((s.ctxs.filter fun c => c.resident && c.coreid == core).map fun c => popcount c.vatmap).sum

/-- Tiles that a subtree holds (R25, BVAT). -/
def State.vatUse (s : State) (top : Nat × Nat) : Nat :=
  ((s.ctxs.filter fun c => c.resident && match c.leaf with | some r => s.under top r | none => false).map
    fun c => popcount c.vatmap).sum

/-- Release tile names. -/
def Ctx.freeTiles (c : Ctx) (l : List Nat) : Ctx :=
  { c with vatmap := l.foldl (fun v n => v &&& ~~~(BitVec.ofNat 4 (2 ^ n))) c.vatmap }

/-- A number as the list of its `n` elements of `w` bits, and back. -/
def splitN (w : Nat) : Nat → Nat → List Nat
  | 0, _ => []
  | n + 1, v => v % 2 ^ w :: splitN w n (v / 2 ^ w)
def joinN (w : Nat) (l : List Nat) : Nat := l.foldr (fun e v => e % 2 ^ w + 2 ^ w * v) 0

/-- The bits of tile `d`, or of the pair `d`, `d + 1`. -/
def Ctx.tileBits (c : Ctx) (pair : Bool) (d : Nat) : Nat :=
  c.a[Fin.ofNat 4 d].toNat + if pair then c.a[Fin.ofNat 4 (d + 1)].toNat * 2 ^ 262144 else 0
def Ctx.setTile (c : Ctx) (pair : Bool) (d v : Nat) : Ctx :=
  let c := { c with a := c.a.set (Fin.ofNat 4 d) (BitVec.ofNat 262144 v) }
  if pair then { c with a := c.a.set (Fin.ofNat 4 (d + 1)) (BitVec.ofNat 262144 (v / 2 ^ 262144)) } else c

/-! ### mopa (R251 to R257) -/

/-- K of a format; none where mopa does not take it (R251). -/
def mopaK (f : Fmt) : Option Nat :=
  match f with
  | .bf16 | .f16 => some 32
  | .m8 | .i8 | .n8 => some 64
  | .m4 | .i4 | .n4 => some 128
  | .f32 => some 16
  | .f64 => some 8
  | _ => none

/-- The shape that mopa requires (R251). -/
def mopaShape (k : Nat) (vt : Word) : Bool :=
  if k = 128 then fld vt 4 9 == 6 + 8 * 6 else fld vt 4 9 == Nat.log2 k + 8 * 5

/-- Element `i` of an operand of 16 KiB or of a brick, at the format's width. -/
def operandAt (v : Nat) (w i : Nat) : Nat := v >>> (w * i) % 2 ^ w

/-- The scale byte of A(m, k) and of B(k, n) (R254). -/
def scaleByteA (nb m k : Nat) : Nat := m * nb + k / 32
def scaleByteB (k n : Nat) : Nat := 32 * (k / 32) + n / 8

/-- The value of an operand element under its scale. -/
def scaledVal (f : Fmt) (v : Nat) (sc : Option Scale) (byte : Nat) : Val :=
  match sc with
  | some x => (fmtVal f v).scaled (scaleByte x byte)
  | none => fmtVal f v

/-- The exact sum of a block's products: whether it holds NaN, +Inf, −Inf, its finite part, and whether every product is −0. -/
structure BlockSum where
  nan : Bool := false
  pinf : Bool := false
  ninf : Bool := false
  sum : Frac := ⟨0, 1⟩
  negZero : Bool := true

def BlockSum.add (b : BlockSum) (p : Val) : BlockSum :=
  match p with
  | .nan _ | .nar => { b with nan := true, negZero := false }
  | .inf false => { b with pinf := true, negZero := false }
  | .inf true => { b with ninf := true, negZero := false }
  | .num s q => { b with sum := b.sum.add q, negZero := b.negZero && q.num == 0 && s }

/-- acc + block, rounded once into a float tile (R151). -/
def blockFloat (tf : Fmt) (acc : Nat) (b : BlockSum) : Nat × Fl :=
  if b.nan || (b.pinf && b.ninf) then ((encodeVal tf .rne 0 (.nan false)).1, flNV)
  else
    let x : Val :=
      if b.pinf then .inf false else if b.ninf then .inf true
      else if b.sum.num = 0 then .zero b.negZero else .of b.sum
    let (v, fl) := addVal .rne (fmtVal tf acc) x
    let (r, fl') := encodeVal tf .rne 0 v
    (r, fl ||| fl')

/-- One tile element through its K blocks, with the flags (R151, R255). -/
def mopaElem (f : Fmt) (k : Nat) (a b : Nat) (sa sb : Option Scale) (m n : Nat) (acc : Nat) : Nat × Fl :=
  let nb := (k + 31) / 32
  let w := f.sew
  let step (st : Nat × Fl) (j : Nat) : Nat × Fl :=
    let ks := (List.range (min 32 (k - 32 * j))).map (32 * j + ·)
    if f.intClass then
      let t : Int := (ks.map fun q => intOf f.signed w (operandAt a w (q + k * m)) * intOf f.signed w (operandAt b w (256 * q + n))).sum
      (satInt .i32 ((BitVec.ofNat 32 st.1).toInt + t), st.2)
    else
      let s := ks.foldl (fun s q => s.add (mulVal (scaledVal f (operandAt a w (q + k * m)) sa (scaleByteA nb m q))
        (scaledVal f (operandAt b w (256 * q + n)) sb (scaleByteB q n))).1) ({} : BlockSum)
      let (r, fl) := blockFloat (if f = .f64 then .f64 else .f32) st.1 s
      (r, st.2 ||| fl)
  (List.range nb).foldl step (acc, 0)

/-- The tile after a mopa, and the flags: rows outside rowsIn are unchanged. -/
def mopaTile (f : Fmt) (k : Nat) (a b : Nat) (sa sb : Option Scale) (rows : List Nat) (tile : Nat) : Nat × Fl :=
  let w := if f = .f64 then 64 else 32
  let l := (splitN w 8192 tile).mapIdx fun i e =>
    if rows.contains (i / 256) then mopaElem f k a b sa sb (i / 256) (i % 256) e else (e, 0)
  (joinN w (l.map Prod.fst), l.foldl (fun fl r => fl ||| r.2) 0)

/-- rowsIn of R255. -/
def Ctx.rowsIn (c : Ctx) (m : Mods) (k : Nat) : List Nat := (List.range 32).filter fun r => c.active m (k * r)

/-- tval of a reserved code of mopa (R142, R256). -/
def mopaTval (index opnd code : Nat) : Word := BitVec.ofNat 64 (index * 2 ^ 32 + opnd * 2 ^ 10 + code)

/-- The reserved code that a mopa meets first: A elements, B elements, then applied scale bytes (R256). -/
def mopaReserved (f : Fmt) (k : Nat) (a b : Nat) (sa sb : Option (BitVec 3 × Scale)) (rows : List Nat) : Option (Cause × Word) :=
  if rows.isEmpty then none else
  let w := f.sew
  let bad (v i : Nat) : Bool := isNar f (operandAt v w i)
  let ea := (rows.flatMap fun m => (List.range k).map fun q => q + k * m).find? fun i => bad a i
  let eb := (List.range (256 * k)).find? fun i => bad b i
  let nb := (k + 31) / 32
  let byteBad (sc : Option (BitVec 3 × Scale)) (l : List Nat) : Option (Nat × BitVec 3) :=
    match sc with
    | some (r, x) => ((l.filter fun i => scaleByte x i == 255).min?).map fun i => (i, r)
    | none => none
  let xa := byteBad sa (rows.flatMap fun m => (List.range nb).map fun j => m * nb + j)
  let xb := byteBad sb (List.range (32 * nb))
  match narCode f, ea, eb with
  | some code, some i, _ => some (.elemReserved, mopaTval i 0 code)
  | some code, none, some i => some (.elemReserved, mopaTval i 1 code)
  | _, _, _ =>
    match xa, xb with
    | some (i, r), some (j, q) =>
      some (.scaleReserved, if i ≤ j then mopaTval i 0 (0xf8 + r.toNat) else mopaTval j 1 (0xf8 + q.toNat))
    | some (i, r), none => some (.scaleReserved, mopaTval i 0 (0xf8 + r.toNat))
    | none, some (j, q) => some (.scaleReserved, mopaTval j 1 (0xf8 + q.toNat))
    | none, none => none

/-- The first tile of an operand that is not held (R248). -/
def Ctx.tileMissing (c : Ctx) (pair : Bool) (d : Nat) : Option Nat :=
  if !c.tileHeld d then some d else if pair && !c.tileHeld (d + 1) then some (d + 1) else none

/-- The queue of the core without a place that an mrd or mwr of the context has left. -/
def State.ahead (s : State) : List MOp := s.co.queue.filter fun q => !(q.isMove && q.owner == s.cx.id)

/-- Put an instruction into the core's matrix queue; it stalls while four are in it (R250). -/
def State.enqueue (s : State) (q : MOp) : Run State :=
  if s.ahead.length ≥ 4 then .error (.wait s) else .ok { s with co := { s.co with queue := s.ahead ++ [q] } }

/-- An mflush that releases a tile of the context is in the queue: the next instruction on the tile sees it released (R250). -/
def MOp.frees (id n : Nat) : MOp → Bool
  | .mflush j k t _ _ free => free && j == id && (t.toNat == n || (k == .f64 && t.toNat + 1 == n))
  | _ => false

/-- The same for a tile or a pair of the context in focus. -/
def State.tileLeaves (s : State) (pair : Bool) (n : Nat) : Bool :=
  s.co.queue.any fun q => q.frees s.cx.id n || (pair && q.frees s.cx.id (n + 1))

/-- mopa with its B operand: its bits, and the layer it comes from. `close` is the handle whose group its mark closes. -/
def mopaWith (i : Instr) (m : Mods) (d a : Reg) (bad : Bool) (operand : State → Run (Nat × Option Nat)) (close : Option (BitVec 4))
    (s : State) : Run State := do
  let c := s.cx
  let f := c.fmt
  let scaled := bitOf c.vtype 19 || bitOf c.vtype 23
  match mopaK f with
  | none => .error (operandTrap i s)
  | some k =>
    let pair := f == .f64
    operandTrapIf i (!mopaShape k c.vtype || (f.intClass && scaled) || bad) s
    trapIf (pair && d.toNat % 2 == 1) .illOperand i.tval s
    waitIf (s.tileLeaves pair d.toNat) s
    match c.tileMissing pair d.toNat with
    | some t => .error (.trap .vatNotile (BitVec.ofNat 64 t) s)
    | none =>
      let (b, layer) ← operand s
      let rows := c.rowsIn m k
      let sa := (c.scaleOf 0).map fun r => (r, c.sc[r.toNat])
      let sb := (c.scaleOf 1).map fun r => (r, c.sc[r.toNat])
      match mopaReserved f k c.v[a.toNat].toNat b sa sb rows with
      | some (e, v) => .error (.trap e v (s.upd fun c => { c with vstart := 0 }))
      | none =>
        let s ← s.enqueue (.mopa c.id (d.setWidth 2) f c.v[a.toNat] (BitVec.ofNat 131072 b) (sa.map Prod.snd) (sb.map Prod.snd)
          rows layer close)
        pure s.vdone

def execMopa (m : Mods) (d a b : Reg) (s : State) : Host.Outcome State Fault Refusal :=
  let i : Instr := .mopa m d a b
  issue i s fun s => do
    let s ← mopaWith i m d a (decide (b.toNat > 56))
      (fun s => .ok (joinN 16384 ((List.range 8).map fun k => (s.cx.v.toList.getD (b.toNat + k) 0).toNat), none)) none s
    pure (.adv s)

/-- B from the group held under h(b); the mark closes the group when the mopa retires (R246). On a poisoned line of the group the bytes
in DRAM are read and nothing is raised: neither R256 nor R364 names the case (DESIGN CHOICE, log 95). -/
def execMopaRows (m : Mods) (d a b : Reg) (s : State) : Host.Outcome State Fault Refusal :=
  let i : Instr := .mopaRows m d a b
  issue i s fun s => do
    let k := (hIdx b).val
    let s ← mopaWith i m d a false (fun s =>
      let h := s.cx.handle b
      match h.group with
      | .none => .error (.trap .rowClosed (rowTval (2 ^ 32 - 1) 0 false k k) s)
      | .lost g => .error (.trap .rowLost (rowTval g (layerOf h.entry g) false k k) s)
      | .claimed _ | .opening _ => .error (.wait s)
      | .held g =>
        let pos := (folioAddr h.tower.toNat h.entry (g * 16384)).getD 0
        .ok (s.mem.readN pos 16384, some (layerOf h.entry g))) (if m.lb then some (BitVec.ofNat 4 k) else none) s
    pure (.adv s)

/-! ### mzero, mrd, mwr (R258, R259) -/

/-- A grant of one more tile would exceed an ancestor's BVAT (R27). -/
def State.vatCapped (s : State) (c : Ctx) : Bool :=
  match c.leaf with
  | none => false
  | some r => (s.ancestors r).any fun q =>
      match s.node? q.1 q.2 with
      | some n => decide (s.vatUse q + 1 > n.caps.vat)
      | none => false

def execMzero (d : Reg) (s : State) : Host.Outcome State Fault Refusal :=
  issue (.mzero d) s fun s => do
    let c := s.cx
    let n := d.toNat
    waitIf (s.tileLeaves false n) s
    trapIf (!c.tileHeld n && (decide (n ≥ c.vatn) || s.vatFree c.coreid == 0 || s.vatCapped c)) .vatNotile (BitVec.ofNat 64 n) s
    let s ← s.enqueue (.mzero c.id (d.setWidth 2))
    pure (.adv (s.upd fun c => { c with vatmap := c.vatmap ||| BitVec.ofNat 4 (2 ^ n) }))

/-- The mrd or mwr at pc enters the queue, where it stays until it retires; it stalls while four are in it, and until those before it
have run (R250). -/
def State.queueTurn (s : State) : Run State :=
  let mine : MOp := .move s.cx.id s.cx.pc
  if s.co.queue.contains mine then (if s.co.queue.head? = some mine then .ok s else .error (.wait s))
  else do
    let t ← s.enqueue mine
    if s.ahead.isEmpty then .ok t else .error (.wait t)

/-- It leaves the queue when it retires. -/
def State.leaveQueue (s : State) : State := { s with co := { s.co with queue := s.ahead } }

/-- The checks that mrd and mwr share, the slab, and the state in which their turn in the queue has come (R250, R259). Of checks that fail together the slab comes first, then the width,
then the tile: R259 gives no order (DESIGN CHOICE, log 95). -/
def slabOf (i : Instr) (t b : Reg) (s : State) : Run (Nat × State) := do
  let c := s.cx
  let n := c.readX b
  trapIf (decide (n.toNat ≥ 16)) .illOperand n s
  operandTrapIf i (c.fmt.sew != 32 && c.fmt.sew != 64) s
  waitIf (s.tileLeaves false t.toNat) s
  trapIf (!c.tileHeld t.toNat) .vatNotile (t.setWidth 64) s
  let s ← s.queueTurn
  pure (n.toNat, s)

/-- A slab of a tile as a brick. -/
def Ctx.slab (c : Ctx) (t : Reg) (n : Nat) : Brick := (c.a[tIdx t] >>> (16384 * n)).setWidth 16384
def Ctx.setSlab (c : Ctx) (t : Reg) (n : Nat) (v : Brick) : Ctx :=
  let mask : Tile := (BitVec.allOnes 16384).setWidth 262144 <<< (16384 * n)
  { c with a := c.a.set (tIdx t) ((c.a[tIdx t] &&& ~~~mask) ||| (v.setWidth 262144 <<< (16384 * n))) }

def execMrd (m : Mods) (d a b : Reg) (s : State) : Host.Outcome State Fault Refusal :=
  let i : Instr := .mrd m d a b
  issue i s fun s => do
    let (n, s) ← slabOf i a b s
    let sew := s.cx.fmt.sew
    let r ← overElems (fun s e => .ok (s.upd fun c => c.setEl d e (elemAt (c.slab a n) sew e))) (s.cx.elems m) s
    let r := r.vdone.leaveQueue
    pure (.adv (if m.la then r.upd fun c => c.freeTiles [a.toNat] else r))

def execMwr (m : Mods) (d a b : Reg) (s : State) : Host.Outcome State Fault Refusal :=
  let i : Instr := .mwr m d a b
  issue i s fun s => do
    let (n, s) ← slabOf i d b s
    let sew := s.cx.fmt.sew
    let r ← overElems (fun s e => .ok (s.upd fun c => c.setSlab d n (setElem (c.slab d n) sew e (c.el a e)))) (s.cx.elems m) s
    pure (.adv r.vdone.leaveQueue)

/-! ### mflush and mwait (R260 to R262) -/

/-- Check the lines from an address upwards: each line's address and place. A poisoned line has its DATA_LOST (R364) after
ATOMIC_UNSUPPORTED and before ROW_SELF: R260 does not place it (DESIGN CHOICE, log 95). -/
def State.flushLines (s : State) (sp : Space) : List Word → List (Nat × Nat) → Run (List (Nat × Nat) × State)
  | [], acc => .ok (acc.reverse, s)
  | va :: l, acc =>
    match s.resolve s.cx sp .atomic va 128 with
    | .error (c, _) => .error (.trap c va s)
    | .ok (s', p) =>
      let uc := match p with | .g ls => ls.any Loc.uc | _ => false
      if p.target != .device || uc then .error (.trap .atomicUnsupported va s)
      else if s.poisoned p then .error (.trap .dataLost va s)
      else match walkFree s sp .atomic va 128 with
      | .error x => .error x
      | .ok _ =>
        match s.rowMeets (some s.cx) p with
        | .self v => .error (.trap .rowSelf v s)
        | _ =>
          if s.blocked s.cx p 128 then .error (.wait s)
          else s'.flushLines sp l (((p.updatePairs 128).headD (0, 0)) :: acc)

def execMflush (m : Mods) (kind : MKind) (sp : Space) (a b c : Reg) (disp : BitVec 32) (s : State) :
    Host.Outcome State Fault Refusal :=
  let i : Instr := .mflush m kind sp a b c disp
  issue i s fun s0 => do
    let x := s0.cx
    let pair := kind == .f64
    trapIf (pair && b.toNat % 2 == 1) .illOperand i.tval s0
    waitIf (s0.tileLeaves pair b.toNat) s0
    match x.tileMissing pair b.toNat with
    | some t => .error (.trap .vatNotile (BitVec.ofNat 64 t) s0)
    | none =>
      let width := if pair then 2048 else 1024
      let ea := x.ea m a disp 128
      let stride : Word := if c = 0 then BitVec.ofNat 64 width else x.readX c
      trapIf (ea.toNat % 128 != 0) .align ea s0
      trapIf (stride.toNat % 128 != 0) .align stride s0
      let lines := (List.range 32).flatMap fun r => (List.range (width / 128)).map fun k =>
        ea + BitVec.ofNat 64 r * stride + BitVec.ofNat 64 (128 * k)
      match s0.flushLines sp lines [] with
      | .error (.trap e v _) => .error (.trap e v s0)
      | .error (.wait _) => .error (.wait s0)
      | .ok (l, s1) =>
        match s1.enqueue (.mflush x.id kind (b.setWidth 2) sp l m.lb) with
        | .error _ => .error (.wait s0)
        | .ok s2 => pure (.adv s2)

def execMwait (s : State) : Host.Outcome State Fault Refusal :=
  issue .mwait s fun s => do
    waitIf (s.flushesOut s.cx) s
    pure (.adv s)

/-! ### The engine (R250, R261) -/

/-- The mark of a mopa closes the group of a handle as rowclose does, when the group is still held or lost (R246). -/
def State.markCloses (s : State) (id : Nat) (k : Option (BitVec 4)) (layer : Option Nat) : State :=
  match k, s.ctx? id with
  | some k, some c =>
    let h := c.h[k.toNat]
    match h.group with
    | .held g =>
      if some (layerOf h.entry g) = layer then (s.setGroup id k .none).setLayer c.coreid (layerOf h.entry g) .pending else s
    | .lost g => if some (layerOf h.entry g) = layer then s.setGroup id k .none else s
    | _ => s
  | _, _ => s

/-- The additions of an mflush: one for each element; the first element of a line counts for it, once for each line (R202, R261). -/
def flushSends (id : Nat) (kind : MKind) (sp : Space) (lines : List (Nat × Nat)) (bits : Nat) : List Pend :=
  let n := if kind == .f64 then 8 else 4
  (splitN (8 * n) 8192 bits).mapIdx fun i v =>
    let j := i * n / 128
    let line := lines.getD j (0, 0)
    let o := i * n % 128
    .flush id sp ((List.range n).map fun k => (line.1 + o + k, line.2 + o + k)) kind
      (o == 0 && !(lines.take j).contains line) (BitVec.ofNat 64 v)

/-- Run one queued instruction to its end. -/
def State.runMOp (s : State) : MOp → State
  | .mopa id t f a b sa sb rows layer close =>
    let go (c : Ctx) : Ctx :=
      let pair := f == .f64
      let (v, fl) := mopaTile f ((mopaK f).getD 0) a.toNat b.toNat sa sb rows (c.tileBits pair t.toNat)
      (c.setTile pair t.toNat v).addFlags fl
    (s.mapCtx id go).markCloses id close layer
  | .mzero id t => s.mapCtx id fun c => c.setTile false t.toNat 0
  | .mflush id kind t sp lines free =>
    let pair := kind == .f64
    let bits := ((s.ctx? id).map fun c => c.tileBits pair t.toNat).getD 0
    let sends := flushSends id kind sp lines bits
    State.mapCtx { s with pend := s.pend ++ sends } id fun c =>
      if free then c.freeTiles (if pair then [t.toNat, t.toNat + 1] else [t.toNat]) else c
  | .move _ _ => s

/-- The context of an mrd or mwr in the queue is still at it. -/
def State.atMove (s : State) : MOp → Bool
  | .move id pc => (s.ctx? id).any fun c => c.phase == .running && c.pc == pc && match c.stall with
      | .elem _ => true
      | _ => false
  | _ => false

/-- The engine of `core` takes the head of its queue; an mrd or mwr there is carried out by its context, and its place goes when the
context has left it. -/
def execMatrixEngineStart (core : BitVec 12) (s : State) : Host.Outcome State Fault Refusal :=
  let co := s.core core
  event s (match co.queue with
    | [] => none
    | q :: qs => if s.atMove q then none else some ((s.setCore core { co with queue := qs }).runMOp q))

end Sys2Proof.Machine
end

