-- ==== Sys2Proof/Machine/Spine.lean ====
section
/-! DEFINITION. The spine instructions (R184 to R186). -/

namespace Sys2Proof.Machine

/-- The element of a brick, 0 outside [0, vl) (R184). -/
def Ctx.within (c : Ctx) (r : Reg) (k : Nat) : Nat := if k < c.vlN then c.el r k else 0

def execVperm (m : Mods) (d a b : Reg) (s : State) : Host.Outcome State Fault Refusal :=
  let i : Instr := .vperm m d a b
  issue i s fun s => do
    operandTrapIf i (d == a || d == b) s
    vector m s fun s e => .ok (s.upd fun c => c.setEl d e (c.within a (c.el b e)))

def execVrot (m : Mods) (d a b : Reg) (s : State) : Host.Outcome State Fault Refusal :=
  let i : Instr := .vrot m d a b
  issue i s fun s => do
    operandTrapIf i (d == a) s
    vector m s fun s e => .ok (s.upd fun c => c.setEl d e (c.el a ((e + (c.readX b).toNat) % c.vlN)))

def execVxget (m : Mods) (d a b : Reg) (s : State) : Host.Outcome State Fault Refusal :=
  issue (.vxget m d a b) s fun s => .ok (.adv (s.upd fun c =>
    let v := c.within a (c.readX b).toNat
    c.writeX d (if c.fmt.signed then sextN c.fmt.sew v else BitVec.ofNat 64 v)))

def execVxput (m : Mods) (d a b : Reg) (s : State) : Host.Outcome State Fault Refusal :=
  issue (.vxput m d a b) s fun s => .ok (.adv (s.upd fun c =>
    let k := (c.readX b).toNat
    if k < c.vlN then c.setEl d k ((c.readX a).toNat % 2 ^ c.fmt.sew) else c))

/-! ### Reductions and scans (R185, R148, R149) -/

/-- A value of vred. -/
def Ctx.setVred (c : Ctx) (v : Nat) : Ctx := { c with vred := BitVec.ofNat 64 v }
def Ctx.vredN (c : Ctx) : Nat := c.vred.toNat % 2 ^ c.fmt.sew

/-- How two elements combine: the bits, and the flags. -/
abbrev Combine := Ctx → Nat → Nat → Nat × Fl

/-- A sum: integers wrap, floats round in the instruction's mode. -/
def sumEl (rm : Rm) : Combine := fun c x y =>
  if c.fmt.intClass then ((x + y) % 2 ^ c.fmt.sew, 0)
  else c.roundTo rm (addVal (rmPlain c.frm rm) (fmtVal c.fmt x) (fmtVal c.fmt y))
def maxEl : Combine := fun c x y =>
  if c.fmt.intClass then (if eInt c.fmt x < eInt c.fmt y then y else x, 0)
  else c.roundTo .rne (maxVal (fmtVal c.fmt x) (fmtVal c.fmt y))
def minEl : Combine := fun c x y =>
  if c.fmt.intClass then (if eInt c.fmt x < eInt c.fmt y then x else y, 0)
  else c.roundTo .rne (minVal (fmtVal c.fmt x) (fmtVal c.fmt y))

/-- The element and the accumulator hold no reserved code; the element is operand a, the accumulator comes from b (R142, R185;
log 29). -/
def State.redCheck (s : State) (v acc : Nat) : Run Unit :=
  if isNar s.cx.fmt v then .error (.trap .elemReserved (BitVec.ofNat 64 v) s)
  else if isNar s.cx.fmt acc then .error (.trap .elemReserved (BitVec.ofNat 64 (1024 + acc)) s)
  else .ok ()

/-- Begin a reduction: the state of vred from vb element 0 when START is 0 (R185). -/
def State.redBegin (s : State) (b : Reg) : State :=
  if s.cx.start = 0 then s.upd fun c => c.setVred (c.el b 0) else s

/-- A left fold over the active elements; a scan writes each partial result (R148, R185). -/
def foldEls (m : Mods) (d a : Reg) (scan : Bool) (f : Combine) (s : State) : Run State :=
  overElems (fun s e => do
    let c := s.cx
    s.redCheck (c.el a e) c.vredN
    let (r, fl) := f c c.vredN (c.el a e)
    pure (s.upd fun c =>
      let c := (c.setVred r).addFlags fl
      if scan then c.setEl d e r else c)) (s.cx.elems m) s

/-- The end of a reduction or a scan: vred holds its final state with the bits above sew − 1 zero, and element 0 of a reduction's vd
takes it (R185). -/
def State.redEnd (s : State) (d : Reg) (scan : Bool) : State :=
  (s.upd fun c =>
    let c' := c.setVred c.vredN
    if scan then c' else c'.setEl d 0 c.vredN).vdone

/-- A reduction or a scan. With START at or above vl nothing is processed or written (R130). -/
def reduce (i : Instr) (m : Mods) (d a b : Reg) (rm : Rm) (scan : Bool) (f : Combine) (s : State) :
    Host.Outcome State Fault Refusal :=
  issue i s fun s => do
    trapIf (s.cx.fmt.intClass && rm != .rne) .illEnc i.tval s
    if s.cx.start ≥ s.cx.vlN then pure (.adv s.vdone)
    else do
      let s ← foldEls m d a scan f (s.redBegin b)
      pure (.adv (s.redEnd d scan))

def execVredsum (m : Mods) (d a b : Reg) (rm : Rm) (s : State) : Host.Outcome State Fault Refusal :=
  reduce (.vredsum m d a b rm) m d a b rm false (sumEl rm) s
def execVscan (m : Mods) (d a b : Reg) (rm : Rm) (s : State) : Host.Outcome State Fault Refusal :=
  reduce (.vscan m d a b rm) m d a b rm true (sumEl rm) s
def execVredmax (m : Mods) (d a b : Reg) (s : State) : Host.Outcome State Fault Refusal :=
  reduce (.vredmax m d a b) m d a b .rne false maxEl s
def execVredmin (m : Mods) (d a b : Reg) (s : State) : Host.Outcome State Fault Refusal :=
  reduce (.vredmin m d a b) m d a b .rne false minEl s

/-- The root of a binary tree over the leaves: `k` free values choose which two of the remaining values add next (R149; log 8). -/
def treeSum (c : Ctx) (rm : Rm) (k : Nat) : Nat → List Nat → Fl → Nat × Fl
  | 0, l, fl => (l.headD 0, fl)
  | n + 1, l, fl =>
    match l with
    | [] => (0, fl)
    | [v] => (v, fl)
    | l =>
      let r := Config.treeSeed (k + n)
      let i := r % l.length
      let rest := l.eraseIdx i
      let j := r / l.length % rest.length
      let (v, g) := sumEl rm c (l.getD i 0) (rest.getD j 0)
      treeSum c rm k n (v :: rest.eraseIdx j) (fl ||| g)

/-- The sum of the elements before the first reserved code or before the element at which the step ends, and what stops it there. -/
def execVredsumu (m : Mods) (d a b : Reg) (rm : Rm) (s : State) : Host.Outcome State Fault Refusal :=
  let i : Instr := .vredsumu m d a b rm
  issue i s fun s => do
    trapIf (s.cx.fmt.intClass && rm != .rne) .illEnc i.tval s
    if s.cx.start ≥ s.cx.vlN then pure (.adv s.vdone)
    else do
      let s := s.redBegin b
      let c := s.cx
      let es := c.elems m
      let accBad := isNar c.fmt c.vredN
      let good := es.takeWhile fun e => !s.cutsAt e && !accBad && !isNar c.fmt (c.el a e)
      let n := good.length
      let (v, fl) := treeSum c rm s.free n (c.vredN :: good.map fun e => c.el a e) 0
      let s := State.upd { s with free := s.free + n } fun c => (c.setVred v).addFlags fl
      match es.drop n with
      | [] => pure (.adv (s.redEnd d false))
      | e :: _ =>
        match if s.cutsAt e then .error (.wait s) else s.redCheck (s.cx.el a e) s.cx.vredN with
        | .error x => .error (x.at s.cx.vstart (s.startAt e))
        | .ok () => pure (.adv (s.redEnd d false))

/-! ### vcompress and vexpand (R186) -/

def Ctx.movedN (c : Ctx) : Nat := c.vred.toNat
/-- vred counts from 0 when START is 0 (R186); an instruction with START at or above vl writes nothing (R130; DEDUCED, log 44). -/
def State.countBegin (s : State) : State :=
  if s.cx.start = 0 ∧ 0 < s.cx.vlN then s.upd fun c => { c with vred := 0 } else s

def execVcompress (m : Mods) (d a : Reg) (s : State) : Host.Outcome State Fault Refusal :=
  let i : Instr := .vcompress m d a
  issue i s fun s => do
    operandTrapIf i (d == a) s
    vector m s.countBegin fun s e => .ok (s.upd fun c =>
      let k := c.movedN
      let c' := if k < vlmax c.fmt.sew then c.setEl d k (c.el a e) else c
      { c' with vred := c.vred + 1 })

def execVexpand (m : Mods) (d a : Reg) (s : State) : Host.Outcome State Fault Refusal :=
  let i : Instr := .vexpand m d a
  issue i s fun s => do
    operandTrapIf i (d == a) s
    vector m s.countBegin fun s e => .ok (s.upd fun c =>
      let k := c.movedN
      { c.setEl d e (if k < vlmax c.fmt.sew then c.el a k else 0) with vred := c.vred + 1 })

end Sys2Proof.Machine
end

