-- ==== Sys2Proof/Machine/Chain.lean ====
section
/-! DEFINITION. What an instruction in flight still has to read and to write, and how far one that issues past it may go (R126, R158,
R296, R354). -/

namespace Sys2Proof.Machine

/-! ### What an instruction reads and writes -/

/-- Some bytes of a brick: the brick, the first byte, and the byte after the last. -/
abbrev Span := Nat × Nat × Nat

/-- Element `e` at width `w` of the bricks from `r` upwards. -/
def elemSpan (r w e : Nat) : Span :=
  let b := e * w / 8
  (r + b / 2048, b % 2048, b % 2048 + max 1 (w / 8))

/-- A brick as a whole. -/
def wholeSpan (r : Nat) : Span := (r, 0, 2048)

def Span.meets (a b : Span) : Bool := a.1 == b.1 && decide (a.2.1 < b.2.2 ∧ b.2.1 < a.2.2)
def meetAny (l : List Span) (a : Span) : Bool := l.any (Span.meets a)

/-- Memory that an instruction accesses: the space, the size, and the address of each element; none for MEM faces, whose places depend
on the quires. `acquires`: each load is an acquire (R287). -/
structure MemUse where
  at_ : Option (Space × Nat × (Nat → Word)) := none
  writes : Bool := false
  acquires : Bool := false

/-- What an instruction reads and writes. `reads` and `writes` say it element by element; `all` and `out` are bricks that it reads or
writes in another order. -/
structure Uses where
  reads : Nat → List Span := fun _ => []
  writes : Nat → List Span := fun _ => []
  all : List Nat := []
  out : List Nat := []
  xs : List Reg := []
  xw : List Reg := []
  ps : List Reg := []
  pw : List Reg := []
  tiles : List Nat := []
  mem : Option MemUse := none
  spine : Bool := false
  matrix : Bool := false

/-- The bricks of the quire of a source read at a nonzero offset (R126). -/
def Ctx.quireBricks (c : Ctx) (r : Reg) : List Nat := (List.range 64).filter fun d => c.sameQuire r.toNat d

/-- Sources read element by element, or the quires of those read at an offset; with an offset the faces may read memory (R124). -/
def Ctx.sources (c : Ctx) (srcs : List (Reg × Off)) : Uses :=
  let plain := (srcs.filter fun q => q.2 == {}).map Prod.fst
  let moved := (srcs.filter fun q => q.2 != {}).map Prod.fst
  { reads := fun e => plain.map fun r => elemSpan r.toNat c.fmt.sew e
    all := moved.flatMap c.quireBricks
    mem := if moved.isEmpty then none else some {} }

/-- The destination brick, written element by element. -/
def Ctx.into (c : Ctx) (d : Reg) (u : Uses) : Uses := { u with writes := fun e => [elemSpan d.toNat c.fmt.sew e] }

/-- The scalar that a source names. -/
def srcRegs : Src → List Reg
  | .reg r => [r]
  | .lit _ => []

/-- A vector load or store of a brick, at the addresses of its elements. -/
def Ctx.access (c : Ctx) (d : Reg) (store : Bool) (sp : Space) (xs : List Reg) (all : List Nat) (acquires : Bool) (addr : Nat → Word) :
    Uses :=
  let el : Nat → List Span := fun e => [elemSpan d.toNat c.fmt.sew e]
  { reads := if store then el else fun _ => []
    writes := if store then fun _ => [] else el
    all := all, xs := xs
    mem := some ⟨some (sp, max 1 (c.fmt.sew / 8), addr), store, acquires⟩ }

/-- A spine instruction: it waits for the whole of its sources (R158). -/
def spineOn (all : List Reg) : Uses := { all := all.map fun r => r.toNat, spine := true }

/-- What a recorded instruction reads and writes beside its guard; none for one that other instructions do not pass. -/
def Ctx.bodyUses (c : Ctx) (i : Instr) : Option Uses :=
  let w := c.fmt.sew
  match i with
  | .vadd m d a b | .vsub m d a b | .vand m d a b | .vor m d a b | .vxor m d a b | .vshl m d a b | .vshr m d a b | .vsra m d a b
  | .vmin m d a b | .vmax m d a b | .vmul m d a b | .vmulh m d a b | .vsadd m d a b | .vssub m d a b | .vfmin m d a b
  | .vfmax m d a b => some (c.into d (c.sources [(a, m.oa), (b, m.ob)]))
  | .vfadd m d a b _ | .vfsub m d a b _ | .vfmul m d a b _ | .vfdiv m d a b _ =>
    some (c.into d (c.sources [(a, m.oa), (b, m.ob)]))
  | .vfsgn m d a b _ => some (c.into d (c.sources [(a, m.oa), (b, m.ob)]))
  | .vfma m d a b k _ | .vfnma m d a b k _ => some (c.into d (c.sources [(a, m.oa), (b, m.ob), (k, m.oc)]))
  | .vfsqrt m d a _ => some (c.into d (c.sources [(a, m.oa)]))
  | .vexp2 m d a | .vlog2 m d a | .vrcp m d a | .vrsqrt m d a | .vsinpi m d a | .vcospi m d a | .vtanh m d a | .vsigm m d a =>
    some (c.into d (c.sources [(a, m.oa)]))
  | .vcmp m d a b _ => some { c.sources [(a, m.oa), (b, m.ob)] with pw := [d] }
  | .vfcmp m d a b _ => some { c.sources [(a, m.oa), (b, m.ob)] with pw := [d] }
  | .vsel m d a b p => some { c.into d (c.sources [(a, m.oa), (b, m.ob)]) with ps := [p] }
  | .vbcast _ d a => some { c.into d {} with xs := srcRegs a }
  | .vid _ d _ => some (c.into d {})
  | .vrand _ d a b _ | .vrandU _ d a b _ => some { c.into d {} with xs := [a, b] }
  | .vcvt _ d a sf _ => some (c.into d { reads := fun e => [elemSpan a.toNat sf.sew e] })
  | .vpack _ d a b _ =>
    let sw := ((packPartner c.fmt).map Fmt.sew).getD w
    some (c.into d { reads := fun e =>
      if e < c.cap / 2 then [elemSpan a.toNat sw e] else [elemSpan b.toNat sw (e - c.cap / 2)] })
  | .vunpack _ d a half bf _ =>
    let sw := ((unpackPartner bf c.fmt).map Fmt.sew).getD w
    some (c.into d { reads := fun e => [elemSpan a.toNat sw (e + if half then c.cap / 2 else 0)] })
  | .vdot _ d a b _ => some { all := [d, a, b].map fun r => r.toNat, out := [d.toNat] }
  | .vld m d a _ sp wm disp => some (c.access d false sp [a] [] wm.isSome (contiguous (c.ea m a disp 128) w))
  | .vldro m d a _ disp => some (c.access d false .g [a] [] false (contiguous (c.ea m a disp 128) w))
  | .vst m d a _ sp disp | .vstu m d a _ sp disp => some (c.access d true sp [a] [] false (contiguous (c.ea m a disp 128) w))
  | .vlds m d a b _ sp disp => some (c.access d false sp [a, b] [] false (c.strided (c.ea m a disp 128) (c.readX b)))
  | .vsts m d a b _ sp disp => some (c.access d true sp [a, b] [] false (c.strided (c.ea m a disp 128) (c.readX b)))
  | .vldx _ d a b _ sp w64 sh =>
    some (c.access d false sp [a] ((List.range (c.idxGroup w64)).map (b.toNat + ·)) false (c.indexed a b w64 sh))
  | .vstx _ d a b _ sp w64 sh =>
    some (c.access d true sp [a] ((List.range (c.idxGroup w64)).map (b.toNat + ·)) false (c.indexed a b w64 sh))
  | .vperm _ d a b => some (c.into d (spineOn [a, b]))
  | .vrot _ d a b => some { c.into d (spineOn [a]) with xs := [b] }
  | .vxget _ d a b => some { spineOn [a] with xs := [b], xw := [d] }
  | .vxput _ d a b => some { spineOn [] with out := [d.toNat], xs := [a, b] }
  | .vredsum _ d a b _ | .vredsumu _ d a b _ => some { spineOn [a, b] with out := [d.toNat] }
  | .vredmax _ d a b | .vredmin _ d a b => some { spineOn [a, b] with out := [d.toNat] }
  | .vscan _ d a b _ => some (c.into d (spineOn [a, b]))
  | .vcompress _ d a => some { spineOn [a] with out := [d.toNat] }
  | .vexpand _ d a => some (c.into d (spineOn [a]))
  | .mrd _ d a b => some { c.into d {} with xs := [b], tiles := [a.toNat], matrix := true }
  | .mwr _ d a b => some { all := [a.toNat], xs := [b], tiles := [d.toNat], matrix := true }
  | _ => none

/-- The same with the predicate of its guard. -/
def Ctx.uses (c : Ctx) (i : Instr) : Option Uses := (c.bodyUses i).map fun u => { u with ps := i.attr.mods.g :: u.ps }

/-- Elements of an element group of an instruction, which a conversion counts at the wider of its widths (R157). -/
def Ctx.groupOf (c : Ctx) (i : Instr) : Nat :=
  let other := match i with
    | .vcvt _ _ _ sf _ => sf.sew
    | .vpack _ _ _ _ _ => ((packPartner c.fmt).map Fmt.sew).getD 0
    | .vunpack _ _ _ _ bf _ => ((unpackPartner bf c.fmt).map Fmt.sew).getD 0
    | _ => 0
  1024 / max c.fmt.sew other

/-- The scalars and the predicates that an instruction of the majors 0x00 to 0x1D reads and writes: scalars read, predicates read,
scalars written, predicates written; none for any other instruction (R86 to R96). -/
def scalarUse (i : Instr) : Option (List Reg × List Reg × List Reg × List Reg) :=
  let g := [i.attr.mods.g]
  match i with
  | .add _ d a b | .sub _ d a b | .and _ d a b | .or _ d a b | .xor _ d a b | .andn _ d a b | .shl _ d a b | .shr _ d a b
  | .sra _ d a b | .rol _ d a b | .min _ d a b | .minu _ d a b | .max _ d a b | .maxu _ d a b => some (a :: srcRegs b, g, [d], [])
  | .addImm d a _ | .andImm d a _ | .orImm d a _ | .xorImm d a _ => some ([a], g, [d], [])
  | .shlImm d a _ | .shrImm d a _ | .sraImm d a _ | .rolImm d a _ => some ([a], g, [d], [])
  | .mul _ d a b | .mulh _ d a b | .mulhu _ d a b | .div _ d a b | .divu _ d a b | .rem _ d a b | .remu _ d a b =>
    some ([a, b], g, [d], [])
  | .clz _ d a | .ctz _ d a | .popc _ d a => some ([a], g, [d], [])
  | .lea _ d a b _ _ => some ([a, b], g, [d], [])
  | .sext d a _ | .zext d a _ => some ([a], g, [d], [])
  | .li _ d _ => some ([], g, [d], [])
  | .lih _ d _ => some ([d], g, [d], [])
  | .cmp _ d a b _ => some (a :: srcRegs b, g, [], [d])
  | .sel _ d a b p => some ([a, b], p :: g, [d], [])
  | .pand _ d a b | .por _ d a b | .pxor _ d a b => some ([], a :: b :: g, [], [d])
  | .pnot _ d a => some ([], a :: g, [], [d])
  | .pget _ d a b => some ([b], a :: g, [d], [])
  | .pset _ d a b => some ([a, b], g, [], [d])
  | .pcount _ d a | .pfirst _ d a => some ([], a :: g, [d], [])
  | _ => none

/-! ### An instruction in flight -/

/-- What an instruction in flight still has to do, from element `start` on: bricks to read and to write, scalars, predicates and tiles,
and the 16-byte chunks of its accesses that are to come, none where they are not known. `pass` counts the passes of the nest before
it. -/
structure Still where
  pc : Word
  len : Nat
  start : Nat
  pass : Nat
  reads : List Span
  writes : List Span
  all : List Nat
  xs : List Reg
  xw : List Reg
  ps : List Reg
  pw : List Reg
  tiles : List Nat
  mem : Option (MemUse × Option (Space × List Nat))
  spine : Bool
  matrix : Bool

/-- Add bytes to those of their brick. -/
def addSpan : List Span → Span → List Span
  | [], x => [x]
  | y :: l, x => if y.1 = x.1 then (y.1, min y.2.1 x.2.1, max y.2.2 x.2.2) :: l else y :: addSpan l x

/-- The bytes of the elements from `start` to `n − 1`, brick by brick. -/
def spansFrom (f : Nat → List Span) (start n : Nat) : List Span :=
  ((List.range n).drop start).foldl (fun l e => (f e).foldl addSpan l) []

/-- The 16-byte chunks of the accesses of the active elements from `start` on; none when one of them does not translate. -/
def State.chunksFrom (s : State) (c : Ctx) (m : Mods) (u : MemUse) (start : Nat) : Option (Space × List Nat) :=
  match u.at_ with
  | none => none
  | some (sp, n, addr) =>
    let es := ((List.range c.vlN).drop start).filter fun e => c.active m e
    let chunk (e : Nat) : Option Nat :=
      match s.resolve c sp (if u.writes then .store else .load) (addr e) n with
      | .ok (_, p) => some (((p.spots n).2.headD 0) / 16)
      | .error _ => none
    (es.mapM chunk).map fun l => (sp, l.eraseDups)

/-- The instruction `i` of the context in focus in flight, before element `start`. -/
def State.inFlight (s : State) (i : Instr) (u : Uses) (start pass : Nat) : Still :=
  let c := s.cx
  { pc := c.pc, len := i.bytes, start := start, pass := pass
    reads := u.all.map wholeSpan ++ spansFrom u.reads start c.vlN
    writes := u.out.map wholeSpan ++ spansFrom u.writes start c.vlN
    all := u.all, xs := u.xs, xw := u.xw, ps := u.ps, pw := u.pw, tiles := u.tiles
    mem := u.mem.map fun m => (m, s.chunksFrom c i.attr.mods m start)
    spine := u.spine, matrix := u.matrix }

/-- Two lists of registers have one in common beside number 0, which nothing writes. -/
def shareReg (l k : List Reg) : Bool := l.any fun r => r != 0 && k.contains r

/-- Accesses of an older instruction that have to come before those of a younger one: the older acquires, or one of the two writes
where the other may access (R287, R296, R301). -/
def memOrders (old new : MemUse × Option (Space × List Nat)) : Bool :=
  old.1.acquires || ((old.1.writes || new.1.writes) &&
    match old.2, new.2 with
    | some (sp, l), some (sq, k) => sp == sq && l.any k.contains
    | _, _ => true)

/-- The instruction has to wait for the whole of an older one: for a scalar, a predicate, a tile, its turn in the matrix queue or
memory; for bricks that it does not
take element by element, and for the quires that the older one reads at an offset (R126, R158). -/
def Still.holdsBack (o : Still) (new : Uses) (mem : Option (MemUse × Option (Space × List Nat))) (n : Nat) : Bool :=
  shareReg new.xs o.xw || shareReg new.xw (o.xs ++ o.xw) || shareReg new.ps o.pw || shareReg new.pw (o.ps ++ o.pw) ||
  new.tiles.any o.tiles.contains || (new.matrix && o.matrix) ||
  (new.all.any fun r => meetAny o.writes (wholeSpan r)) ||
  (new.out.any fun r => meetAny (o.writes ++ o.reads) (wholeSpan r)) ||
  ((spansFrom new.writes 0 n).any fun x => o.all.contains x.1) ||
  match o.mem, mem with
  | some p, some q => memOrders p q
  | _, _ => false

/-- How far a younger instruction may go: to its first element that reads bytes still to be written, or writes bytes still to be read or
written (R158). -/
def Still.limit (o : Still) (new : Uses) (mem : Option (MemUse × Option (Space × List Nat))) (n : Nat) : Nat :=
  if o.holdsBack new mem n then 0
  else ((List.range n).find? fun e =>
    (new.reads e).any (meetAny o.writes) || (new.writes e).any (meetAny (o.writes ++ o.reads))).getD n

/-- How far the instruction `i` of the context in focus may go past those in flight. -/
def State.limitOf (s : State) (l : List Still) (i : Instr) (u : Uses) : Nat :=
  let mem := u.mem.map fun m => (m, s.chunksFrom s.cx i.attr.mods m 0)
  l.foldl (fun k o => min k (o.limit u mem s.cx.vlN)) (max 1 s.cx.vlN)

/-- A scalar instruction completes past those in flight: it writes nothing that one of them reads (R354), and neither reads nor
writes what one of them writes. -/
def scalarPasses (l : List Still) (u : List Reg × List Reg × List Reg × List Reg) : Bool :=
  l.all fun o => !(shareReg u.2.2.1 (o.xs ++ o.xw) || shareReg u.2.2.2 (o.ps ++ o.pw) || shareReg u.1 o.xw || shareReg u.2.1 o.pw)

/-! ### Going on past what stands still (R158, R354; log 14) -/

/-- The context stands still within the instruction at pc. -/
def Ctx.standsIn (c : Ctx) (id : Nat) (pc : Word) : Bool :=
  c.id == id && c.pc == pc && c.phase == .running && match c.stall with
    | .elem _ => true
    | _ => false

/-- The context has completed the instruction at pc, and nothing else has happened to it. -/
def Ctx.wentOn (c : Ctx) (old : Ctx) (i : Instr) : Bool :=
  c.id == old.id && c.phase == .running && c.stall == .none && c.status == old.status && c.replay.isNone &&
  c.pc == (old.advance i.bytes).pc

/-- How the instruction at pc went that is to stop before an element: it stands within, it has completed, or neither. -/
inductive Went where
  | stands (t : State)
  | ends (t : State)
  | no

/-- Run an instruction, to stop before the element group of element `e`. -/
def State.runTo (s : State) (i : Instr) (e : Nat) (run : Instr → State → Host.Outcome State Fault Refusal) : Went :=
  let group := s.cx.groupOf i
  match run i { s with cut := some (e / group * group) } with
  | .next t =>
    let t := { t with cut := none }
    if t.cx.standsIn s.cx.id s.cx.pc then .stands t else if t.cx.wentOn s.cx i then .ends t else .no
  | _ => .no

/-- The passes of a nest that end between two states of its context. -/
def passesOver (c d : Ctx) : Nat := if c.press.map Nest.idx == d.press.map Nest.idx then 0 else 1

/-- Past an instruction that stands still, to the next one. -/
def Ctx.past (c : Ctx) (len : Nat) : Ctx := { c with stall := .none, vstart := 0 }.advance len

/-- The instructions after those that stand still: `s` stands before the next one, `best` where the last of them stands. A scalar one
completes; a recorded one begins, to stop before the next of `fs`, and stands still or completes. Instructions that complete after
the last one that stands still have not been issued. -/
def State.follow (run : Instr → State → Host.Outcome State Fault Refusal) :
    Nat → List Nat → State → Nat → List Still → State → State × List Still
  | 0, _, _, _, l, best => (best, l)
  | fuel + 1, fs, s, pass, l, best =>
    if s.cx.press.isSome != best.cx.press.isSome || decide (pass > 3) || s.fetchMeets.isSome then (best, l)
    else match s.fetch with
    | .error _ => (best, l)
    | .ok (s, i) =>
      let goes (t : State) (fs : List Nat) : State × List Still :=
        State.follow run fuel fs t (pass + passesOver s.cx t.cx) l best
      match scalarUse i with
      | some u =>
        if !scalarPasses l u then (best, l)
        else match s.runTo i 0 run with
          | .ends t => goes t fs
          | _ => (best, l)
      | none =>
        match fs, s.cx.uses i with
        | f :: fs, some u =>
          if decide (l.length ≥ 4) || (u.spine && l.any Still.spine) then (best, l)
          else
            let limit := s.limitOf l i u
            let e := min f limit
            -- held back whole, it has issued and reads and writes nothing
            let stand (t : State) : State × List Still :=
              let t := if limit = 0 then { s with cx := { s.cx with stall := .elem i.bytes } } else t
              let d := t.cx.past i.bytes
              State.follow run fuel fs { t with cx := d } (pass + passesOver t.cx d) (l ++ [s.inFlight i u t.cx.start pass]) t
            match s.runTo i e run with
            | .stands t => stand t
            | .ends t => if limit = 0 then stand t else goes t fs
            | .no => (best, l)
        | _, _ => (best, l)

/-- What stands still as the replay that takes it up again: the records of R354, the oldest first. -/
def Ctx.standStill (c : Ctx) (prev : Word) (l : List Still) : Ctx :=
  match l.head?, l.getLast? with
  | some a, some b =>
    let rec_ (x : Still) : Word := mkRec x.start c.vtype c.vl (b.pass - x.pass) ((x.pc - a.pc).sshiftRight 2)
    let d := Ctx.loadRec { c with vstart := 0 } ⟨l.map rec_, a.pc, c.vl, c.vtype, [], b.pc + BitVec.ofNat 64 b.len⟩
    { d with stall := .again, prev := prev }
  | _, _ => c

end Sys2Proof.Machine
end

