-- ==== Sys2Proof/Machine/Control.lean ====
section
/-! DEFINITION. Branches, jumps, strip-mining, the press, yield and nop (R97 to R109). -/

namespace Sys2Proof.Machine

/-- The target of a relative transfer (R75). -/
def Ctx.target (c : Ctx) (disp : BitVec 32) : Word := c.pc + dispWords disp

def execBr (m : Mods) (disp : BitVec 32) (s : State) : Host.Outcome State Fault Refusal :=
  issue (.br m disp) s fun s => .ok (.to (s.cx.target disp) s)

def execJal (m : Mods) (d : Reg) (disp : BitVec 32) (s : State) : Host.Outcome State Fault Refusal :=
  let i : Instr := .jal m d disp
  issue i s fun s => .ok (.to (s.cx.target disp) (s.upd fun c => c.writeX d (c.pc + BitVec.ofNat 64 i.bytes)))

/-- The target is read before the link is written (R98). -/
def execJr (m : Mods) (d a : Reg) (s : State) : Host.Outcome State Fault Refusal :=
  let i : Instr := .jr m d a
  issue i s fun s => .ok (.to (s.cx.readX a) (s.upd fun c => c.writeX d (c.pc + BitVec.ofNat 64 i.bytes)))

def execJtab (m : Mods) (a : Reg) (n : BitVec 12) (disp : BitVec 32) (s : State) : Host.Outcome State Fault Refusal :=
  issue (.jtab m a n disp) s fun s =>
    let k := s.cx.readX a
    let base := s.cx.target disp
    if k.toNat ≥ n.toNat + 1 then .ok (.adv s)
    else do
      let (e, s) ← s.loadAt .l1 .g (base + 4 * k) 4 .sector
      pure (.to (base + 4 * sextN 32 e) s)

/-- No position below vl is set in the top of the mask stack (R100). -/
def Ctx.maskEmpty (c : Ctx) : Bool := (List.range c.vlN).all fun e => !c.maskTop.getLsbD e

def execBmz (m : Mods) (disp : BitVec 32) (s : State) : Host.Outcome State Fault Refusal :=
  issue (.bmz m disp) s fun s => .ok (if s.cx.maskEmpty then .to (s.cx.target disp) s else .adv s)
def execBmnz (m : Mods) (disp : BitVec 32) (s : State) : Host.Outcome State Fault Refusal :=
  issue (.bmnz m disp) s fun s => .ok (if s.cx.maskEmpty then .adv s else .to (s.cx.target disp) s)

/-- vl = Min(SC, CAP), which x(d) takes as well (R102, R103). -/
def Ctx.stripTo (c : Ctx) (d : Reg) (sc : Word) : Ctx :=
  let vl := BitVec.ofNat 64 (min sc.toNat c.cap)
  { c with strip := sc, vl := vl }.writeX d vl

def execStrip (m : Mods) (d a : Reg) (s : State) : Host.Outcome State Fault Refusal :=
  issue (.strip m d a) s fun s => .ok (.adv (s.upd fun c => c.stripTo d (c.readX a)))

def execSnext (m : Mods) (d : Reg) (disp : BitVec 32) (s : State) : Host.Outcome State Fault Refusal :=
  issue (.snext m d disp) s fun s =>
    let c := s.cx
    let sc := BitVec.ofNat 64 (c.strip.toNat - c.vl.toNat)
    if sc = 0 then .ok (.adv (s.upd fun c => { c with strip := 0 }.writeX d 0))
    else .ok (.to (c.target disp) (s.upd fun c => c.stripTo d sc))

/-! ### The press (R104 to R108) -/

/-- The majors that a body may not contain (R107). -/
def bodyBarred (w0 : BitVec 32) : Bool :=
  let op := (w0.extractLsb' 2 8).toNat
  decide ((0x20 ≤ op ∧ op ≤ 0x28) ∨ op = 0x54 ∨ (0xb8 ≤ op ∧ op ≤ 0xbf) ∨ (0xc8 ≤ op ∧ op ≤ 0xce))

/-- Fill the loop buffer with `n` instructions from `va`: their addresses and words, and the address after them (R106, R107). -/
def State.fill (s : State) : Nat → Word → Except (Cause × Word) (State × List (Word × BitVec 96) × Word)
  | 0, va => .ok (s, [], va)
  | n + 1, va =>
    match s.fetchWord va with
    | .error e => .error e
    | .ok (s1, w0) =>
      match Form.ofCode (w0.extractLsb' 0 2) with
      | none => .error (.illLen, va)
      | some f =>
        match s1.fetchRest f va with
        | .error e => .error e
        | .ok (s2, w1, w2) =>
          match s2.fill n (va + BitVec.ofNat 64 (4 * f.words)) with
          | .error e => .error e
          | .ok (s3, body, after) => .ok (s3, (va, w2 ++ (w1 ++ w0)) :: body, after)

/-- What the fill meets: it waits, or traps with `from` the press (R107). -/
def fillFree (s : State) (r : Option (Word × Bool)) : Run Unit :=
  match fetchFree s r with
  | .error (.trap e v s) => .error (.trap e v (s.upd fun c => { c with prev := c.pc }))
  | x => x

def execPress (m : Mods) (len1 a : Reg) (k : BitVec 32) (s : State) : Host.Outcome State Fault Refusal :=
  let i : Instr := .press m len1 a k
  issue i s fun s => do
    let c := s.cx
    let addr := (if a = 0 then c.pc else c.readX a) + k.signExtend 64
    trapIf (addr.toNat % 128 != 0) .align addr s
    let (r, s) ← s.loadAt .l1 .g addr 128 .sector
    let r : BitVec 1024 := BitVec.ofNat 1024 r
    let first := c.pc + BitVec.ofNat 64 i.bytes
    fillFree s (if s.noClaims && !c.stall.lost then none else s.runMeets (len1.toNat + 1) first)
    match s.fill (len1.toNat + 1) first with
    | .error (e, v) => .error (.trap e v (s.upd fun c => { c with prev := c.pc }))
    | .ok (s, body, after) =>
      trapIf (!recordOk r) .illOperand addr s
      match body.find? fun b => bodyBarred (b.2.setWidth 32) with
      | some b => .error (.trap .illOperand b.1 s)
      | none =>
        if (List.range (nestLevels r)).any fun l => nestCount r l == 0 then pure (.to after (s.upd fun c => { c with press := none }))
        else
          let n : Nest := ⟨r, List.replicate (nestLevels r) 0, (List.range (nestStreams r)).map fun j => s.cx.readX (nestReg r j),
            body, after, 0, false⟩
          pure (.as (s.upd fun c => { (c.jump (body.headD (after, 0)).1).setStreams n with press := some n }))

/-- The issue slot goes to the other context; the model has no issue slots (R109; log 5). -/
def execYield (s : State) : Host.Outcome State Fault Refusal := issue .yield s fun s => .ok (.adv s)

def execNop (s : State) : Host.Outcome State Fault Refusal := issue .nop s fun s => .ok (.adv s)

end Sys2Proof.Machine
end

