-- ==== Sys2Proof/Machine/Engine.lean ====
section
/-! DEFINITION. The copy and gather engines: command records, channels, their instructions, and the run of a command (R264 to
R276, R384). -/

namespace Sys2Proof.Machine

/-! ### The command record (R265 to R269, R384) -/

/-- `n` bytes of a record at offset `o`. -/
def rb (r : BitVec 1024) (o n : Nat) : Nat := (r.extractLsb' (8 * o) (8 * n)).toNat
def recLevels (r : BitVec 1024) : Nat := rb r 0x1c 1
/-- N0 upwards, one count for each level. -/
def recCounts (r : BitVec 1024) : List Nat := (List.range (min 6 (recLevels r))).map fun k => rb r (0x10 + 2 * k) 2
def recTotal (r : BitVec 1024) : Nat := (recCounts r).foldl (· * ·) 1
/-- The strides of the source stream (0) or the destination stream (1), level 0 first. -/
def recStrides (r : BitVec 1024) (dst : Nat) : List Int :=
  (List.range (min 6 (recLevels r))).map fun k => (r.extractLsb' (8 * (0x20 + 8 * k + 4 * dst)) 32).toInt
def recSrcSpace (r : BitVec 1024) : Nat := rb r 0x1d 1 % 4
def recDstSpace (r : BitVec 1024) : Nat := rb r 0x1d 1 / 4 % 4
def recConv (r : BitVec 1024) : Bool := rb r 0x50 1 / 128 == 1
def recSfmt (r : BitVec 1024) : Fmt := Fmt.ofCode (BitVec.ofNat 4 (rb r 0x50 1))
def recDfmt (r : BitVec 1024) : Fmt := Fmt.ofCode (BitVec.ofNat 4 (rb r 0x51 1))
/-- Bytes of a source element. -/
def recSize (r : BitVec 1024) : Nat := 2 ^ rb r 0x1e 1
/-- Bytes of a destination element. -/
def recDstSize (r : BitVec 1024) : Nat := if recConv r then (recDfmt r).sew / 8 else recSize r
def recRm (r : BitVec 1024) : Rm :=
  match rb r 0x52 1 with
  | 1 => .rup | 2 => .rdn | 3 => .rtz
  | _ => .rne
/-- DIR: the index moves the destination. -/
def recDir (r : BitVec 1024) : Bool := rb r 0x54 1 % 2 == 1
def recShift (r : BitVec 1024) : Nat := rb r 0x54 1 / 2 % 8
/-- Bytes of an index. -/
def recIndexSize (r : BitVec 1024) : Nat := if rb r 0x54 1 / 16 % 2 = 1 then 8 else 4
/-- The entries that SUCC names; 0xFF and any other number above 63 name none (R279). -/
def recSucc (r : BitVec 1024) : List Nat := ((List.range 4).map fun k => rb r (0x74 + k) 1).filter fun k => decide (k < 64)

/-- The 4-bit formats, which no engine converts (R268). -/
def nibbleFmt (f : Fmt) : Bool := f.sew == 4

/-- The offsets of nonzero bytes from `o` to `o + n - 1`. -/
def nonzeroAt (r : BitVec 1024) (o n : Nat) : List Nat := ((List.range n).map (o + ·)).filter fun k => rb r k 1 != 0

/-- The lowest of the bytes that make a record invalid, for the gather engine when `gt` (R267 to R269, R384). -/
def recordBad (gt : Bool) (r : BitVec 1024) : Option Nat :=
  let l := recLevels r
  let net := recSrcSpace r == 3 || recDstSpace r == 3
  let conv := recConv r
  let when (b : Bool) (o : Nat) : List Nat := if b then [o] else []
  let bad :=
    when (recSrcSpace r == 3 && rb r 5 1 % 16 != 0) 0x05
    ++ when (recDstSpace r == 3 && rb r 0x0d 1 % 16 != 0) 0x0d
    ++ when (decide (l < 1 ∨ 6 < l)) 0x1c
    ++ (((List.range 6).drop l).flatMap fun k => nonzeroAt r (0x10 + 2 * k) 2 ++ nonzeroAt r (0x20 + 8 * k) 8)
    ++ when (decide (recTotal r ≥ 2 ^ 32)) 0x10
    ++ when (rb r 0x1d 1 / 16 != 0 || (gt && net) || (recSrcSpace r == 3 && recDstSpace r == 3)) 0x1d
    ++ when (decide (rb r 0x1e 1 > 4)) 0x1e
    ++ nonzeroAt r 0x1f 1
    ++ when (rb r 0x50 1 / 16 % 8 != 0 || (conv && (net || nibbleFmt (recSfmt r)))) 0x50
    ++ when (rb r 0x51 1 / 16 != 0 || (conv && nibbleFmt (recDfmt r))) 0x51
    ++ when (decide (rb r 0x52 1 ≥ 4)) 0x52
    ++ (if conv then when (recSize r != (recSfmt r).sew / 8) 0x1e else nonzeroAt r 0x50 3)
    ++ when (rb r 0x53 1 / 4 != 0) 0x53
    ++ when (rb r 0x54 1 / 32 != 0 || decide (recShift r > 4)) 0x54
    ++ nonzeroAt r 0x55 11
    ++ nonzeroAt r 0x68 8
    ++ (if gt then (List.range 6).flatMap fun k => nonzeroAt r (0x20 + 8 * k + if recDir r then 4 else 0) 4
      else nonzeroAt r 0x54 1 ++ nonzeroAt r 0x60 8)
  bad.min?

/-! ### Running a command (R266 to R268, R384) -/

/-- Why a command stops: a faulting iteration, or a held row in the way of an access (R234): the command then has not begun
(log 16). -/
inductive EngStop where
  | fault (c : Cause) (addr : Word)
  | wait

abbrev EngRun (α : Type) := Except EngStop α

/-- The indices of the iteration with linear number `t`, i0 fastest. -/
def digits : List Nat → Nat → List Nat
  | [], _ => []
  | n :: ns, t => t % n :: digits ns (t / n)

/-- A stream's address at an iteration: base plus the strides. -/
def recAddr (base : Word) (idx : List Nat) (strides : List Int) : Word :=
  base + BitVec.ofInt 64 ((idx.zipWith (fun (i : Nat) (k : Int) => (i : Int) * k) strides).sum)

/-- The context for whom a channel's commands run: s: and c: of a suspended task are those of the slot that it used (R324). -/
def State.engineCtx (s : State) (c : Ctx) : Ctx :=
  if c.phase != .parked then c
  else
    match s.ctxs.find? fun d => d.resident && d.coreid == c.coreid && d.slot == c.slot with
    | some d => { d with ptbase := c.ptbase, status := c.status }
    | none => { c with scrLog := 0, cavepart := 0 }

/-- Resolve an engine's access to `n` bytes: the checks of R188, R196, R197, R364 and R381. `gone`: its peer accesses get no
completion (R383). An access of c: space while LOST is set posts CAVE_LOST (R270, R364; DESIGN CHOICE, log 96). -/
def State.engPlace (s : State) (c : Ctx) (gone : Bool) (sp : Nat) (acc : Acc) (va : Word) (n : Nat) : EngRun (State × Place) :=
  let space : Space := match sp with | 0 => .g | 1 => .s | _ => .c
  match s.resolve c space acc va n with
  | .error (e, v) => .error (.fault e v)
  | .ok (s', p) =>
    match s.walkMeets { c with stall := if gone then .peerLost 0 else .none } space acc va n with
    | .lost => .error (.fault .dataAccess va)
    | .wait => .error .wait
    | .free => if p.inReg || (gone && p.inPeer) then .error (.fault .dataAccess va) else .ok (s', p)

/-- Read `n` bytes for an engine, past the L1 of its core; it waits for a held layer as any agent does (R234). -/
def State.engRead (s : State) (c : Ctx) (gone : Bool) (sp : Nat) (va : Word) (n : Nat) : EngRun (Nat × State) := do
  let (s', p) ← s.engPlace c gone sp .load va n
  if s.poisoned p then .error (.fault .dataLost va)
  else if s.layerWaits none p then .error .wait
  else pure (s'.loadPlace c .cave .sector p n)

/-- The queue pair of a network address (R384). -/
def netQp (va : Word) : BitVec 16 := va.extractLsb' 44 16

/-- The element of an iteration, read from its source. -/
def State.engSource (s : State) (c : Ctx) (gone : Bool) (r : BitVec 1024) (va : Word) : EngRun (Nat × State) :=
  if recSrcSpace r = 3 then
    if s.dev.qps.contains (netQp va) then
      .ok (ofBytes ((List.range (recSize r)).map fun k => Config.remoteByte (s.free + k)), { s with free := s.free + recSize r })
    else .error (.fault .dataAccess va)
  else s.engRead c gone (recSrcSpace r) va (recSize r)

/-- An engine's write, performed: no copy of a peer line that it touches serves its tower any more. -/
def State.engWrite (s : State) (c : Ctx) (p : Place) (bs : List (Byte × Byte)) : State :=
  (s.writePlace c.id p bs).leavePeers (towerOf c.coreid) fun n => p.lines.contains n

/-- The offset that index `t` of a gather gives; a fault reports the entry's own address (R267). -/
def State.engIndex (s : State) (c : Ctx) (gone : Bool) (r : BitVec 1024) (t : Nat) : EngRun (Word × State) :=
  let iw := recIndexSize r
  let va := BitVec.ofNat 64 (rb r 0x60 8 + iw * t)
  match s.engRead c gone 0 va iw with
  | .ok (v, s) => .ok (sextN (8 * iw) v <<< recShift r, s)
  | .error (.fault e _) => .error (.fault e va)
  | .error .wait => .error .wait

/-- Where iteration `t` writes, as the index list of a scatter now stands. -/
def State.engDst (s : State) (c : Ctx) (gt : Bool) (r : BitVec 1024) (t : Nat) : Word :=
  let off : Word := if gt && recDir r then match s.engIndex c false r t with | .ok (v, _) => v | .error _ => 0 else 0
  recAddr (BitVec.ofNat 64 (rb r 8 8)) (digits (recCounts r) t) (recStrides r 1) + off

/-- What the command does to the 128-byte line of `va`, which iteration `t` writes: it writes less than the whole of it, it writes all
of it, or this is its last write there (R364). -/
def State.engCover (s : State) (c : Ctx) (gt : Bool) (r : BitVec 1024) (t : Nat) (va : Word) : Cover :=
  let on := ((List.range (recTotal r)).map fun k => (k, (s.engDst c gt r k).toNat)).filter fun q => q.2 / 128 == va.toNat / 128
  if (on.map Prod.snd).dedup.length * recDstSize r < 128 then .no
  else if (on.getLast?.map Prod.fst) == some t then .ends else .begun

/-- The element of iteration `t`, written to its destination; a poisoned line that the command writes whole keeps its marker until the
last of its writes there (R364). -/
def State.engSink (s : State) (c : Ctx) (gone : Bool) (r : BitVec 1024) (gt : Bool) (t : Nat) (va : Word) (v : Nat) : EngRun State :=
  let n := recDstSize r
  if recDstSpace r = 3 then
    if s.dev.qps.contains (netQp va) then
      .ok { s with dev := { s.dev with rdma := s.dev.rdma ++ (bytesOf n v).mapIdx fun k b => (va + BitVec.ofNat 64 k, b) } }
    else .error (.fault .dataAccess va)
  else do
    let (s', p) ← s.engPlace c gone (recDstSpace r) .store va n
    let cover : Cover := if s.poisoned p then s.engCover c gt r t va else .begun
    if cover = .no then .error (.fault .dataLost va)
    else match s.rowMeets none p with
      | .free =>
        let u := s'.engWrite c p (whole n v)
        pure (if cover = .ends then u.cleanse p.marks else u)
      | _ => .error .wait

/-- One iteration: the index, the alignment of both elements (DESIGN CHOICE, log 96), the read, the conversion, the write. -/
def State.engIter (s : State) (c : Ctx) (gone gt : Bool) (r : BitVec 1024) (t : Nat) : EngRun State := do
  let idx := digits (recCounts r) t
  let (off, s) ← (if gt then s.engIndex c gone r t else .ok ((0 : Word), s))
  let src := recAddr (BitVec.ofNat 64 (rb r 0 8)) idx (recStrides r 0) + if recDir r then 0 else off
  let dst := recAddr (BitVec.ofNat 64 (rb r 8 8)) idx (recStrides r 1) + if recDir r then off else 0
  if src.toNat % recSize r != 0 then .error (.fault .align src)
  else if dst.toNat % recDstSize r != 0 then .error (.fault .align dst)
  else
    let (v, s) ← s.engSource c gone r src
    let v := if recConv r then (convVal (recSfmt r) (recDfmt r) false (recRm r) 0 (fmtVal (recSfmt r) v)).1 else v
    s.engSink c gone r gt t dst v

/-- Iterations from `t` on, `n` of them; a fault answers its number (R266). Peer accesses get no completion from iteration `lost`
on (R383; log 77). -/
def State.engFrom (s : State) (c : Ctx) (gt : Bool) (r : BitVec 1024) (lost : Option Nat) :
    Nat → Nat → EngRun (State × Nat × Option (Cause × Word))
  | 0, t => .ok (s, t, none)
  | n + 1, t =>
    match s.engIter c (lost.any fun k => decide (k ≤ t)) gt r t with
    | .ok s' => s'.engFrom c gt r lost n (t + 1)
    | .error (.fault e v) => .ok (s, t, some (e, v))
    | .error .wait => .error .wait

/-- A whole command for context `c`: the state, the iterations performed or the failing one, and the fault. None while a held
row keeps one of its accesses waiting. `lost`: some peer access gets no completion, from a free iteration on. -/
def State.engRunAll (s : State) (c : Ctx) (gt lost : Bool) (r : BitVec 1024) : Option (State × Nat × Option (Cause × Word)) :=
  let s := if lost then { s with free := s.free + 1 } else s
  match s.engFrom c gt r (if lost then some (Config.lostFrom (s.free - 1)) else none) (recTotal r) 0 with
  | .ok x => some x
  | .error _ => none

/-- The scope of a command: at which a push of it releases and the epop of its result acquires (R271). -/
def recScope (r : BitVec 1024) : Scope :=
  let l := [recSrcSpace r, recDstSpace r]
  if l.any fun k => k == 0 || k == 3 then .sys else if l.contains 2 then .tow else .cor

/-! ### Channels (R264, R270, R275) -/

def Ctx.chan (c : Ctx) (gt : Bool) : Channel := if gt then c.gt else c.cp
def Ctx.setChan (c : Ctx) (gt : Bool) (h : Channel) : Ctx := if gt then { c with gt := h } else { c with cp := h }

/-- INFL: commands whose result is not posted. -/
def Channel.infl (h : Channel) : Nat := h.fifo.length + h.running.length

/-- estat of a channel. -/
def Channel.stat (h : Channel) : Word :=
  BitVec.ofNat 64 (h.seq.toNat * 2 ^ 32 + h.infl * 2 ^ 16 + h.ring.length * 2 ^ 8 + (16 - h.fifo.length))

/-- Push a record. -/
def Channel.push (h : Channel) (r : BitVec 1024) : Channel := { h with fifo := h.fifo ++ [⟨r, h.seq⟩], seq := h.seq + 1 }

/-- A push is a release: a peer store that was lost is reported at it; the command itself waits for the writes (R271, R383). -/
def State.pushRelease (s : State) : Run State :=
  match s.cx.lostStore with
  | some va => .error (.trap .dataAccess va (s.upd fun c => { c with lostStore := none }))
  | none => .ok s

/-- Record `j` of the bricks from v(a) upwards. -/
def Ctx.cmdRec (c : Ctx) (a : Reg) (j : Nat) : BitVec 1024 :=
  (c.v.toList.getD (a.toNat + j / 16) 0).extractLsb' (1024 * (j % 16)) 1024

def execEnq (m : Mods) (d a b : Reg) (gt : Bool) (s : State) : Host.Outcome State Fault Refusal :=
  issue (.enq m d a b gt) s fun s => do
    let j := s.cx.readX b
    trapIf (decide (j.toNat ≥ 16)) .illOperand j s
    let r := s.cx.cmdRec a j.toNat
    match recordBad gt r with
    | some o => .error (.trap .illOperand (BitVec.ofNat 64 o) s)
    | none =>
      let h := s.cx.chan gt
      waitIf (decide (h.fifo.length ≥ 16)) s
      let s ← s.pushRelease
      pure (.adv (s.upd fun c => (c.setChan gt (h.push r)).writeX d (h.seq.setWidth 64)))

/-- The pushes of enqb: commands `j` and on, with the bits set so far; after the first active command that finds no slot,
none is pushed. -/
def pushAll (r : Nat → BitVec 1024) (act : Nat → Bool) : Nat → Nat → Bool → Channel → Nat → Channel × Nat
  | 0, _, _, h, bits => (h, bits)
  | n + 1, j, full, h, bits =>
    if act j then
      if !full && decide (h.fifo.length < 16) then pushAll r act n (j + 1) full (h.push (r j)) (bits + 2 ^ j)
      else pushAll r act n (j + 1) true h bits
    else pushAll r act n (j + 1) full h bits

def execEnqb (m : Mods) (d a b : Reg) (gt : Bool) (s : State) : Host.Outcome State Fault Refusal :=
  issue (.enqb m d a b gt) s fun s => do
    let c := s.cx
    let n := c.readX b
    trapIf (decide (n.toNat < 1 ∨ 64 < n.toNat ∨ a.toNat + (n.toNat + 15) / 16 > 64)) .illOperand n s
    let act (j : Nat) : Bool := c.guardBit m j && c.maskTop.getLsbD j
    match ((List.range n.toNat).filter act).findSome? fun j => recordBad gt (c.cmdRec a j) with
    | some o => .error (.trap .illOperand (BitVec.ofNat 64 o) s)
    | none =>
      let s ← s.pushRelease
      let (h, bits) := pushAll (c.cmdRec a) act n.toNat 0 false (c.chan gt) 0
      pure (.adv (s.upd fun c => (c.setChan gt h).writeP d
        (BitVec.ofNat 4096 bits ||| (c.readP d &&& ~~~(BitVec.ofNat 4096 (2 ^ 64 - 1))))))

/-- Take the oldest element of a ring that has one, with the scope of its command. -/
def Ctx.takeResult (c : Ctx) (gt : Bool) (d : Reg) : Option (Scope × Ctx) :=
  let h := c.chan gt
  match h.ring with
  | [] => none
  | e :: es =>
    some (h.scopes.headD .sys,
      ((c.setChan gt { h with ring := es, scopes := h.scopes.tail }).writeX d (e.extractLsb' 0 64)).writeX (d + 1)
        (e.extractLsb' 64 64))

/-- epop takes an element and acquires at its command's scope (R271); with none it stalls, or traps when no command is in flight
(R274). -/
def State.pop (s : State) (d : Reg) (gt : Bool) : Run State :=
  match s.cx.takeResult gt d with
  | some (sc, c) => .ok (State.acquire { s with cx := c } sc)
  | none =>
    let h := s.cx.chan gt
    if h.infl = 0 then .error (.trap .illOperand h.stat s) else .error (.wait s)

def execEpop (m : Mods) (d : Reg) (gt : Bool) (s : State) : Host.Outcome State Fault Refusal :=
  issue (.epop m d gt) s fun s => (s.pop d gt).map .adv

def execEstat (m : Mods) (d : Reg) (gt : Bool) (s : State) : Host.Outcome State Fault Refusal :=
  issue (.estat m d gt) s fun s => .ok (.adv (s.upd fun c => c.writeX d (c.chan gt).stat))

/-- estat of a graph entry, for context `id`. -/
def GEntry.stat (e : GEntry) (id : Nat) : Word :=
  let st := match e.st with | .free => 0 | .waiting => 1 | .running => 2 | .done => 3 | .failed => 4
  if e.st == .free then 0
  else BitVec.ofNat 64 (e.pred * 2 ^ 16 + e.cause.toNat % 64 * 2 ^ 8 + (if e.owner == some (.ctx id) then 8 else 0) + st)

def execEstatN (m : Mods) (d a : Reg) (s : State) : Host.Outcome State Fault Refusal :=
  let i : Instr := .estatN m d a
  issue i s fun s => do
    let k := s.cx.readX a
    operandTrapIf i (decide (k.toNat ≥ 64)) s
    pure (.adv (s.upd fun c => c.writeX d (s.co.graph[Fin.ofNat 64 k.toNat].stat c.id)))

/-! ### The graph after a completion (R277, R279) -/

/-- An entry that waits, of that owner. -/
def GEntry.waitsFor (e : GEntry) (o : Option Owner) : Bool := e.st == .waiting && e.owner == o

abbrev Graph := Vector GEntry 64
def Graph.at (g : Graph) (k : Nat) : GEntry := g[Fin.ofNat 64 k]
def Graph.put (g : Graph) (k : Nat) (e : GEntry) : Graph := g.set (Fin.ofNat 64 k) e

/-- A node starts: RUNNING, or DONE at once when it is an event node; the successors that it has completed for. -/
def Graph.start (g : Graph) (k : Nat) : Graph × List Nat :=
  let e := g.at k
  if rb e.image 0x72 1 = 2 then (g.put k { e with st := .done }, recSucc e.image)
  else (g.put k { e with st := .running }, [])

/-- Decrement entries in order; an event node that starts completes for its own successors. -/
def Graph.decr (o : Option Owner) : Nat → Graph → List Nat → Graph
  | 0, g, _ => g
  | _, g, [] => g
  | fuel + 1, g, k :: ks =>
    let e := g.at k
    if !e.waitsFor o then Graph.decr o fuel g ks
    else
      let g := g.put k { e with pred := e.pred - 1 }
      if e.pred ≤ 1 then
        let (g, more) := g.start k
        Graph.decr o fuel g (more ++ ks)
      else Graph.decr o fuel g ks

/-- Waiting entries fail, and every waiting entry reached through them. -/
def Graph.fail (o : Option Owner) : Nat → Graph → List Nat → Graph
  | 0, g, _ => g
  | _, g, [] => g
  | fuel + 1, g, k :: ks =>
    let e := g.at k
    if e.waitsFor o then Graph.fail o fuel (g.put k { e with st := .failed }) (recSucc e.image ++ ks)
    else Graph.fail o fuel g ks

/-- More decrements or failures than one completion can cause. -/
def graphFuel : Nat := 300

/-- A predecessor of `o` has completed, or has faulted, for the entries named. -/
def Graph.after (g : Graph) (o : Option Owner) (ok : Bool) (succ : List Nat) : Graph :=
  if ok then Graph.decr o graphFuel g succ else Graph.fail o graphFuel g succ

/-! ### The engine's events (R270, R271, R276) -/

/-- A result element before its phase byte. -/
def resultElem (seq : BitVec 32) (t : Nat) (fault : Option (Cause × Word)) : BitVec 128 :=
  let (st, cause) := match fault with | some (c, _) => (1, c.code.toNat) | none => (0, 0)
  BitVec.ofNat 128 (st + cause * 2 ^ 8 + 0xff * 2 ^ 16 + seq.toNat * 2 ^ 32 + t % 2 ^ 32 * 2 ^ 64)

/-- The engine starts the head of the FIFO, at most four at once, and runs it; its accesses come after the context's earlier
writes (R271), and are the acquire at system scope of its push (R303, R308). -/
def execEngineCommandStart (id : Nat) (gt : Bool) (s : State) : Host.Outcome State Fault Refusal :=
  event s (match s.ctx? id with
    | some c =>
      let h := c.chan gt
      match h.fifo with
      | q :: qs =>
        if decide (h.running.length ≥ 4) || s.writesOut id || c.hostSave != .no ||
          !(c.resident || c.phase == .parked || c.phase == .ending) then none
        else
          ((s.leavePeers (towerOf c.coreid) fun _ => true).engRunAll (s.engineCtx c) gt h.lost q.image).map fun (s, t, f) =>
            s.mapCtx id fun c => c.setChan gt { c.chan gt with
              fifo := qs, running := h.running ++ [(q.image, resultElem q.seq t f)], lost := false }
      | [] => none
    | none => none)

/-- The oldest finished command posts its element when the ring has room, and its successors see its end (R270, R279). -/
def execEngineResultPost (id : Nat) (gt : Bool) (s : State) : Host.Outcome State Fault Refusal :=
  event s (match s.ctx? id with
    | some c =>
      let h := c.chan gt
      match h.running with
      | (r, e) :: rest =>
        if h.ring.length ≥ 64 then none
        else
          let e := e ||| BitVec.ofNat 128 ((phaseByte h.prod 6).toNat * 2 ^ 24)
          let co := s.core c.coreid
          let s := s.setCore c.coreid { co with
            graph := Graph.after co.graph (some (.ctx id)) (e.extractLsb' 0 8 == 0) (recSucc r) }
          some (s.mapCtx id fun c => c.setChan gt
            { h with running := rest, ring := h.ring ++ [e], scopes := h.scopes ++ [recScope r], prod := h.prod + 1 })
      | [] => none
    | none => none)

end Sys2Proof.Machine
end

