-- ==== Sys2Proof/Machine/GraphTable.lean ====
section
/-! DEFINITION. The dependence graph of a core: its instructions and its events (R39, R277 to R282). -/

namespace Sys2Proof.Machine

def State.graph (s : State) (core : BitVec 12) : Graph := (s.core core).graph
def State.setGraph (s : State) (core : BitVec 12) (g : Graph) : State :=
  s.setCore core { s.core core with graph := g }
/-- The table of the core in focus. -/
def State.table (s : State) : Graph := s.co.graph
def State.setTable (s : State) (g : Graph) : State := { s with co := { s.co with graph := g } }

/-! ### Node records (R39, R269, R277, R278) -/

/-- The bytes of a node record that are wrong whatever else is in the table. -/
def nodeBad (r : BitVec 1024) : List Nat :=
  let eng := rb r 0x72 1
  (if eng > 2 then [0x72] else if eng = 2 then nonzeroAt r 0 0x70 else (recordBad (eng == 1) r).toList)
  ++ nonzeroAt r 0x73 1 ++ nonzeroAt r 0x78 8

/-- The first offending byte of record `k` of a gload: `ids` are the nodes of all its records, `owned` tells the entries that
the context owns. -/
def gloadBad (ids : List Nat) (owned : Nat → Bool) (k : Nat) (r : BitVec 1024) : Option Nat :=
  let id := rb r 0x70 1
  let succBad (j : Nat) : Bool :=
    let x := rb r (0x74 + j) 1
    x != 0xff && (decide (x > 63) || x == id || !(ids.contains x || owned x))
  (nodeBad r
    ++ (if id > 63 || (ids.take k).contains id then [0x70] else [])
    ++ ((List.range 4).filter succBad).map (0x74 + ·)).min?

/-- Put records into their entries, WAITING. -/
def Graph.fill (o : Owner) (g : Graph) (l : List (Nat × BitVec 1024)) : Graph :=
  l.foldl (fun g q => g.put q.1 { st := .waiting, owner := some o, pred := rb q.2 0x71 1, image := q.2 }) g

/-- A WAITING entry with count 0 starts, and an event node completes for its successors (R277). -/
def Graph.begin (o : Owner) (g : Graph) (k : Nat) : Graph :=
  let e := g.at k
  if e.waitsFor (some o) && e.pred == 0 then
    let (g, more) := g.start k
    Graph.decr (some o) graphFuel g more
  else g

/-- Entry `k` is owned by context `id`. -/
def Graph.owned (g : Graph) (id k : Nat) : Bool := decide (k < 64) && (g.at k).st != .free && (g.at k).owner == some (.ctx id)

/-- WAITING or RUNNING. -/
def GEntry.isPending (e : GEntry) : Bool := e.st == .waiting || e.st == .running

/-- The records of a gload as its numbers. -/
def recordsOf (v n : Nat) : List (BitVec 1024) := (List.range n).map fun k => BitVec.ofNat 1024 (v >>> (1024 * k))

def execGload (m : Mods) (a b : Reg) (s : State) : Host.Outcome State Fault Refusal :=
  issue (.gload m a b) s fun s => do
    let va := s.cx.readX a
    let n := s.cx.readX b
    trapIf (decide (n.toNat < 1 ∨ 64 < n.toNat)) .illOperand n s
    trapIf (va.toNat % 128 != 0) .align va s
    let (v, s1) ← s.scalarLoad .l1 .g va (128 * n.toNat)
    let recs := recordsOf v n.toNat
    let ids := recs.map fun r => rb r 0x70 1
    let g := s1.table
    match (recs.mapIdx fun k r => (k, gloadBad ids (g.owned s1.cx.id) k r)).find? fun q => q.2.isSome with
    | some (k, o) => .error (.trap .illOperand (va + BitVec.ofNat 64 (128 * k + o.getD 0)) s)
    | none =>
      match ids.find? fun k => (g.at k).isPending with
      | some k => .error (.trap .nodeBusy (BitVec.ofNat 64 k) s)
      | none =>
        let o := Owner.ctx s1.cx.id
        let g := ids.foldl (Graph.begin o) (g.fill o (ids.zip recs))
        pure (.adv (s1.setTable g))

def execGsig (m : Mods) (a : Reg) (s : State) : Host.Outcome State Fault Refusal :=
  issue (.gsig m a) s fun s => do
    let k := s.cx.readX a
    let o := some (Owner.ctx s.cx.id)
    trapIf (decide (k.toNat ≥ 64) || !(s.table.at k.toNat).waitsFor o) .illOperand k s
    let s ← s.release
    pure (.adv (s.setTable (s.table.after o true [k.toNat])))

/-- tval of ENGINE_FAULT (R281). -/
def GEntry.faultTval (e : GEntry) (k : Nat) : Word :=
  BitVec.ofNat 64 ((if e.ownFault then rb e.image 0x72 1 else 3) * 2 ^ 62 + k % 64 * 2 ^ 56
    + if e.ownFault then e.addr.toNat % 2 ^ 56 else 0)

/-- gwait on entry x(a): it stalls until the entry is DONE or FAILED, and then acquires at system scope (R281). -/
def gwaitOn (i : Instr) (a : Reg) (s : State) : Run Done := do
  let k := s.cx.readX a
  operandTrapIf i (!s.table.owned s.cx.id k.toNat) s
  let e := s.table.at k.toNat
  waitIf e.isPending s
  trapIf (e.st == .failed) .engineFault (e.faultTval k.toNat) s
  pure (.adv (s.acquire .sys))

def execGwait (m : Mods) (a : Reg) (s : State) : Host.Outcome State Fault Refusal :=
  issue (.gwait m a) s (gwaitOn (.gwait m a) a)

/-! ### Events -/

/-- The leaf that owns a node is stopped: nothing of it starts any more (R376). -/
def State.ownerStopped (s : State) : Owner → Bool
  | .leaf l n => ((s.node? l n).map Node.stopped).getD true
  | .ctx id => (s.ctx? id).isNone

/-- The successors that learn of a node's end: none of a stopped graph leaf. In a context that ends, the successors of what it has
issued start, as DRAIN has them (R376; log 74). -/
def State.succOf (s : State) (e : GEntry) : List Nat :=
  match e.owner with
  | some (.leaf l n) => if s.ownerStopped (.leaf l n) then [] else recSucc e.image
  | some (.ctx _) => recSucc e.image
  | none => []

def execGraphNodeStart (core : BitVec 12) (n : Reg) (s : State) : Host.Outcome State Fault Refusal :=
  let g := s.graph core
  let e := g.at n.toNat
  event s (match e.owner with
    | some o => if e.waitsFor (some o) && e.pred == 0 && !s.ownerStopped o then some (s.setGraph core (g.begin o n.toNat)) else none
    | none => none)

/-- For whom the node of an engine graph leaf runs: the launch's address space, with no scratch block and no cave (R39). -/
def Launch.pseudo (l : Launch) (core : BitVec 12) : Ctx :=
  { coreid := core, ptbase := l.ptbase, status := if l.sup then 1 else 0 }

/-- The context for whom the commands of an owner's nodes run. -/
def State.ownerCtx (s : State) (core : BitVec 12) : Owner → Option Ctx
  | .ctx id => (s.ctx? id).map s.engineCtx
  | .leaf l _ => (s.launch? l).map fun x => x.pseudo core

/-- The node reaches the scratch block of a context that is out, whose block the slot holds: it runs when the context is back (R61,
R282; log 32). -/
def State.scratchAway (s : State) (e : GEntry) : Bool :=
  match e.owner with
  | some (.ctx id) =>
    (recSrcSpace e.image == 1 || recDstSpace e.image == 1) &&
      ((s.ctx? id).any fun c => c.phase == .switchedOut || c.hostSave != .no)
  | _ => false

/-- A RUNNING node's command runs, its start an acquire at system scope (R279), and ends: DONE or FAILED, and what follows for its
successors; a faulting node of an engine graph leaf is an unhandled fault of the leaf (R39, R277, R279), with EPC, FROM and INSTANCE
0 and TVAL the faulting address in its record, as no context runs (DESIGN CHOICE, log 81). -/
def execGraphNodeComplete (core : BitVec 12) (n : Reg) (s : State) : Host.Outcome State Fault Refusal :=
  let e := (s.graph core).at n.toNat
  event s (
    if e.st != .running then none else
    match e.owner.bind (s.ownerCtx core) with
    | none => none
    | some c =>
      if s.scratchAway e || (match e.owner with | some (.ctx id) => s.writesOut id | _ => false) then none
      else match (s.leavePeers (towerOf core) fun _ => true).engRunAll c (rb e.image 0x72 1 == 1) e.lost e.image with
        | none => none
        | some (s, _, none) =>
          some (s.setGraph core (((s.graph core).put n.toNat { e with st := .done, lost := false }).after e.owner true (s.succOf e)))
        | some (s, _, some (cause, va)) =>
          let g := ((s.graph core).put n.toNat
            { e with st := .failed, lost := false, cause := cause.code, ownFault := true, addr := va }).after e.owner false (s.succOf e)
          let s := s.setGraph core g
          some (match e.owner with
            | some (.leaf l k) => s.unhandledAt none (l, k) cause.code 0 va 0 0 core.toNat (towerOf core)
            | _ => s))

/-- FREE entries of a core's table. -/
def Graph.freeEntries (g : Graph) : List Nat := (List.range 64).filter fun k => (g.at k).st == .free

/-- The core that a graph leaf names (R31). -/
def auxCore (aux : Word) : BitVec 12 := BitVec.ofNat 12 (fld aux 9 3 * 512 + fld aux 0 9)

/-- The successors of a leaf's record renamed to the entries that its nodes take. -/
def renamed (entryOf : Nat → Nat) (r : BitVec 1024) : BitVec 1024 :=
  (List.range 4).foldl (fun r k =>
    let x := rb r (0x74 + k) 1
    let y := if x = 0xff then 0xff else entryOf x
    let at_ := 8 * (0x74 + k)
    (r &&& ~~~(BitVec.ofNat 1024 (0xff * 2 ^ at_))) ||| BitVec.ofNat 1024 (y * 2 ^ at_)) r

/-- Load the nodes of a graph leaf into FREE entries of its core's table, the lowest ones (DESIGN CHOICE, log 96); those with PRED 0
wait for their start. -/
def State.loadLeaf (s : State) (l n : Nat) (x : Node) : State :=
  let core := auxCore x.aux
  let g := s.graph core
  let spots := g.freeEntries
  let ids := x.records.map fun r => rb r 0x70 1
  let entryOf (id : Nat) : Nat := spots.getD (ids.idxOf id) 0xff
  let fill := x.records.mapIdx fun k r => (spots.getD k 0, renamed entryOf r)
  (s.setGraph core (g.fill (.leaf l n) fill)).mapNode l n fun x => { x with loaded := true }

/-- A graph leaf that a draw has placed loads its nodes once its core's table has room (R39). -/
def execGraphLeafLoad (l n : Nat) (s : State) : Host.Outcome State Fault Refusal :=
  event s (match s.node? l n with
    | some x =>
      if x.kind != .graph || x.placed == 0 || x.loaded || x.stopped ||
        decide ((s.graph (auxCore x.aux)).freeEntries.length < x.count) then none
      else some (s.loadLeaf l n x)
    | none => none)

end Sys2Proof.Machine
end

