-- ==== Sys2Proof/Machine/Pipe.lean ====
section
/-! DEFINITION. Gang pipes with their deadlock detector, and watermarks (R283 to R287). -/

namespace Sys2Proof.Machine

/-! ### Pipes (R283) -/

/-- Entries of a pipe. -/
def PipeBind.depth (b : PipeBind) : Nat := if b.brick then 8 else 64

/-- A pipe of a copy is named by its launch, leaf, copy and number. -/
def Pipe.named (p : Pipe) (l n copy q : Nat) : Bool := p.l == l && p.n == n && p.copy == copy && p.bind.q == q

/-- What a pipe holds, oldest first; a pipe starts empty (R35). -/
def State.pipeItems (s : State) (l n copy q : Nat) : List Brick :=
  ((s.dev.pipes.find? fun p => p.named l n copy q).map Pipe.items).getD []

def State.setPipe (s : State) (l n copy : Nat) (b : PipeBind) (items : List Brick) : State :=
  let rest := s.dev.pipes.filter fun p => !p.named l n copy b.q
  { s with dev := { s.dev with pipes := if items.isEmpty then rest else ⟨l, n, copy, b, items⟩ :: rest } }

/-- The pipe that an instruction of context `c` may use: its leaf, its copy and the binding. -/
def State.pipeOf (s : State) (i : Instr) (q : Reg) (brick push : Bool) : Run (Nat × Nat × Nat × PipeBind) :=
  match s.cx.gang, s.cx.leaf with
  | some (copy, m), some (l, n) =>
    match ((s.node? l n).map Node.pipes).bind fun ps => ps.find? fun b => b.q == q.toNat with
    | none => .error (operandTrap i s)
    | some b =>
      if b.brick != brick then .error (operandTrap i s)
      else if m != (if push then b.prod else b.cons) then .error (.trap .queueUnbound (q.setWidth 64) s)
      else .ok (l, n, copy, b)
  | _, _ => .error (.trap .queueUnbound (q.setWidth 64) s)

/-- Append an entry; a release at cluster scope. -/
def pushPipe (i : Instr) (q : Reg) (brick : Bool) (v : Ctx → Brick) (s : State) : Run Done := do
  let (l, n, copy, b) ← s.pipeOf i q brick true
  let items := s.pipeItems l n copy b.q
  waitIf (decide (items.length ≥ b.depth)) s
  let s ← s.release
  pure (.adv (s.setPipe l n copy b (items ++ [v s.cx])))

/-- Take the oldest entry; an acquire at cluster scope. -/
def popPipe (i : Instr) (q : Reg) (brick : Bool) (f : Ctx → Brick → Ctx) (s : State) : Run Done := do
  let (l, n, copy, b) ← s.pipeOf i q brick false
  match s.pipeItems l n copy b.q with
  | [] => .error (.wait s)
  | v :: rest => pure (.adv (((s.setPipe l n copy b rest).acquire .clu).upd fun c => f c v))

def execQpush (m : Mods) (d a : Reg) (s : State) : Host.Outcome State Fault Refusal :=
  issue (.qpush m d a) s (pushPipe (.qpush m d a) d false fun c => (c.readX a).setWidth 16384)
def execQpushBrick (m : Mods) (d a : Reg) (s : State) : Host.Outcome State Fault Refusal :=
  issue (.qpushBrick m d a) s (pushPipe (.qpushBrick m d a) d true fun c => c.v[a.toNat])
def execQpop (m : Mods) (d a : Reg) (s : State) : Host.Outcome State Fault Refusal :=
  issue (.qpop m d a) s (popPipe (.qpop m d a) a false fun c v => c.writeX d (v.setWidth 64))
def execQpopBrick (m : Mods) (d a : Reg) (s : State) : Host.Outcome State Fault Refusal :=
  issue (.qpopBrick m d a) s (popPipe (.qpopBrick m d a) a true fun c v => { c with v := c.v.set d.toNat v })

/-! ### The deadlock detector (R284) -/

/-- The pipe operation at which the context in focus is stalled: tval of GANG_DEADLOCK. -/
def State.pipeStall (s : State) : Option Word :=
  let c := s.cx
  if c.phase != .running || c.stall != .again then none else
  match c.gang, c.leaf, s.fetch with
  | some (copy, _), some (l, n), .ok (_, i) =>
    let full (q : Reg) (brick : Bool) : Bool := decide ((s.pipeItems l n copy q.toNat).length ≥ if brick then 8 else 64)
    let empty (q : Reg) : Bool := (s.pipeItems l n copy q.toNat).isEmpty
    match i with
    | .qpush _ d _ => if full d false then some (d.setWidth 64 + 8) else none
    | .qpushBrick _ d _ => if full d true then some (d.setWidth 64 + 8) else none
    | .qpop _ _ a => if empty a then some (a.setWidth 64) else none
    | .qpopBrick _ _ a => if empty a then some (a.setWidth 64) else none
    | _ => none
  | _, _, _ => none

/-- An engine command or node of the context pends. -/
def State.engineBusy (s : State) (c : Ctx) : Bool :=
  c.commandsOut || c.resultsOut ||
  (s.graph c.coreid).toList.any fun e => e.isPending && e.owner == some (.ctx c.id)

/-- The members of a gang copy. -/
def State.copyOf (s : State) (l n copy : Nat) : List Ctx :=
  s.ctxs.filter fun c => c.leaf == some (l, n) && c.gang.map Prod.fst == some copy

/-- A member takes its trap at its stalled instruction. -/
def State.deadlocked (s : State) (id : Nat) (v : Word) : State :=
  let t := s.focusOn id
  t.enterTrap .gangDeadlock v false false 4 t.cx.pc t.cx.prev

/-- Every member of the copy that stands is stalled at a pipe, with no engine command or node: each raises its trap, whatever the
traps of the others do to the copy (R284). -/
def execGangDeadlock (l n copy : Nat) (s : State) : Host.Outcome State Fault Refusal :=
  let cs := s.copyOf l n copy
  let stalls := cs.filterMap fun c => (s.focusOn c.id).pipeStall.map fun v => (c.id, v)
  event s (
    if cs.isEmpty || stalls.length != cs.length || cs.any (fun c => s.engineBusy c || s.trapWaits c) then none
    else some ((stalls.foldl (fun t q => t.deadlocked q.1 q.2) s).focusOn s.cx.id))

/-! ### Watermarks (R285 to R287) -/

def execWmpub (m : Mods) (d a : Reg) (s : State) : Host.Outcome State Fault Refusal :=
  issue (.wmpub m d a) s fun s => do
    trapIf (!s.wmAllowed d.toNat true) .queueUnbound (d.setWidth 64) s
    let s ← s.release
    let w := s.wm d.toNat
    pure (.adv (s.setWm d.toNat { w with w := BitVec.ofNat 64 (min (max w.w.toNat (s.cx.readX a).toNat) w.bound.toNat) }))

def execWmpubInit (m : Mods) (d a : Reg) (s : State) : Host.Outcome State Fault Refusal :=
  issue (.wmpubInit m d a) s fun s => do
    trapIf (!s.wmAllowed d.toNat true) .queueUnbound (d.setWidth 64) s
    let va := s.cx.readX a
    trapIf (va.toNat % 32 != 0) .align va s
    let (v, s1) ← s.loadAt .l1 .g va 32 .sector
    let esize := v >>> 64 % 2 ^ 32
    trapIf (v >>> 96 % 2 ^ 32 != 0 || v >>> 192 != 0 || esize == 0 || decide (esize > 65536)) .illOperand va s
    pure (.adv (s1.setWm d.toNat { s1.wm d.toNat with
      base := BitVec.ofNat 64 v, esize := esize, bound := BitVec.ofNat 64 (v >>> 128), w := 0, init := true }))

def execWmrd (m : Mods) (d a : Reg) (s : State) : Host.Outcome State Fault Refusal :=
  issue (.wmrd m d a) s fun s => do
    trapIf (!s.wmAllowed a.toNat false) .queueUnbound (a.setWidth 64) s
    pure (.adv ((s.acquire .dev).upd fun c => c.writeX d (s.wm a.toNat).w))

def execWmrdBound (m : Mods) (d a : Reg) (s : State) : Host.Outcome State Fault Refusal :=
  issue (.wmrdBound m d a) s fun s => do
    trapIf (!s.wmAllowed a.toNat false) .queueUnbound (a.setWidth 64) s
    pure (.adv (s.upd fun c => c.writeX d (s.wm a.toNat).bound))

end Sys2Proof.Machine
end

