-- ==== Sys2Proof/Machine/Launch.lean ====
section
/-! DEFINITION. Launching: reading and checking a tree of region blocks, the launch ports' check, regl, and the launch queue (R25
to R36, R39, R42 to R53). -/

namespace Sys2Proof.Machine

/-! ### A region block (R25, R31) -/

def bKind (b : BitVec 1024) : Nat := rb b 0 1
def bFlags (b : BitVec 1024) : Nat := rb b 1 1
def bClass (b : BitVec 1024) : Nat := rb b 2 1
def bFdom (b : BitVec 1024) : Nat := rb b 3 1
def bTickets (b : BitVec 1024) : Nat := rb b 4 2
def bNchild (b : BitVec 1024) : Nat := rb b 6 2
def bChild (b : BitVec 1024) : Nat := rb b 8 8
def bCode (b : BitVec 1024) : Nat := rb b 0x10 8
def bCount (b : BitVec 1024) : Nat := rb b 0x18 4
def bScrlog (b : BitVec 1024) : Nat := rb b 0x1c 1
def bVatn (b : BitVec 1024) : Nat := rb b 0x1d 1
def bCavew (b : BitVec 1024) : Nat := rb b 0x1e 1
def bArgp (b : BitVec 1024) : Nat := rb b 0x38 8
def bSave (b : BitVec 1024) : Nat := rb b 0x40 8
def bDone (b : BitVec 1024) : Nat := rb b 0x50 8
def bAux (b : BitVec 1024) : Word := BitVec.ofNat 64 (rb b 0x58 8)

/-- The caps of a block: the field, and the value that means inherit (R27). -/
def bCaps (b : BitVec 1024) : List (Nat × Nat) :=
  [(rb b 0x20 4, 0xffffffff), (rb b 0x24 4, 0xffffffff), (rb b 0x28 4, 0xffffffff), (rb b 0x2c 1, 0xff), (rb b 0x30 4, 0xffffffff)]

/-- A node's caps as a list in the order of the block. -/
def Caps.list (c : Caps) : List Nat := [c.cores, c.vat, c.scr, c.cave, c.pool]
def Caps.ofList (l : List Nat) : Caps := ⟨l.getD 0 0, l.getD 1 0, l.getD 2 0, l.getD 3 0, l.getD 4 0⟩

/-- 4 KiB units of a scratch block (R25). -/
def scrUnits (log : Nat) : Nat := if log = 0 then 0 else 2 ^ (log - 12)

def scrlogOk (n : Nat) : Bool := n == 0 || decide (12 ≤ n ∧ n ≤ 19)
def cavewOk (n : Nat) : Bool := n == 0 || n == 2 || n == 4 || n == 8 || n == 12

/-- A launch that is checked: the address space and mode it reads in, the towers that it permits, the argument address that
replaces the root's, the highest class, and the leaf that issued it. -/
structure Req where
  ptbase : Word
  sup : Bool
  towers : BitVec 8
  arg : Word
  cmax : Nat
  issuer : Option (Nat × Nat)

/-- What is read of one node beside its block: its arguments, its gang table, its node records. -/
structure Raw where
  args : List Word := []
  table : BitVec 1024 := 0
  recs : List (BitVec 1024) := []

/-- The first code whose condition holds. -/
def firstCode (l : List (Bool × BitVec 8)) : Option (BitVec 8) := (l.find? Prod.fst).map Prod.snd

/-! ### Reading (R42, R48, R50) -/

/-- Read `n` bytes of the tree. -/
def State.treeRead (s : State) (q : Req) (va n : Nat) : Option (Nat × State) :=
  match s.gLocs none q.ptbase q.sup .load (BitVec.ofNat 64 va) n (n / 4096 + 2) with
  | .error _ => none
  | .ok (s', ls) =>
    if (Place.g ls).inReg || s.poisoned (.g ls) then none else some (ofBytes (ls.map fun l => s.mem.byte l.pos), s')

/-- The arguments of a node: at ARGP, or at LP.ARG for the root (R44). -/
def State.readArgs (s : State) (q : Req) (b : BitVec 1024) (root : Bool) : Option (List Word × State) :=
  let va := if root && q.arg != 0 then q.arg.toNat else bArgp b
  if va = 0 then some ([], s)
  else (s.treeRead q va 64).map fun r => ((List.range 8).map fun k => BitVec.ofNat 64 (r.1 >>> (64 * k)), r.2)

/-- What a node's own kind adds to its block. -/
def State.readRaw (s : State) (q : Req) (b : BitVec 1024) (root : Bool) : Option (Raw × State) :=
  match s.readArgs q b root with
  | none => none
  | some (args, s) =>
    if bKind b = 2 then (s.treeRead q (bCode b) 128).map fun r => ({ args := args, table := BitVec.ofNat 1024 r.1 }, r.2)
    else if bKind b = 4 then
      (s.treeRead q (bCode b) (128 * bCount b)).map fun r => ({ args := args, recs := recordsOf r.1 (bCount b) }, r.2)
    else some ({ args := args }, s)

/-! ### The checks of a block (R25 to R27, R31, R42, R47) -/

/-- Code 0x01. -/
def badShape (b : BitVec 1024) : Bool :=
  decide (bKind b > 4) || (bKind b == 0 && bNchild b == 0) || (bKind b != 0 && (bNchild b != 0 || bChild b != 0))

/-- The reserved bits of AUX by kind (R31, R33). -/
def auxReserved (kind : Nat) : Word :=
  match kind with
  | 1 => 0xffffffffffff4040
  | 2 => 0xffffffffffffffff
  | 3 => 0x00000000fff8000f
  | 4 => 0xfffffffffffff000
  | _ => 0xffffffffffffffff

/-- Code 0x02. -/
def badReserved (b : BitVec 1024) (root : Bool) : Bool :=
  bFlags b / 8 != 0 || (!root && bFlags b % 2 == 1) || rb b 0x1f 1 != 0 || rb b 0x2d 3 != 0 || rb b 0x4e 2 != 0 ||
  rb b 0x60 32 != 0 || bAux b &&& auxReserved (bKind b) != 0 || (bKind b == 0 && (bCode b != 0 || bCount b != 0))

/-- COUNT outside the range of its kind (R31). -/
def badCount (b : BitVec 1024) : Bool :=
  let n := bCount b
  match bKind b with
  | 1 => decide (n < 1 ∨ 2 ^ 24 < n)
  | 2 => decide (n < 1 ∨ 1024 < n)
  | 3 => decide (n < 16 ∨ 2 ^ 20 < n) || n != 2 ^ Nat.log2 n
  | 4 => decide (n < 1 ∨ 64 < n)
  | _ => false

/-- A field of the root of a launch through a port may not inherit (R27). -/
def inherits (b : BitVec 1024) : Bool :=
  bClass b == 0xff || bFdom b == 0xff || bTickets b == 0 || (bCaps b).any fun c => c.1 == c.2

/-- The tower that a pool or graph leaf names. -/
def bTower (b : BitVec 1024) : Nat := if bKind b = 3 then (auxTower (bAux b)).toNat else fld (bAux b) 9 3

/-- Code 0x03. -/
def badRange (q : Req) (b : BitVec 1024) (root : Bool) : Bool :=
  (decide (bClass b > 3) && bClass b != 0xff) || (decide (bFdom b > 2) && bFdom b != 0xff) || decide (bNchild b > 1023) ||
  badCount b || !scrlogOk (bScrlog b) || decide (bVatn b > 4) || !cavewOk (bCavew b) ||
  (decide (rb b 0x2c 1 > 12) && rb b 0x2c 1 != 0xff) || decide (rb b 0x4c 2 > 2047) ||
  (bKind b == 3 && decide (auxInit (bAux b) > bCount b)) || (root && q.issuer.isNone && inherits b) ||
  (decide (bKind b = 3 ∨ bKind b = 4) && !q.towers.getLsbD (bTower b))

/-- Code 0x06. -/
def badAlign (b : BitVec 1024) (addr : Word) : Bool :=
  addr.toNat % 128 != 0 || (bKind b == 0 && bChild b % 128 != 0) || (bKind b == 1 && bCode b % 4 != 0) ||
  (decide (bKind b = 2 ∨ bKind b = 4) && bCode b % 128 != 0) || (bKind b == 3 && bCode b % 4096 != 0) ||
  bSave b % 4096 != 0 || bDone b % 8 != 0

/-- An explicit cap above the parent's resolved cap (R27). -/
def badCaps (b : BitVec 1024) (parent : Option Node) : Bool :=
  match parent with
  | none => false
  | some p => ((bCaps b).zip p.caps.list).any fun c => c.1.1 != c.1.2 && decide (c.1.1 > c.2)

/-- The demand of one context of a leaf, or of a whole gang copy: cores, tiles, scratch units, ways. An engine graph leaf, which takes
no context, has that of its one core here as at its placement (R39, R42; DESIGN CHOICE, log 72). -/
def demandOf (kind scr vat cave : Nat) (ms : List Member) : List Nat :=
  match kind with
  | 0 => [0, 0, 0, 0]
  | 2 => [ms.length, (ms.map Member.vat).sum, (ms.map fun m => scrUnits m.scr).sum, (ms.map Member.cave).sum]
  | 4 => [1, 0, 0, 0]
  | _ => [1, vat, scrUnits scr, cave]

/-- The nodes of a partial tree from `k` up to its root. -/
def treeChain (acc : List Node) : Nat → Option Nat → List Nat
  | 0, _ => []
  | _, none => []
  | f + 1, some k => k :: treeChain acc f ((acc[k]?).bind Node.parent)

/-- Pool slots of the subtree of node `k` of a partial tree. -/
def treePools (acc : List Node) (k : Nat) : Nat :=
  ((acc.mapIdx fun j (n : Node) => if n.kind == .pool && (treeChain acc 17 (some j)).contains k then n.count else 0)).sum

/-- Pool slots that accepted trees count against a node; one that the host still validates counts none (R27, R386). -/
def State.poolSlots (s : State) (r : Nat × Nat) : Nat :=
  ((s.dev.launches.flatMap fun l =>
    if l.st == .retired || l.st == .validating then [] else l.nodes.mapIdx fun k (n : Node) =>
      if n.kind == .pool && !n.retired && s.under r (l.num, k) then n.count else 0)).sum

/-- A pool's slots would raise some node's use above its cap: its own, an ancestor's in the tree, or the issuing leaf's and its
ancestors' (R27). -/
def State.poolsExceed (s : State) (q : Req) (acc : List Node) (parent : Option Nat) (n : Node) : Bool :=
  decide (n.count > n.caps.pool) ||
  (treeChain acc 17 parent).any (fun k => decide (treePools acc k + n.count > ((acc[k]?).map fun x => x.caps.pool).getD 0)) ||
  match q.issuer with
  | none => false
  | some r =>
    let here := ((acc.filter fun x => x.kind == .pool).map Node.count).sum
    (s.ancestors r).any fun p =>
      decide (s.poolSlots p + here + n.count > ((s.node? p.1 p.2).map fun x => x.caps.pool).getD 0)

/-! #### Gangs (R34, R35) -/

def gCode (t : BitVec 1024) (m : Nat) : Nat := rb t (16 * m) 8
def gPipe (t : BitVec 1024) (q : Nat) : Nat := rb t (0x40 + 2 * q) 2

/-- The present members of a table. -/
def gangMembers (t : BitVec 1024) : List Member :=
  (List.range 4).filterMap fun m =>
    if gCode t m = 0 then none
    else some ⟨BitVec.ofNat 64 (gCode t m), rb t (16 * m + 8) 1, rb t (16 * m + 9) 1, rb t (16 * m + 10) 1⟩

/-- The bound pipes of a table. -/
def gangPipes (t : BitVec 1024) : List PipeBind :=
  (List.range 8).filterMap fun q =>
    let p := gPipe t q
    if p / 2 ^ 15 = 0 then none else some ⟨q, p / 16 % 2 == 1, p / 4 % 4, p % 4⟩

/-- Code 0x07: also for a reserved byte or bit of the table that is nonzero, which R42 lists under 0x02 as well (DESIGN CHOICE, log
93). Of an absent member only MCODE and the reserved bytes count (R34). -/
def badGang (b t : BitVec 1024) : Bool :=
  let n := (gangMembers t).length
  bScrlog b != 0 || bVatn b != 0 || bCavew b != 0 || n == 0 || rb t 0x50 48 != 0 ||
  (List.range 4).any (fun m =>
    rb t (16 * m + 11) 5 != 0 ||
    if m < n then gCode t m == 0 || gCode t m % 4 != 0 || !scrlogOk (rb t (16 * m + 8) 1) || decide (rb t (16 * m + 9) 1 > 4) ||
      !cavewOk (rb t (16 * m + 10) 1)
    else gCode t m != 0) ||
  (List.range 8).any fun k =>
    let p := gPipe t k
    p / 32 % 1024 != 0 || (p / 2 ^ 15 == 1 && (decide (p / 4 % 4 ≥ n ∨ p % 4 ≥ n) || p / 4 % 4 == p % 4))

/-! #### Engine graphs (R39) -/

/-- The bytes and bits of a record that are reserved, those of a network address among them (R384), for code 0x02. -/
def nodeReserved (r : BitVec 1024) : Bool :=
  (recSrcSpace r == 3 && rb r 0x05 1 % 16 != 0) || (recDstSpace r == 3 && rb r 0x0d 1 % 16 != 0) ||
  rb r 0x73 1 != 0 || rb r 0x78 8 != 0 || rb r 0x1f 1 != 0 || rb r 0x1d 1 / 16 != 0 || rb r 0x50 1 / 16 % 8 != 0 ||
  rb r 0x51 1 / 16 != 0 || rb r 0x53 1 / 4 != 0 || rb r 0x54 1 / 32 != 0 || rb r 0x55 11 != 0 || rb r 0x68 8 != 0

/-- A record outside what R39, R269 and R277 allow: code 0x03. -/
def nodeRange (n : Nat) (recs : List (BitVec 1024)) (r : BitVec 1024) : Bool :=
  decide (rb r 0x70 1 ≥ n) || !(nodeBad r).isEmpty ||
  (List.range 4).any fun j =>
    let x := rb r (0x74 + j) 1
    x != 0xff && !recs.any fun y => rb y 0x70 1 == x

/-! #### Duplicates (R31, R33, R36, R39) -/

/-- A link byte's index, when it is enabled. -/
def linkOf (aux : Word) (byte : Nat) : Option Nat := if bitOf aux (8 * byte + 7) then some (fld aux (8 * byte) 6) else none

/-- Code 0x08. -/
def badTwice (acc : List Node) (n : Node) : Bool :=
  (n.kind == .pool && acc.any fun x => x.kind == .pool && auxPool x.aux == auxPool n.aux) ||
  (n.kind == .kernel && acc.any fun x => x.kind == .kernel &&
    ((linkOf n.aux 0).isSome && linkOf x.aux 0 == linkOf n.aux 0 || (linkOf n.aux 1).isSome && linkOf x.aux 1 == linkOf n.aux 1)) ||
  (n.kind == .graph && !decide ((n.records.map fun r => rb r 0x70 1).Nodup))

/-- A pool ring that is live in another launch of the address space: a launch gives its rings up when its root retires (R51, R377);
one that the host validates counts as well (DESIGN CHOICE, log 93). -/
def State.ringLive (s : State) (q : Req) (n : Node) : Bool :=
  n.kind == .pool && s.dev.launches.any fun l => l.st != .retired && fld l.ptbase 48 16 == fld q.ptbase 48 16 &&
    l.nodes.any fun x => x.kind == .pool && x.code == n.code

/-! ### A node, and the tree -/

/-- The node of a block, its inherited fields resolved from the parent (R27). -/
def nodeOf (b : BitVec 1024) (addr : Word) (raw : Raw) (parent : Option Node) (idx : Option Nat) : Node :=
  let p := parent.getD {}
  let kind : Kind := match bKind b with | 0 => .interior | 1 => .kernel | 2 => .gang | 3 => .pool | _ => .graph
  { addr := addr, kind := kind
    excl := bFlags b % 2 == 1, irq := bFlags b / 2 % 2 == 1, preempt := bFlags b / 4 % 2 == 1
    cls := if bClass b = 0xff then p.cls else bClass b
    fdom := if bFdom b = 0xff then none else some (bFdom b)
    tickets := if bTickets b = 0 then p.tickets else bTickets b
    parent := idx
    code := BitVec.ofNat 64 (bCode b), count := bCount b
    scr := bScrlog b, vat := bVatn b, cave := bCavew b
    caps := Caps.ofList (((bCaps b).zip p.caps.list).map fun c => if c.1.1 = c.1.2 then c.2 else c.1.1)
    seed := BitVec.ofNat 32 (rb b 0x34 4), args := raw.args
    save := BitVec.ofNat 64 (bSave b), saven := rb b 0x48 4, irqv := rb b 0x4c 2, done := BitVec.ofNat 64 (bDone b)
    aux := bAux b
    members := if bKind b = 2 then gangMembers raw.table else []
    pipes := if bKind b = 2 then gangPipes raw.table else []
    records := if bKind b = 4 then raw.recs else []
    prod := if bKind b = 3 then BitVec.ofNat 32 (auxInit (bAux b)) else 0 }

/-- The caps of a parent that a node without one has: none is above them. -/
def State.parentNode (s : State) (q : Req) (acc : List Node) (idx : Option Nat) : Option Node :=
  match idx with
  | some k => acc[k]?
  | none => q.issuer.bind fun r => s.node? r.1 r.2

/-- The demand of one context above the leaf's own caps (R42). -/
def Node.overDemand (n : Node) : Bool :=
  let kind := match n.kind with | .interior => 0 | .kernel => 1 | .gang => 2 | .pool => 3 | .graph => 4
  ((demandOf kind n.scr n.vat n.cave n.members).zip n.caps.list).any fun c => decide (c.1 > c.2)

/-- Read and check one block: the state with its translations' marks, and the node or a code (R42, R47; log 15). -/
def State.checkBlock (s : State) (q : Req) (acc : List Node) (addr : Word) (idx : Option Nat) (depth : Nat) :
    State × Except (BitVec 8) (Node × Nat × Nat) :=
  match s.treeRead q addr.toNat 128 with
  | none => (s, .error 0x09)
  | some (v, s1) =>
    let b : BitVec 1024 := BitVec.ofNat 1024 v
    let root := idx.isNone
    let parent := s1.parentNode q acc idx
    match firstCode [(badShape b, 0x01), (badReserved b root, 0x02), (badRange q b root, 0x03), (badAlign b addr, 0x06),
        (decide (depth > 16 ∨ acc.length ≥ 1024), 0x05), (badCaps b parent, 0x04)] with
    | some c => (s1, .error c)
    | none =>
      match s1.readRaw q b root with
      | none => (s1, .error 0x09)
      | some (raw, s2) =>
        let n := nodeOf b addr raw parent idx
        match firstCode [(n.records.any nodeReserved, 0x02), (n.records.any (nodeRange n.count n.records), 0x03),
            (n.kind == .gang && badGang b raw.table, 0x07),
            (n.overDemand || (n.kind == .pool && s2.poolsExceed q acc idx n), 0x04), (badTwice acc n, 0x08),
            (bClass b != 0xff && decide (bClass b > q.cmax), 0x12), (s2.ringLive q n, 0x16)] with
        | some c => (s2, .error c)
        | none => (s2, .ok (n, bChild b, bNchild b))

/-- Read and check the tree, each node before its children and children in address order; at the first offending block its code
and its address (R42, R53). -/
def State.readTree (q : Req) : Nat → List (Word × Option Nat × Nat) → State → List Node →
    State × Except (BitVec 8 × Word) (List Node)
  | _, [], s, acc => (s, .ok acc)
  | 0, (addr, _, _) :: _, s, _ => (s, .error (0x05, addr))
  | fuel + 1, (addr, idx, depth) :: rest, s, acc =>
    match s.checkBlock q acc addr idx depth with
    | (s1, .error c) => (s1, .error (c, addr))
    | (s1, .ok (n, child, nchild)) =>
      let k := acc.length
      let acc := match idx with
        | some p => acc.modify p fun x => { x with kids := x.kids ++ [k] }
        | none => acc
      let kids := (List.range nchild).map fun j => (BitVec.ofNat 64 (child + 128 * j), some k, depth + 1)
      State.readTree q fuel (kids ++ rest) s1 (acc ++ [n])

/-- Read and check the tree under a root; a misaligned root is code 0x06 (R341). -/
def State.checkTree (s : State) (q : Req) (root : Word) : State × Except (BitVec 8 × Word) (List Node) :=
  if root.toNat % 128 != 0 then (s, .error (0x06, root)) else State.readTree q 1025 [(root, none, 1)] s []

/-- An accepted tree joins the launches: in the launch queue, or with the host for validation under function 5 (R45, R386). -/
def State.acceptTree (s : State) (q : Req) (page : Option (BitVec 6)) (quiet : Bool) (issuer : Option Nat) (nodes : List Node)
    (from_ : BitVec 3 × BitVec 16) : State :=
  let num := s.dev.nextLaunch
  let ha := s.assisted 5
  let l : Launch :=
    { num := num, st := if ha then .validating else .queued, page := page, parent := q.issuer
      issuer := if ha then issuer else none, ptbase := q.ptbase, sup := q.sup, quiet := quiet, towers := q.towers, nodes := nodes }
  let s := { s with dev := { s.dev with nextLaunch := num + 1, launches := s.dev.launches ++ [l] } }
  if ha then
    s.emit ⟨6, from_.1.setWidth 8, ((nodes.head?).map Node.addr).getD 0,
      match page with | some p => p.setWidth 64 | none => 0xff, from_.2, some (.launch num)⟩
  else s

/-! ### The check of a port (R44 to R48) -/

/-- The codes that a port decides before it reads the tree. A page that has never been granted gives 0x11 whatever CHECK and ASID are
(DESIGN CHOICE, log 93). -/
def Port.refuse (p : Port) : Option (BitVec 8) :=
  firstCode [(p.capWr != 15, 0x10),
    (!p.granted || p.check != p.capToken.extractLsb' 32 32 || p.asid != p.capToken.extractLsb' 16 16, 0x11),
    (p.capAddr &&& 0xff0000000000007f != 0 || p.capToken &&& 0xfffc != 0 || p.capFlags &&& 0xfffffffffffffe00 != 0, 0x13)]

/-- What a port's launch asks. -/
def Port.req (p : Port) : Req :=
  { ptbase := BitVec.ofNat 64 (p.asid.toNat * 2 ^ 48) ||| (p.root &&& 0x0000fffffffff800)
    sup := p.sup
    towers := if p.capFlags.extractLsb' 0 8 = 0 then 0xff else p.capFlags.extractLsb' 0 8
    arg := p.capArg, cmax := fld p.capToken 0 2, issuer := none }

def execLaunchCheck (page : BitVec 6) (s : State) : Host.Outcome State Fault Refusal :=
  let p := s.port page
  let reject (s : State) (code : BitVec 8) (bad : Word) : State := s.setPort page { s.port page with st := 3, code := code, bad := bad }
  event s (
    if p.st != 1 || s.dev.launches.any (fun l => l.page == some page && l.st == .validating) then none
    else match p.refuse with
      | some c => some (reject s c 0)
      | none =>
        match s.checkTree p.req p.capAddr with
        | (s1, .error (c, bad)) => if s.marksWait s1 then none else some (reject s1 c bad)
        | (s1, .ok nodes) =>
          if s.marksWait s1 then none else
          let s2 := s1.acceptTree p.req (some page) (bitOf p.capFlags 8) none nodes (0, 0)
          some (if s2.assisted 5 then s2 else s2.setPort page { s2.port page with st := 2, code := 0, bad := 0 }))

/-! ### regl (R49, R341) -/

/-- The status doubleword of regl. -/
def reglStatus (code : BitVec 8) (bad : Word) : Word := (bad &&& 0xffffffffffffff80) ||| code.setWidth 64

/-- What a regl of the context in focus asks. -/
def State.reglReq (s : State) : Req :=
  { ptbase := s.cx.ptbase, sup := s.cx.sup, towers := 0xff, arg := 0
    cmax := match s.cx.leaf.bind fun r => s.node? r.1 r.2 with | some n => n.cls | none => 3
    issuer := s.cx.leaf }

def execRegl (m : Mods) (d a : Reg) (s : State) : Host.Outcome State Fault Refusal :=
  issue (.regl m d a) s fun s => do
    match s.dev.launches.find? fun l => l.issuer == some s.cx.id with
    | some l =>
      waitIf (l.st == .validating) s
      -- the host has answered: the launch stays when accepted, and goes when rejected
      let s := if l.code = 0 && l.st != .retired then s.mapLaunch l.num fun x => { x with issuer := none }
        else { s with dev := { s.dev with launches := s.dev.launches.filter fun x => x.num != l.num } }
      pure (.adv (s.upd fun c => c.writeX d (reglStatus l.code 0)))
    | none =>
      let s ← s.release
      match s.checkTree s.reglReq (s.cx.readX a) with
      | (s1, .error (c, bad)) =>
        waitIf (s.marksWait s1) s
        pure (.adv (s1.upd fun x => x.writeX d (reglStatus c bad)))
      | (s1, .ok nodes) =>
        waitIf (s.marksWait s1) s
        let s2 := s1.acceptTree s.reglReq none false (some s.cx.id) nodes (towerOf s.cx.coreid, s.cx.place)
        if s2.assisted 5 then .error (.wait s2)
        else pure (.adv (s2.upd fun x => x.writeX d (reglStatus 0 0)))

/-! ### The launch queue (R51 to R53) -/

/-- The towers in which a leaf of a launch may place work. -/
def Launch.towersOf (l : Launch) (n : Node) : List (BitVec 3) :=
  match n.kind with
  | .interior => []
  | .pool => [auxTower n.aux]
  | .graph => [BitVec.ofNat 3 (fld n.aux 9 3)]
  | _ => ((List.range 8).filter fun t => l.towers.getLsbD t).map fun t => BitVec.ofNat 3 t

/-- Queues of a launch in the unit of tower `t` in a class. -/
def Launch.queues (l : Launch) (t : BitVec 3) (cls : Nat) : Nat :=
  (l.nodes.filter fun n => !n.retired && n.cls == cls && (l.towersOf n).contains t).length

/-- The unit of tower `t` holds a launch: while it is live, its retired leaves too (DESIGN CHOICE, log 93). -/
def Launch.inTower (l : Launch) (t : BitVec 3) : Bool := l.nodes.any fun n => (l.towersOf n).contains t

/-- The watermark indices that a launch's producer links name. -/
def Launch.producers (l : Launch) : List Nat :=
  l.nodes.filterMap fun n => if n.kind == .kernel then linkOf n.aux 0 else none

/-- A launch waits under R51: for an earlier launch of its exclusive root, or for a watermark index. The same root address means the
same address in the same address space (DESIGN CHOICE, log 93). -/
def State.excluded (s : State) (l : Launch) : Bool :=
  let root (x : Launch) : Word := ((x.nodes.head?).map Node.addr).getD 0
  let earlier := s.dev.launches.takeWhile fun x => x.num != l.num
  (((l.nodes.head?).map Node.excl).getD false && earlier.any fun x =>
    (x.st == .queued || x.st == .live) && root x == root l && fld x.ptbase 48 16 == fld l.ptbase 48 16) ||
  l.producers.any fun k => (s.wm k).holder.isSome

/-- The launch would give some unit more than 256 queues of a class (R53). -/
def State.queuesFull (s : State) (l : Launch) : Bool :=
  (List.range 8).any fun t => (List.range 4).any fun cls =>
    let t := BitVec.ofNat 3 t
    let live := (s.dev.launches.filter fun x => x.st == .live).map fun x => x.queues t cls
    decide (live.sum + l.queues t cls > 256)

/-- The seed of a generator (R56). -/
def seedOf (x : BitVec 32) : BitVec 32 := if x = 0 then 0x2545f491 else x

/-- The launch goes live: it seeds the units that held none, takes its watermark indices, and invalidates what the instruction caches
of its towers and the rind buffers hold of its address space (R51, R56, R81, R201, R285). -/
def State.goLive (s : State) (l : Launch) : State :=
  let seed := seedOf (((l.nodes.head?).map Node.seed).getD 0)
  let fresh := ((List.range 8).map fun t => BitVec.ofNat 3 t).filter fun t =>
    l.inTower t && !s.dev.launches.any fun x => x.st == .live && x.inTower t
  let s := fresh.foldl (fun s t => s.setTower t { s.tower t with gen := seed }) s
  let s := l.producers.foldl (fun s k => s.setWm k { holder := some l.num }) s
  let s := s.dropSpace (fld l.ptbase 48 16) (((List.range 8).map fun t => BitVec.ofNat 3 t).filter fun t => l.inTower t)
  s.mapLaunch l.num fun x => { x with st := .live }

def execLaunchDequeue (l : Nat) (s : State) : Host.Outcome State Fault Refusal :=
  event s (match s.launch? l with
    | some x =>
      let ahead := s.dev.launches.takeWhile fun y => y.num != l
      if x.st != .queued || s.excluded x || s.queuesFull x || ahead.any (fun y => y.st == .queued && !s.excluded y) then none
      else some (s.goLive x)
    | none => none)

end Sys2Proof.Machine
end

