-- ==== Sys2Proof/Machine/Place.lean ====
section
/-! DEFINITION. The placement unit: grants, caps, the lottery, the start of a context and the draw of a placement unit (R27, R30, R53 to R63). -/

namespace Sys2Proof.Machine

/-! ### Grants (R54, R61 to R63) -/

/-- The resident contexts of a core. -/
def State.residents (s : State) (core : BitVec 12) : List Ctx := s.ctxs.filter fun c => c.resident && c.coreid == core

/-- Allocated scratch blocks of a core: base and logarithm. -/
def State.blocksOf (s : State) (core : BitVec 12) : List (Nat × Nat) :=
  (s.residents core).filterMap fun c => if c.scrLog = 0 then none else some (c.scrBase, c.scrLog)

/-- The free blocks of the buddy allocator under a block of 2^(k + 12) bytes: logarithm and base, merged as far as buddies are
free (R61). -/
def freeBlocks (busy : List (Nat × Nat)) : Nat → Nat → List (Nat × Nat)
  | k, base =>
    let meets := busy.filter fun b => decide (b.1 < base + 2 ^ (k + 12) ∧ base < b.1 + 2 ^ b.2)
    if meets.isEmpty then [(k + 12, base)]
    else if meets.any fun b => decide (b.1 ≤ base ∧ base + 2 ^ (k + 12) ≤ b.1 + 2 ^ b.2) then []
    else match k with
      | 0 => []
      | k' + 1 => freeBlocks busy k' base ++ freeBlocks busy k' (base + 2 ^ (k' + 12))

/-- The better of two free blocks: the smaller order, then the lower address. -/
def smallerBlock (a b : Nat × Nat) : Nat × Nat := if a.1 < b.1 ∨ (a.1 = b.1 ∧ a.2 < b.2) then a else b

/-- Where a request of 2^log bytes is granted, next to the blocks allocated. -/
def grantBlock (busy : List (Nat × Nat)) (log : Nat) : Option Nat :=
  if log = 0 then some 0 else
  match (freeBlocks busy 7 0).filter fun b => decide (log ≤ b.1) with
  | [] => none
  | b :: bs => some (bs.foldl smallerBlock b).2

/-- A context slot, a scratch block and the tiles are free on a core. -/
def State.coreFits (s : State) (core : BitVec 12) (scr vat : Nat) : Bool :=
  decide ((s.residents core).length < 2) && (grantBlock (s.blocksOf core) scr).isSome && decide (vat ≤ s.vatFree core)

/-- The tower takes placements, and can grant the ways (R63, R387). -/
def State.towerTakes (s : State) (t : BitVec 3) (cave : Nat) : Bool :=
  let w := s.tower t
  (w.early || w.ready) && (cave == 0 || (w.ready && !w.arraysOff && decide (s.poolWays t + cave ≤ 12)))

/-- Graph leaves of a subtree that are placed and not retired, each one core (R39). -/
def State.graphsIn (s : State) (r : Nat × Nat) : Nat :=
  ((s.dev.launches.flatMap fun l => l.nodes.mapIdx fun k (n : Node) =>
    if n.kind == .graph && n.placed == 1 && !n.retired && s.under r (l.num, k) then 1 else 0)).sum

/-- No ancestor's cap is exceeded when the leaf gains these cores, graph cores, tiles, scratch units and ways; `skip` is a
context that gives up its own first (R27, R54, R58). -/
def State.capsAllow (s : State) (skip : Option Nat) (leaf : Nat × Nat) (cores : List (BitVec 12)) (graphs vat scr cave : Nat)
    (t : BitVec 3) : Bool :=
  (s.ancestors leaf).all fun r =>
    match s.node? r.1 r.2 with
    | none => true
    | some n =>
      let mine := s.ctxs.filter fun c => skip != some c.id && match c.leaf with | some q => s.under r q | none => false
      let res := mine.filter Ctx.resident
      let ways := mine.filter fun c => c.holdsCave && towerOf c.coreid == t
      decide (((res.map Ctx.coreid) ++ cores).dedup.length + s.graphsIn r + graphs ≤ n.caps.cores) &&
      decide ((res.map fun c => popcount c.vatmap).sum + vat ≤ n.caps.vat) &&
      decide ((res.map fun c => scrUnits c.scrLog).sum + scr ≤ n.caps.scr) &&
      decide ((ways.map Ctx.cavepart).sum + cave ≤ n.caps.cave)

/-- The cores and clusters of a tower. -/
def coresOf (t : BitVec 3) : List (BitVec 12) := (List.range 512).map fun k => BitVec.ofNat 12 (t.toNat * 512 + k)
def coreIn (t : BitVec 3) (cluster m : Nat) : BitVec 12 := BitVec.ofNat 12 (t.toNat * 512 + 4 * cluster + m)

/-- The first of the candidates with the least weight (R59). -/
def leastBy {α : Type} (f : α → Nat) : List α → Option α
  | [] => none
  | a :: l => some (l.foldl (fun b c => if f c < f b then c else b) a)

/-! ### Pools' rings (R36, R40, R41) -/

/-- The address of slot `i` of a pool's ring. -/
def Node.slotAddr (n : Node) (i : BitVec 32) : Word := n.code + BitVec.ofNat 64 (256 * (i.toNat % n.count))
/-- The phase byte that index `i` has when it is written. -/
def Node.phaseAt (n : Node) (i : BitVec 32) : Byte := phaseByte i (Nat.log2 n.count)

/-- The phase byte at the consumer index, as the placement unit reads it. A ring that does not translate is not ready (log 21). -/
def State.headByte (s : State) (l : Launch) (n : Node) : Option Nat :=
  (s.deviceRead l.ptbase (n.slotAddr n.cons + 0x18) 1).map Prod.fst

/-- The slot at the consumer index has been written (R40, R41). -/
def State.headTaken (s : State) (l : Launch) (n : Node) : Bool := s.headByte l n == some (n.phaseAt n.cons).toNat

/-- Its phase byte is one that no producer writes (R41). -/
def State.headBad (s : State) (l : Launch) (n : Node) : Bool := (s.headByte l n).any fun b => decide (b > 2)

/-- The only core that may run the record at the head: that of a suspension of the row variant (R335). -/
def State.headCore (s : State) (n : Node) : Option (BitVec 12) :=
  match n.resumes.find? fun r => r.idx == n.cons with
  | some r => (r.parked.bind fun id => s.ctx? id).map Ctx.coreid
  | none => none

/-- A question about the leaf's record or node awaits the host (R386). -/
def State.leafAsked (s : State) (l n : Nat) : Bool :=
  s.dev.asks.any (fun a => a.2 == .record l n) || s.dev.evwait.any fun e => e.ask == some (.record l n)

/-- The unit may act on the pool's ring. -/
def State.poolServed (s : State) (l : Launch) (k : Nat) (n : Node) : Bool :=
  !n.stopped && !n.retired && l.st == .live && !s.leafAsked l.num k

/-- The pool has a record to take. A record for which a slot has been placed and which is not yet dispatched still counts as work of
the queue (R54; DESIGN CHOICE, log 93). -/
def State.poolHas (s : State) (l : Launch) (k : Nat) (n : Node) : Bool := s.poolServed l k n && s.headTaken l n

/-- A slot of `core` may take the record at the head. -/
def State.poolReady (s : State) (l : Launch) (k : Nat) (n : Node) (core : BitVec 12) : Bool :=
  (match s.headCore n with | some c => c == core | none => true) && s.poolHas l k n

/-! ### The lottery (R55 to R57) -/

/-- One step of the generator. -/
def nextGen (x : BitVec 32) : BitVec 32 :=
  let x := x ^^^ (x <<< 13)
  let x := x ^^^ (x >>> 17)
  x ^^^ (x <<< 5)

/-- The walk over tickets: the first queue at which the sum passes `w`. -/
def walk {α : Type} (tickets : α → Nat) (w : Nat) : Nat → List α → Option α
  | _, [] => none
  | c, q :: qs => if w < c + tickets q then some q else walk tickets w (c + tickets q) qs

/-- A queue of a tower's unit: its launch and leaf. -/
structure Queue where
  l : Launch
  k : Nat
  n : Node

/-- A draw of the unit of tower `t` over eligible queues, in ascending queue index: the winner, and the generator and the loss
counters after it (R55 to R57). -/
def State.draw (s : State) (t : BitVec 3) (qs : List Queue) : Option Queue × State :=
  match (qs.map fun q => q.n.cls).max? with
  | none => (none, s)
  | some top =>
    let qs := qs.filter fun q => q.n.cls == top
    let loss (q : Queue) : Nat := q.n.loss[t.toNat]
    let x := nextGen (s.tower t).gen
    let total := (qs.map fun q => q.n.tickets).sum
    let win := (qs.find? fun q => decide (loss q ≥ 4096)).orElse fun _ =>
      walk (fun q => q.n.tickets) (x.toNat * total / 2 ^ 32) 0 qs
    let s := s.setTower t { s.tower t with gen := x }
    let won (q : Queue) : Bool := match win with | some w => w.l.num == q.l.num && w.k == q.k | none => false
    (win, qs.foldl (fun s q => s.mapNode q.l.num q.k fun n =>
      { n with loss := n.loss.set t.toNat (if won q then 0 else n.loss[t.toNat] + 1) }) s)

/-- Every queue of a tower's unit, in ascending queue index (R53). -/
def State.queuesOf (s : State) (t : BitVec 3) : List Queue :=
  (s.dev.launches.filter fun l => l.st == .live).flatMap fun l =>
    (l.nodes.mapIdx fun k (n : Node) => (⟨l, k, n⟩ : Queue)).filter fun q =>
      !q.n.retired && !q.n.stopped && (l.towersOf q.n).contains t

/-! ### Fit (R33, R54, R59, R60) -/

/-- Every producer instance of the linked watermark is placed or has retired (R33). -/
def Launch.producersPlaced (l : Launch) (n : Node) : Bool :=
  match linkOf n.aux 1 with
  | none => true
  | some k => l.nodes.all fun x =>
      !(x.kind == .kernel && linkOf x.aux 0 == some k) || x.retired || decide (x.placed ≥ x.count)

/-- An instance of the leaf is switched out, or stopped for a save that the host takes (R60, R356, R362). -/
def State.outOf (s : State) (l k : Nat) : Bool := s.ctxs.any fun c => c.isOut && c.leaf == some (l, k)

/-- The core that takes one context of a leaf: the fitting one with the fewest resident contexts, the lowest among equals. -/
def State.coreFor (s : State) (t : BitVec 3) (leaf : Nat × Nat) (n : Node) (cores : List (BitVec 12)) : Option (BitVec 12) :=
  if !s.towerTakes t n.cave then none else
  leastBy (fun c => (s.residents c).length) (cores.filter fun c =>
    s.coreFits c n.scr n.vat && s.capsAllow none leaf [c] 0 n.vat (scrUnits n.scr) n.cave t)

/-- The cluster holds a member of a gang copy. -/
def State.gangIn (s : State) (cluster : Nat) : Bool :=
  s.ctxs.any fun c => c.resident && c.gang.isSome && clusterOf c.coreid == cluster

/-- The cluster that takes one copy of a gang. -/
def State.clusterFor (s : State) (t : BitVec 3) (leaf : Nat × Nat) (n : Node) : Option Nat :=
  let ms := n.members
  let ways := (ms.map Member.cave).sum
  if !s.towerTakes t ways then none else
  let fits (cl : Nat) : Bool :=
    !s.gangIn (t.toNat * 128 + cl) &&
    (ms.mapIdx fun m (x : Member) => s.coreFits (coreIn t cl m) x.scr x.vat).all id &&
    s.capsAllow none leaf ((List.range ms.length).map (coreIn t cl)) 0 (ms.map Member.vat).sum
      (ms.map fun m => scrUnits m.scr).sum ways t
  leastBy (fun cl => ((List.range ms.length).map fun m => (s.residents (coreIn t cl m)).length).sum)
    ((List.range 128).filter fits)

/-- Where the next work of a queue goes. -/
inductive Spot where
  | core (c : BitVec 12)
  | cluster (k : Nat)
  | table

/-- The queue has work, and where it fits; none when it is not eligible (R54). -/
def State.spotFor (s : State) (t : BitVec 3) (q : Queue) : Option Spot :=
  let leaf := (q.l.num, q.k)
  match q.n.kind with
  | .interior => none
  | .kernel =>
    if decide (q.n.placed ≥ q.n.count) || !q.l.producersPlaced q.n || s.outOf q.l.num q.k then none
    else (s.coreFor t leaf q.n (coresOf t)).map .core
  | .gang => if q.n.placed ≥ q.n.count then none else (s.clusterFor t leaf q.n).map .cluster
  | .pool =>
    if !s.poolHas q.l q.k q.n then none
    else (s.coreFor t leaf q.n (match s.headCore q.n with | some c => [c] | none => coresOf t)).map .core
  | .graph =>
    let core := auxCore q.n.aux
    if q.n.placed != 0 || decide ((s.graph core).freeEntries.length < q.n.count) || !s.towerTakes t 0 ||
      !s.capsAllow none leaf [] 1 0 0 0 t then none
    else some .table

/-! ### Starting a context (R30, R59 to R63) -/

/-- The registers of a context that starts: everything but what its slot holds is as a context start has it. -/
def freshCtx (id : Nat) (l : Launch) (leaf : Nat × Nat) (n : Node) (core : BitVec 12) : Ctx :=
  { id := id, leaf := some leaf, coreid := core, region := n.addr, ptbase := l.ptbase, status := if l.sup then 1 else 0 }

/-- The argument registers x1 to x8. -/
def argRegs (args : List Word) : Vector Word 64 :=
  (List.range 8).foldl (fun x k => x.set (Fin.ofNat 64 (k + 1)) (args.getD k 0)) (Vector.replicate 64 0)

/-- Grant a slot, a scratch block, tiles and ways of a core to a new context. The launch is an acquire at system scope: nothing that the
core or the tower took before serves it (R48, R303, R308). -/
def State.grant (s : State) (c : Ctx) (scr vat cave : Nat) : State :=
  let s := s.acquireAt c.coreid .sys
  let taken := (s.residents c.coreid).map Ctx.slot
  let base := (grantBlock (s.blocksOf c.coreid) scr).getD 0
  let wb := if cave = 0 then 0 else dirtyCount s.free cave
  let c := { c with
    slot := taken.contains false, scrLog := scr, scrBase := base, vatn := vat
    vatmap := BitVec.ofNat 4 (2 ^ vat - 1), cavepart := cave, caveWb := wb }
  { s with
    others := c :: s.others
    dev := { s.dev with nextCtx := s.dev.nextCtx + 1 }
    free := if cave = 0 then s.free else s.free + 1 }

/-- Place an instance of a kernel. -/
def State.placeKernel (s : State) (q : Queue) (core : BitVec 12) : State :=
  let c := freshCtx s.dev.nextCtx q.l (q.l.num, q.k) q.n core
  (s.grant { c with phase := .running, pc := q.n.code, x := argRegs q.n.args, inst := BitVec.ofNat 64 q.n.placed }
    q.n.scr q.n.vat q.n.cave).mapNode q.l.num q.k fun n => { n with placed := n.placed + 1 }

/-- Place the members of a gang copy (R34, R35). -/
def State.placeGang (s : State) (q : Queue) (t : BitVec 3) (cluster : Nat) : State :=
  let copy := q.n.placed
  let one (s : State) (m : Nat × Member) : State :=
    let c := freshCtx s.dev.nextCtx q.l (q.l.num, q.k) q.n (coreIn t cluster m.1)
    s.grant { c with
      phase := .running, pc := m.2.code, x := argRegs q.n.args, gang := some (copy, m.1)
      inst := BitVec.ofNat 64 (4 * copy + m.1) } m.2.scr m.2.vat m.2.cave
  ((q.n.members.mapIdx fun k (m : Member) => (k, m)).foldl one s).mapNode q.l.num q.k fun n => { n with placed := copy + 1 }

/-- Give a slot to a pool's leaf; it waits for a record (R58). -/
def State.placePool (s : State) (q : Queue) (core : BitVec 12) : State :=
  let c := freshCtx s.dev.nextCtx q.l (q.l.num, q.k) q.n core
  s.grant { c with phase := .awaitTask } q.n.scr q.n.vat q.n.cave

/-- Place the winner of a draw. -/
def State.placeAt (s : State) (t : BitVec 3) (q : Queue) : Spot → State
  | .core c => match q.n.kind with
    | .pool => s.placePool q c
    | _ => s.placeKernel q c
  | .cluster k => s.placeGang q t k
  | .table => s.mapNode q.l.num q.k fun n => { n with placed := 1 }

/-- The draw of the unit of tower `t` over every queue that has work which fits, and the placement of the winner (R54 to R63). -/
def State.placeDraw (s : State) (t : BitVec 3) : Option State :=
  let eligible := (s.queuesOf t).filter fun q => (s.spotFor t q).isSome
  match s.draw t eligible with
  | (some q, s1) => (s.spotFor t q).map fun p => s1.placeAt t q p
  | (none, _) => none

end Sys2Proof.Machine
end

