-- ==== Sys2Proof/Machine/Tasks.lean ====
section
/-! DEFINITION. The end of contexts and tasks, continuation records, suspension, the grader and culling (R36 to R41, R58, R109,
R274, R281, R320 to R341, R375). -/

namespace Sys2Proof.Machine

/-! ### Releasing (R237, R282, R326, R375) -/

/-- Release every handle of a context as frel does: the layers of its groups are to be closed. -/
def State.freeHandles (s : State) (c : Ctx) : State :=
  let co := s.core c.coreid
  let layers := ((s.claims c.coreid).filter fun k => k.id == c.id && k.started).foldl
    (fun l k => l.set (Fin.ofNat 8 k.layer) .pending) co.layers
  (s.setCore c.coreid { co with layers := layers }).mapCtx c.id fun d => { d with h := Vector.replicate 16 {} }

/-- Free every graph entry that a context owns. -/
def State.freeEntries (s : State) (c : Ctx) : State :=
  s.setGraph c.coreid ((s.graph c.coreid).map fun e => if e.owner == some (.ctx c.id) then {} else e)

/-- A context that has left its core: its registers stand as they are, and nothing else of it is left (R224, R375). -/
def Ctx.gone (c : Ctx) : Ctx :=
  { c with
    id := 0, phase := .absent, stall := .none, leaf := none, gang := none, slot := false, scrLog := 0, scrBase := 0, vatn := 0
    lostStore := none, hostReq := none, saveSlot := none, hostSave := .no, pending := [], press := none, vp := none, vpOut := []
    replay := none, vatmap := 0, cavepart := 0, caveWb := 0, caveLost := false, scratch := [], cave := [], caveTags := []
    h := Vector.replicate 16 {}, cp := {}, gt := {} }

/-- The context is gone, with whatever it held. -/
def State.dropCtx (s : State) (id : Nat) : State :=
  if s.cx.id = id then { s with cx := s.cx.gone }
  else { s with others := s.others.filter fun c => c.id != id }

/-- A context that is done releases everything (R375). -/
def State.leave (s : State) (c : Ctx) : State := ((s.freeHandles c).freeEntries c).dropCtx c.id

/-- No other member of the context's gang copy is left. -/
def State.lastOfCopy (s : State) (c : Ctx) : Bool :=
  match c.leaf, c.gang with
  | some (l, n), some (copy, _) => (s.copyOf l n copy).all fun d => d.id == c.id
  | _, _ => true

/-- The pipes of a gang copy are discarded (R377). -/
def State.dropPipes (s : State) (c : Ctx) : State :=
  match c.leaf, c.gang with
  | some (l, n), some (copy, _) =>
    { s with dev := { s.dev with pipes := s.dev.pipes.filter fun p => !(p.l == l && p.n == n && p.copy == copy) } }
  | _, _ => s

/-- A context or a gang copy retires: by exit, or with a fault (R376, R378). -/
def State.retireCtx (s : State) (c : Ctx) (failed : Bool) : State :=
  let s1 := s.leave c
  if !s.lastOfCopy c then s1
  else
    let s2 := s1.dropPipes c
    match c.leaf with
    | none => s2
    | some r => if failed then s2.countFailed r else s2.countRetired r

/-! ### The slot draws again (R58) -/

/-- A pool fits the slot of a context: its grants are those that the slot holds, and no cap is exceeded once the slot serves
it. -/
def State.slotFits (s : State) (c : Ctx) (l k : Nat) (n : Node) : Bool :=
  n.scr == c.scrLog && n.vat == popcount c.vatmap && n.cave == c.cavepart &&
  s.capsAllow (some c.id) (l, k) [c.coreid] 0 n.vat (scrUnits n.scr) n.cave (towerOf c.coreid)

/-- The pools among which the slot of a context draws. -/
def State.poolsFor (s : State) (c : Ctx) : List Queue :=
  let t := towerOf c.coreid
  (s.queuesOf t).filter fun q =>
    q.n.kind == .pool && c.leaf.map Prod.fst == some q.l.num && s.poolReady q.l q.k q.n c.coreid && s.slotFits c q.l.num q.k q.n

/-- What the slot of a context holds for a leaf: what tasks of the same region have left, else zero (R324). -/
def Ctx.clearFor (c : Ctx) (leaf : Nat × Nat) : Ctx :=
  if c.leaf == some leaf then c
  else { c with p := Vector.replicate 64 0, v := Vector.replicate 64 0, sc := Vector.replicate 8 0, a := Vector.replicate 4 0, scratch := [] }

/-- The slot of context `id`, which waits for a task, draws; with no pool that qualifies, it goes back to the unit. -/
def State.redraw (s : State) (id : Nat) : State :=
  match s.ctx? id with
  | none => s
  | some c =>
    if c.phase != .awaitTask then s
    else match s.draw (towerOf c.coreid) (s.poolsFor c) with
      | (some q, s1) => s1.mapCtx id fun c => { c.clearFor (q.l.num, q.k) with leaf := some (q.l.num, q.k), region := q.n.addr, vatn := q.n.vat }
      | (none, s1) => s1.dropCtx id

/-- What is left of a context between two tasks: its slot's resources (R324, R326). -/
def Ctx.between (c : Ctx) : Ctx :=
  { id := c.id, phase := .awaitTask, leaf := c.leaf, slot := c.slot, scrLog := c.scrLog, scrBase := c.scrBase, vatn := c.vatn,
    coreid := c.coreid, region := c.region, ptbase := c.ptbase, p := c.p, v := c.v, sc := c.sc, a := c.a, vatmap := c.vatmap,
    cavepart := c.cavepart, caveWb := c.caveWb, caveLost := c.caveLost, scratch := c.scratch, cave := c.cave,
    caveTags := c.caveTags }

/-- The task of a context ends: everything but the slot is released, and the slot draws (R326). -/
def State.endTaskOf (s : State) (c : Ctx) : State :=
  (((s.freeHandles c).freeEntries c).mapCtx c.id Ctx.between).redraw c.id

/-- The task of the context in focus ends. -/
def State.endTask (s : State) : State := s.endTaskOf s.cx

def execExit (s : State) : Host.Outcome State Fault Refusal :=
  issue .exit s fun s => do
    let s ← s.drain
    pure (.as (if s.cx.inTask then s.endTask else s.retireCtx s.cx false))

def execTdone (m : Mods) (s : State) : Host.Outcome State Fault Refusal :=
  let i : Instr := .tdone m
  issue i s fun s => do
    operandTrapIf i (!s.cx.inTask) s
    let s ← s.drain
    pure (.as s.endTask)

/-! ### Incumbents (R327 to R332, R337 to R340) -/

/-- MODE of an incumbent: f32 objectives. A change reaches the grader and every shadow at once (R322; DESIGN CHOICE, log 96). -/
def State.floatMode (s : State) (k : Nat) : Bool := s.dev.incmode.getLsbD k

/-- An objective that is an f32 NaN. -/
def objNan (v : Nat) : Bool := (fmtVal .f32 v).isNan

/-- The order of two objectives of 32 bits; none when one is a NaN. −0 equals +0 (R327). -/
def objCmp (float : Bool) (a b : Nat) : Option Ordering :=
  if float then cmpVal (fmtVal .f32 a) (fmtVal .f32 b)
  else some (compare (BitVec.ofNat 32 a).toInt (BitVec.ofNat 32 b).toInt)

/-- Key `a` is better than key `b`: smaller, and a key with no solution is worse than every key (R327). -/
def keyBetter (float : Bool) (a b : Word) : Bool :=
  let oa := fld a 32 32
  let ob := fld b 32 32
  if float && objNan ob then !objNan oa
  else match objCmp float oa ob with
    | some .lt => true
    | some .eq => decide (fld a 0 32 < fld b 0 32)
    | _ => false

/-- A mode-1 objective of −0 is stored as +0. -/
def keyStored (float : Bool) (k : Word) : Word := if float && fld k 32 32 == 0x80000000 then k &&& 0x7fffffffffffffff else k

/-- One incupd at the grader: the key after it (R329, R339). -/
def graded (float set : Bool) (old key : Word) : Word :=
  let k := keyStored float key
  if set then k else if keyBetter float k old then k else old

/-- A bound that cannot strictly improve on a key's objective (R331). -/
def culls (float : Bool) (bound : Nat) (key : Word) : Bool :=
  match objCmp float bound (fld key 32 32) with
  | some .lt => false
  | some _ => true
  | none => false

/-- The incumbent that a task searches. -/
def Ctx.search (c : Ctx) : Nat := fld c.task 0 4

def State.inc (s : State) (k : Nat) : Word := s.dev.inc[Fin.ofNat 16 k]
def State.setInc (s : State) (k : Nat) (v : Word) : State :=
  { s with dev := { s.dev with inc := s.dev.inc.set (Fin.ofNat 16 k) v } }

/-- CULLED of a pool rises. -/
def State.countCull (s : State) (r : Nat × Nat) : State := s.mapNode r.1 r.2 fun n => { n with culled := n.culled + 1 }

def execKpt (m : Mods) (s : State) : Host.Outcome State Fault Refusal :=
  issue (.kpt m) s fun s => do
    let c := s.cx
    let k := c.search
    if c.inTask && !bitOf c.task 28 && culls (s.floatMode k) (fld c.bound 0 32) s.co.shadows[Fin.ofNat 16 k] then do
      let s ← s.drain
      pure (.as (match c.leaf with | some r => (s.countCull r).endTask | none => s.endTask))
    else pure (.adv s)

/-- The worse of two bounds (R338). -/
def worseBound (float : Bool) (a b : Nat) : Nat :=
  if float && objNan a then a else if float && objNan b then b
  else match objCmp float a b with
    | some .lt => b
    | _ => a

def execBnd (m : Mods) (a : Reg) (s : State) : Host.Outcome State Fault Refusal :=
  let i : Instr := .bnd m a
  issue i s fun s => do
    let c := s.cx
    operandTrapIf i (!c.inTask) s
    let b := worseBound (s.floatMode c.search) (fld c.bound 0 32) (fld (c.readX a) 0 32)
    pure (.adv (s.upd fun c => { c with bound := BitVec.ofNat 64 b }))

/-- incupd and incupd.set (R339). -/
def incupdWith (i : Instr) (set : Bool) (d a b : Reg) (s : State) : Run Done := do
  let key := s.cx.readX a
  let k := b.toNat
  trapIf (set && !s.cx.sup) .priv i.tval s
  trapIf (s.floatMode k && objNan (fld key 32 32)) .graderInvalid key s
  let s ← s.release
  let old := s.inc k
  pure (.adv ((s.setInc k (graded (s.floatMode k) set old key)).upd fun c => c.writeX d old))

def execIncupd (m : Mods) (d a b : Reg) (s : State) : Host.Outcome State Fault Refusal :=
  issue (.incupd m d a b) s (incupdWith (.incupd m d a b) false d a b)
def execIncupdSet (m : Mods) (d a b : Reg) (s : State) : Host.Outcome State Fault Refusal :=
  issue (.incupdSet m d a b) s (incupdWith (.incupdSet m d a b) true d a b)

def execIncrd (m : Mods) (d a : Reg) (s : State) : Host.Outcome State Fault Refusal :=
  issue (.incrd m d a) s fun s => .ok (.adv ((s.acquire .dev).upd fun c => c.writeX d (s.inc a.toNat)))
def execIncrdSh (m : Mods) (d a : Reg) (s : State) : Host.Outcome State Fault Refusal :=
  issue (.incrdSh m d a) s fun s => .ok (.adv (s.upd fun c => c.writeX d s.co.shadows[Fin.ofNat 16 a.toNat]))

/-- An incupd of another agent; in mode 1 a NaN performs nothing (R327, R329). -/
def execGraderUpdate (k : BitVec 4) (key : BitVec 64) (s : State) : Host.Outcome State Fault Refusal :=
  let f := s.floatMode k.toNat
  event s (if f && objNan (fld key 32 32) then none else some (s.setInc k.toNat (graded f false (s.inc k.toNat) key)))

/-- A shadow takes the incumbent's key, of a core or of a tower's placement unit (R330): the present one, and none that the incumbent
held before (DESIGN CHOICE, log 96). -/
def execShadowRefresh (tower : Bool) (core : BitVec 12) (k : BitVec 4) (s : State) : Host.Outcome State Fault Refusal :=
  let key := s.inc k.toNat
  event s (
    if tower then
      let t := towerOf core
      some (s.setTower t { s.tower t with shadows := (s.tower t).shadows.set k.toNat key })
    else some (s.setCore core { s.core core with shadows := (s.core core).shadows.set k.toNat key }))

/-! ### Continuation records (R37, R38) -/

/-- A record without its phase byte; `search` holds SEARCH and NOCULL. -/
def recordImage (pc live : Word) (bound pool search : Nat) (regs : List Word) (result : Nat) : BitVec 2048 :=
  BitVec.ofNat 2048 (pc.toNat + live.toNat * 2 ^ 64 + bound % 2 ^ 32 * 2 ^ 128 + pool % 2 ^ 12 * 2 ^ 160 + search % 2 ^ 8 * 2 ^ 176
    + ofBytes ((regs.take 16).flatMap fun w => bytesOf 8 w.toNat) * 2 ^ 512 + result % 2 ^ 512 * 2 ^ 1536)

/-- The registers of a mask, in ascending order. -/
def liveRegs (live : Word) : List Nat := (List.range 64).filter fun j => bitOf live j
/-- The values of the registers of a mask. -/
def Ctx.liveValues (c : Ctx) (live : Word) : List Word := (liveRegs live).map fun j => c.readX (BitVec.ofNat 6 j)

def rb2 (r : BitVec 2048) (o n : Nat) : Nat := (r.extractLsb' (8 * o) (8 * n)).toNat

/-- A record that is not run (R38). -/
def recordInvalid (r : BitVec 2048) (pool : Nat) : Bool :=
  rb2 r 0 8 % 4 != 0 || liveBad (BitVec.ofNat 64 (rb2 r 8 8)) || rb2 r 0x14 2 != pool || rb2 r 0x16 1 / 16 % 8 != 0 ||
  rb2 r 0x17 1 != 0 || rb2 r 0x19 39 != 0

/-- The ring is full: nothing is written while its producer is a whole ring ahead (R40). -/
def Node.full (n : Node) : Bool := decide ((n.prod - n.cons).toNat ≥ n.count)

/-- Produce a record at the producer index of a pool, its phase byte last. -/
def State.produce (s : State) (l : Launch) (k : Nat) (n : Node) (r : BitVec 2048) : State :=
  let s := s.deviceWrite l.ptbase (n.slotAddr n.prod) 256 r.toNat
  let s := s.deviceWrite l.ptbase (n.slotAddr n.prod + 0x18) 1 (n.phaseAt n.prod).toNat
  s.mapNode l.num k fun n => { n with prod := n.prod + 1 }

/-- The pool that a spawn names: a live pool of the issuer's launch in the issuer's tower, whose spawn scope holds the issuer's
leaf (R334). -/
def State.spawnPool (s : State) (pool : Nat) : Option (Launch × Nat × Node) :=
  match s.cx.leaf with
  | none => none
  | some leaf =>
    match s.launch? leaf.1 with
    | none => none
    | some l =>
      ((l.nodes.mapIdx fun k (n : Node) => (l, k, n)).find? fun q =>
        let n := q.2.2
        n.kind == .pool && !n.retired && auxPool n.aux == pool && auxTower n.aux == towerOf s.cx.coreid &&
        match n.parent with
        | some p => s.under (l.num, p) leaf
        | none => leaf == (l.num, q.2.1))

def execSpawn (m : Mods) (d a b c : Reg) (s : State) : Host.Outcome State Fault Refusal :=
  let i : Instr := .spawn m d a b c
  issue i s fun s => do
    let x := s.cx
    let desc := x.readX b
    let pc := x.readX a
    trapIf (m.form == .c && b.toNat % 2 == 1) .illOperand i.tval s
    let live := if m.form = .c then x.readX (b + 1) else x.readX c
    trapIf (fld desc 4 15 != 0) .illEnc desc s
    trapIf (fld pc 0 2 != 0 || fld pc 56 8 != 0) .illOperand pc s
    trapIf (liveBad live) .illOperand live s
    let pool := fld desc 20 12
    match s.spawnPool pool with
    | none => .error (.trap .poolInvalid (BitVec.ofNat 64 pool) s)
    | some (l, k, n) =>
      if n.full then pure (.adv (s.upd fun y => y.writeP d 0))
      else do
        let s ← s.release
        let search := fld desc 0 4 + if bitOf desc 19 then 128 else 0
        let r := recordImage pc live (fld desc 32 32) pool search (x.liveValues live) 0
        pure (.adv ((s.produce l k n r).upd fun y => y.writeP d (BitVec.allOnes 4096)))

/-! ### Suspension (R274, R281, R335) -/

/-- DRAIN but for the operation that the suspension waits on: the results of a channel, or a node. -/
def State.drainBut (s : State) (chan : Option Bool) (node : Option Nat) : Run State :=
  let c := s.cx
  let others := (List.range 64).any fun k =>
    let e := s.table.at k
    e.st == .running && e.owner == some (.ctx c.id) && node != some k
  let busy (gt : Bool) : Bool := chan != some gt && (c.chan gt).infl != 0
  if s.writesOut c.id || s.flushesOut c || s.queued c || busy false || busy true || others || s.walksOut c.id then .error (.wait s)
  else s.release

/-- The record that the task leaves, with `pc` to go on at. -/
def Ctx.continuation (c : Ctx) (pc : Word) : BitVec 2048 :=
  recordImage pc c.tlive (fld c.bound 0 32) (fld c.task 16 12) (c.search + if bitOf c.task 28 then 128 else 0)
    (c.liveValues c.tlive) 0

/-- The suspension buffer of the tower is full. -/
def State.suspFull (s : State) : Bool := decide (s.tw.susp.length ≥ 4096)

/-- The context that keeps what the suspended task waits on: its handles, channels and entries. The elements in its rings go with the
task (R324, R375). -/
def Ctx.parked (c : Ctx) (handles : Bool) : Ctx :=
  { c with
    phase := .parked, stall := .none, press := none, vp := none, vpOut := [], strip := 0, scrLog := 0, cavepart := 0, vatmap := 0
    scratch := [], cave := [], caveTags := [], pending := []
    cp := { c.cp with ring := [], scopes := [] }, gt := { c.gt with ring := [], scopes := [] }
    h := if handles then c.h else Vector.replicate 16 {} }

/-- The task of the context in focus suspends: its record goes into the buffer, and the slot draws. With `park`, a context of
its own keeps what it waits on; the graph entries but that one are freed. -/
def State.suspendTask (s : State) (wait : SusWait) (deliver : Deliver) (pc : Word) (park handles : Bool) (node : Option Nat) :
    State :=
  let c := s.cx
  let leaf := c.leaf.getD (0, 0)
  let e : Susp := ⟨leaf, c.continuation pc, wait, deliver, if park then some c.id else none⟩
  let s := { s with tw := { s.tw with susp := s.tw.susp ++ [e] } }
  if park then
    let s := if handles then s else s.freeHandles c
    let g : Graph := s.table
    let s := s.setTable (g.mapIdx fun k (e : GEntry) => if e.owner == some (.ctx c.id) && node != some k then {} else e)
    let fresh := { c.between with id := s.dev.nextCtx }
    let s := { s with
      cx := fresh, others := c.parked handles :: s.others
      dev := { s.dev with nextCtx := s.dev.nextCtx + 1 } }
    s.redraw fresh.id
  else s.endTask

/-- The pc of the instruction after `i`. -/
def Ctx.after (c : Ctx) (i : Instr) : Word := c.pc + BitVec.ofNat 64 i.bytes

def execSuspend (m : Mods) (s : State) : Host.Outcome State Fault Refusal :=
  let i : Instr := .suspend m
  issue i s fun s => do
    operandTrapIf i (!s.cx.inTask) s
    let s ← s.drain
    waitIf s.suspFull s
    pure (.as (s.suspendTask .ready .none (s.cx.after i) false false none))

def execSuspendLd (m : Mods) (d a : Reg) (s : State) : Host.Outcome State Fault Refusal :=
  let i : Instr := .suspendLd m d a
  issue i s fun s => do
    operandTrapIf i (!s.cx.inTask) s
    let va := s.cx.readX a
    trapIf (va.toNat % 64 != 0) .align va s
    match s.resolve s.cx .g .load va 64 with
    | .error (e, v) => .error (.trap e v s)
    | .ok (s1, p) =>
      trapIf (p.inReg || s.peerFails p) .dataAccess va s
      trapIf (s.poisoned p) .dataLost va s
      walkFree s .g .load va 64
      let s2 : State ← match s1.drain with
        | .ok t => .ok t
        | .error (.wait _) => .error (.wait s)
        | .error (.trap e v t) => .error (.trap e v t)
      waitIf s.suspFull s
      let leaf := s.cx.leaf.getD (0, 0)
      let uc := match p with
        | .g ls => ls.any Loc.uc
        | _ => false
      let s3 := { s2 with pend := s2.pend ++ [Pend.load (towerOf s.cx.coreid) leaf p.pairs uc] }
      pure (.as (s3.suspendTask (.load (p.pairs.headD (0, 0)).1 s.cx.pc va) (.regs d 8) (s.cx.after i) false false none))

def execSuspendRow (m : Mods) (d a : Reg) (s : State) : Host.Outcome State Fault Refusal :=
  let i : Instr := .suspendRow m d a
  issue i s fun s => do
    operandTrapIf i (!s.cx.inTask) s
    let g := s.cx.readX a
    match s.rowactTrap d g with
    | some (e, v) => .error (.trap e v s)
    | none =>
      let s ← s.drain
      waitIf s.suspFull s
      pure (.as ((s.claimGroup d g.toNat).suspendTask (.row (d.setWidth 4)) .row (s.cx.after i) true true none))

/-- epop.sus (R274): outside a task, and in one with no command in flight (DESIGN CHOICE, log 50), the plain form; in a task it stalls
while more than one command is in flight, and with one the task suspends until that command's element is there. -/
def execEpopSus (m : Mods) (d : Reg) (gt : Bool) (s : State) : Host.Outcome State Fault Refusal :=
  let i : Instr := .epopSus m d gt
  issue i s fun s => do
    let n := (s.cx.chan gt).infl
    if s.cx.inTask && n != 0 then do
      waitIf (decide (n > 1)) s
      let s ← s.drainBut (some gt) none
      waitIf s.suspFull s
      pure (.as (s.suspendTask (.command gt) (.regs d 2) (s.cx.after i) true false none))
    else (s.pop d gt).map .adv

/-- gwait.sus: in a task whose entry is pending, the task suspends until it is DONE or FAILED (R281). -/
def execGwaitSus (m : Mods) (a : Reg) (s : State) : Host.Outcome State Fault Refusal :=
  let i : Instr := .gwaitSus m a
  issue i s fun s => do
    let k := (s.cx.readX a).toNat
    if s.cx.inTask && s.table.owned s.cx.id k && (s.table.at k).isPending then do
      let s ← s.drainBut none (some k)
      waitIf s.suspFull s
      pure (.as (s.suspendTask (.node s.cx.coreid k) (.fault .engineFault s.cx.pc 0) (s.cx.after i) true false (some k)))
    else gwaitOn i a s

/-- What a suspension delivers when its operation is done, with RESULT; none while it is not. -/
def State.suspDone (s : State) (e : Susp) : Option (Deliver × BitVec 2048) :=
  let parked := e.parked.bind fun id => s.ctx? id
  match e.wait with
  | .ready => some (e.deliver, e.image)
  | .load _ _ _ => none
  | .row h =>
    match (parked.map fun c => c.h[h.toNat].group).getD .none with
    | .held _ | .lost _ => some (e.deliver, e.image)
    | _ => none
  | .command gt =>
    match (parked.map fun c => (c.chan gt).ring).getD [] with
    | x :: _ => some (e.deliver, e.image ||| BitVec.ofNat 2048 (x.toNat * 2 ^ 1536))
    | _ => none
  | .node core k =>
    let x := (s.graph core).at k
    if x.isPending then none
    else
      let pc := match e.deliver with | .fault _ pc _ => pc | _ => 0
      some (if x.st == .failed then .fault .engineFault pc (x.faultTval k) else .none, e.image)

/-- The context that a suspension kept goes. -/
def State.unpark (s : State) (id : Option Nat) : State :=
  match id.bind fun k => s.ctx? k with
  | some c => s.leave c
  | none => s

/-- The scope at which the task that resumes acquires: its epop.sus at that of its command, its gwait.sus at system scope (R271, R281),
any other at that of the ring (R325). -/
def State.suspScope (s : State) (e : Susp) : Scope :=
  match e.wait with
  | .command gt => ((((e.parked.bind fun id => s.ctx? id).map fun c => (c.chan gt).scopes).getD []).head?).getD .sys
  | .node _ _ => .sys
  | _ => .tow

/-- The operation of entry `n` is done: the hardware produces the record, once the ring has room. An entry of a stopped leaf
leaves no record, and its task counts as retired with a fault (R335, R376). -/
def execSuspendComplete (t : BitVec 3) (n : Nat) (s : State) : Host.Outcome State Fault Refusal :=
  let tw := s.tower t
  event s (match tw.susp[n]? with
    | none => none
    | some e =>
      match s.suspDone e, s.launch? e.leaf.1, s.node? e.leaf.1 e.leaf.2 with
      | some (deliver, image), some l, some x =>
        let out := s.setTower t { tw with susp := tw.susp.eraseIdx n }
        if x.stopped then some ((out.unpark e.parked).countFailed e.leaf)
        else if x.full then none
        else
          let keep := match deliver with | .row => e.parked | _ => none
          let s1 := if keep.isSome then out else out.unpark e.parked
          let s2 := s1.mapNode e.leaf.1 e.leaf.2 fun y => { y with resumes := y.resumes ++ [⟨y.prod, deliver, keep, s.suspScope e⟩] }
          some (s2.produce l e.leaf.2 x image)
      | _, _, _ => none)

/-! ### Taking a record (R38, R40, R41, R324, R331, R332) -/

/-- The tiles that a slot has kept take the names a0 upwards, with what is in them (R62, R248, R249). -/
def Ctx.nameTiles (c : Ctx) : Ctx :=
  let held := (List.finRange 4).filter fun k => c.vatmap.getLsbD k.val
  { c with
    a := c.a.mapIdx fun k (t : Tile) => match held[k]? with | some j => c.a[j] | none => t
    vatmap := BitVec.ofNat 4 (2 ^ held.length - 1) }

/-- The context as a task's first instruction finds it. -/
def Ctx.startTask (c : Ctx) (l : Launch) (n : Node) (r : BitVec 2048) (res : Bool) : Ctx :=
  let live := BitVec.ofNat 64 (rb2 r 8 8)
  let search := rb2 r 0x16 1
  let c := { c.between.nameTiles with
    phase := .running, pc := BitVec.ofNat 64 (rb2 r 0 8), region := n.addr, status := if l.sup then 1 else 0
    bound := BitVec.ofNat 64 (rb2 r 0x10 4), tlive := live, vatn := n.vat
    task := BitVec.ofNat 64 (2 ^ 63 + (if res then 2 ^ 29 else 0) + search / 128 * 2 ^ 28 + rb2 r 0x14 2 % 2 ^ 12 * 2 ^ 16
      + search % 16) }
  c.putRegs ((liveRegs live).mapIdx fun k j => (BitVec.ofNat 6 j, BitVec.ofNat 64 (rb2 r (0x40 + 8 * k) 8)))

/-- What a resume delivers: RESULT into registers, the handles of the row variant, or the trap of the suspending instruction (R281, R335,
R383). -/
def Ctx.receive (c : Ctx) (r : BitVec 2048) (parked : Option Ctx) : Deliver → Ctx
  | .none => c
  | .regs d n =>
    c.putRegs ((List.range n).map fun k => (d + BitVec.ofNat 6 k, BitVec.ofNat 64 (rb2 r (0xc0 + 8 * k) 8)))
  | .row => match parked with | some p => { c with h := p.h } | none => c
  | .fault cause pc v => { c with pc := pc, stall := .raise cause v }

/-- Drop the context that kept the handles of a row suspension; `moved` when a task has taken them over. -/
def State.endPark (s : State) (id : Option Nat) (moved : Bool) : State :=
  match id.bind fun k => s.ctx? k with
  | some c => if moved then (s.freeEntries c).dropCtx c.id else s.leave c
  | none => s

/-- The slot at the consumer index is consumed; the context that a suspension kept for its record, if any. -/
def State.consume (s : State) (leaf : Nat × Nat) (n : Node) : Option Nat × State :=
  ((n.resumes.find? fun q => q.idx == n.cons).bind Resume.parked, s.mapNode leaf.1 leaf.2 fun n =>
    { n with cons := n.cons + 1, resumes := n.resumes.filter fun q => q.idx != n.cons })

/-- The record at the head of a pool is not run: POOL_INVALID under the leaf's fault domain, one task of the leaf that retires with a
fault, and the slot is consumed; it is a trap that SNAPCTL may name (R38, R41, R389). -/
def State.reportHead (s : State) (leaf : Nat × Nat) (n : Node) : State :=
  let (parked, s) := s.consume leaf n
  (State.trapSnap ((s.endPark parked false).countFailed leaf) Cause.poolInvalid.code).unhandledAt none leaf Cause.poolInvalid.code 0 (n.slotAddr n.cons) 0 0 0xffff
    (auxTower n.aux)

/-- The unit of a tower reads a phase byte that no producer writes at the head of a pool: it reports it at once, whether the pool
could be served or not (R41); else it draws. -/
def execPlacementDraw (t : BitVec 3) (s : State) : Host.Outcome State Fault Refusal :=
  event s (
    match (s.queuesOf t).find? fun q => q.n.kind == .pool && s.poolServed q.l q.k q.n && s.headBad q.l q.n with
    | some q => some (s.reportHead (q.l.num, q.k) q.n)
    | none => s.placeDraw t)

/-- What the task that takes a record acquires: at tower scope, and at system scope where its epop or gwait acquires there (R271, R281,
R325). -/
def State.takeAcquire (s : State) (core : BitVec 12) (sc : Scope) : State := s.acquireAt core (if sc = .sys then .sys else .tow)

/-- A record is taken for the slot of context `id`: it is reported, culled or run. With none to take, the slot draws again. -/
def execPoolDispatch (id : Nat) (s : State) : Host.Outcome State Fault Refusal :=
  event s (match s.ctx? id with
    | none => none
    | some c =>
      if c.phase != .awaitTask then none
      else match c.leaf with
        | none => none
        | some leaf =>
          match s.launch? leaf.1, s.node? leaf.1 leaf.2 with
          | some l, some n =>
            if s.poolServed l leaf.2 n && s.headBad l n then some ((s.reportHead leaf n).redraw id)
            else if !s.poolReady l leaf.2 n c.coreid then some (s.redraw id)
            else
              match s.deviceRead l.ptbase (n.slotAddr n.cons) 256 with
              | none => some (s.redraw id)
              | some (v, s1) =>
                let r : BitVec 2048 := BitVec.ofNat 2048 v
                let search := rb2 r 0x16 1 % 16
                if recordInvalid r (auxPool n.aux) then some ((s1.reportHead leaf n).redraw id)
                else
                  let (parked, s2) := s1.consume leaf n
                  let t := towerOf c.coreid
                  if rb2 r 0x16 1 < 128 && culls (s.floatMode search) (rb2 r 0x10 4) (s.tower t).shadows[Fin.ofNat 16 search] then
                    some (((s2.endPark parked false).countCull leaf).redraw id)
                  else
                    let resume := n.resumes.find? fun q => q.idx == n.cons
                    let deliver := (resume.map Resume.deliver).getD .none
                    let kept := parked.bind fun k => s2.ctx? k
                    let d := (c.startTask l n r resume.isSome).receive r kept deliver
                    some (((s2.endPark parked true).takeAcquire c.coreid ((resume.map Resume.scope).getD .tow)).mapCtx id fun _ => d)
          | _, _ => none)

end Sys2Proof.Machine
end

