-- ==== Sys2Proof/Machine/Sched.lean ====
section
/-! DEFINITION. Asynchronous traps taken, contexts switched out and resumed (R60, R64, R351, R356 to R362). -/

namespace Sys2Proof.Machine

/-! ### Taking an asynchronous trap (R351) -/

/-- The context in focus stands where it may take its pending trap: R357 lets it, and nothing has to be done first (R351, R353). -/
def State.asyncReady (s : State) : Bool := s.strikes s.cx && !s.trapWaits s.cx

/-- The context in focus takes its pending trap here. -/
def State.asyncDue (s : State) : Bool := s.cx.asyncWants && s.asyncReady

/-- The context issues nothing more before the trap that pends (R357). -/
def State.asyncWaits (s : State) : Bool := s.cx.asyncWants && s.cx.vpNow.isNone && !s.asyncReady

/-- Take the oldest pending trap: an instruction that stopped between two elements is recorded (R351, R354). -/
def State.takeAsync (s : State) : State :=
  match s.cx.pending with
  | [] => s
  | (cause, v) :: rest =>
    let (recorded, len) := match s.cx.stall with
      | .elem len => (true, len)
      | _ => (false, 4)
    let s := s.upd fun c => { c with pending := rest }
    s.enterTrap cause v true recorded len s.cx.pc s.cx.prev

def execAsyncTrap (s : State) : Host.Outcome State Fault Refusal :=
  event s (if s.asyncDue then some s.takeAsync else none)

/-! ### Switching out (R64, R356, R357, R359, R362) -/

/-- The node of a context's leaf. -/
def State.leafOf (s : State) (c : Ctx) : Option Node := c.leaf.bind fun r => s.node? r.1 r.2

/-- Free slots of the save area that a context's leaf names, the lowest ones first, in the order of the members of a gang copy (DESIGN
CHOICE, log 96); occupancy is counted by the area's address in its address space (R30, R50, R51, R359; DESIGN CHOICE, log 95). A leaf with SAVE 0 names
no area, whatever its SAVEN (DESIGN CHOICE, log 95). -/
def State.saveSlots (s : State) (c : Ctx) : List Nat :=
  match s.leafOf c with
  | none => []
  | some n =>
    let used := s.ctxs.filterMap fun d =>
      match d.phase, s.leafOf d with
      | .switchedOut, some m =>
        if m.save == n.save && fld d.ptbase 48 16 == fld c.ptbase 48 16 then d.saveSlot else none
      | _, _ => none
    if n.save = 0 then [] else (List.range (min n.saven (used.length + 4))).filter fun k => !used.contains k

/-- A queue of tower `t` whose leaf has PREEMPT, with work that fits nowhere (R64). -/
def State.waitsForRoom (s : State) (t : BitVec 3) (q : Queue) : Bool :=
  q.n.preempt && (s.spotFor t q).isNone &&
  match q.n.kind with
  | .interior => false
  | .kernel => decide (q.n.placed < q.n.count) && q.l.producersPlaced q.n && !s.outOf q.l.num q.k
  | .gang => decide (q.n.placed < q.n.count)
  | .pool => s.poolHas q.l q.k q.n
  | .graph => q.n.placed == 0

/-- A context that pre-emption may choose under a queue of class `cls`: resident, of a lower class, with free save slots. One that
stands for an answer of the host, and a slot between tasks, is passed by (R64 does not say; DESIGN CHOICE, log 95). -/
def State.victimOk (s : State) (t : BitVec 3) (cls : Nat) (c : Ctx) : Bool :=
  c.phase == .running && towerOf c.coreid == t && decide ((s.saveSlots c).length ≥ (s.together c).length) &&
  match s.leafOf c with
  | some n => decide (n.cls < cls)
  | none => false

/-- The place of a context's launch in the order of acceptance. -/
def State.launchOrder (s : State) (c : Ctx) : Nat :=
  s.dev.launches.findIdx fun l => c.leaf.map Prod.fst == some l.num

/-- `b` goes before `a` as a victim: a lower class, then a later launch, then a higher instance of the same kernel. -/
def State.betterVictim (s : State) (a b : Ctx) : Bool :=
  let ca := ((s.leafOf a).map Node.cls).getD 0
  let cb := ((s.leafOf b).map Node.cls).getD 0
  if cb != ca then decide (cb < ca)
  else if s.launchOrder b != s.launchOrder a then decide (s.launchOrder a < s.launchOrder b)
  else b.leaf == a.leaf && decide (a.inst.toNat < b.inst.toNat) && b.gang.isNone

/-- Context `c` is the victim of some queue that waits for room. The lowest class and the highest instance are those among the contexts
of the unit's tower (R60, R64; DESIGN CHOICE, log 93). -/
def State.isVictim (s : State) (c : Ctx) : Bool :=
  let t := towerOf c.coreid
  match (((s.queuesOf t).filter (s.waitsForRoom t)).map fun q => q.n.cls).max? with
  | none => false
  | some cls =>
    s.victimOk t cls c && !(s.ctxs.any fun d => d.id != c.id && s.victimOk t cls d && s.betterVictim c d)

/-- The saves of the contexts that are switched out together. -/
def State.switchAll (s : State) (cs : List Ctx) (slots : List Nat) : State :=
  (cs.zip slots).foldl (fun s x => match s.ctx? x.1.id with | some c => s.switchOut c x.2 | none => s) s

/-- A host-assisted save is under way. -/
def State.saving (s : State) : Bool := s.ctxs.any fun c => c.hostSave != .no

/-- The contexts stop together for saves that the host takes, one after the other (R64, R362). -/
def State.stopAll (s : State) (cs : List Ctx) : State :=
  (cs.foldl (fun s x => match s.ctx? x.id with | some c => s.stopForHost c | none => s) s).askSave

/-- Context `id` is switched out, with its gang copy, when nothing keeps a write of the saves from memory, so that what resumes is what
was saved (R234, R359, R405; log 30); under host-assisted save the host takes the saves. -/
def execPreemptSwitchOut (id : Nat) (s : State) : Host.Outcome State Fault Refusal :=
  event s (match s.ctx? id with
    | none => none
    | some c =>
      let cs := s.together c
      if !s.isVictim c || !cs.all s.canSwitch then none
      else if s.assisted 2 then (if s.saving then none else some (s.stopAll cs))
      else
        let t := s.switchAll cs (s.saveSlots c)
        if t.pend.length = s.pend.length then some t else none)

/-! ### Resuming (R60, R237, R263, R282, R358 to R361) -/

/-- The context may resume only on its own core (R237, R282, R361). -/
def State.bound (s : State) (c : Ctx) : Bool :=
  c.h.toList.any Handle.bound || c.commandsOut || c.resultsOut ||
  (s.graph c.coreid).toList.any fun e => e.isPending && e.owner == some (.ctx c.id)

/-- A core takes a switched-out context: a slot, its scratch block and tiles, and its layers are free there. Its finished graph
entries need their numbers free (log 39). -/
def State.resumeFits (s : State) (c : Ctx) (core : BitVec 12) : Bool :=
  towerOf core == towerOf c.coreid && (core == c.coreid || !s.bound c) && s.coreFits core c.scrLog (popcount c.vatmap) &&
  s.layersFree c core &&
  (core == c.coreid || (List.finRange 64).all fun k =>
    (s.graph c.coreid)[k].owner != some (.ctx c.id) || (s.graph core)[k].st == .free)

/-- No cap of an ancestor is exceeded when contexts of one leaf resume together on some cores of tower `t`; their ways count all the
while (R27, R54, R359). -/
def State.resumeCaps (s : State) (cs : List Ctx) (cores : List (BitVec 12)) (t : BitVec 3) : Bool :=
  match cs.head?.bind Ctx.leaf with
  | some r => s.capsAllow none r cores 0 (cs.map fun c => popcount c.vatmap).sum (cs.map fun c => scrUnits c.scrLog).sum 0 t
  | none => true

/-- The finished graph entries of a context follow it to another core (log 39). -/
def State.moveEntries (s : State) (c : Ctx) (core : BitVec 12) : State :=
  if core = c.coreid then s
  else
    let old := s.graph c.coreid
    let mine (e : GEntry) : Bool := e.owner == some (.ctx c.id)
    let s := s.setGraph c.coreid (old.map fun e => if mine e then {} else e)
    s.setGraph core ((s.graph core).mapIdx fun k (e : GEntry) => if mine (old.at k) then old.at k else e)

/-- No context stands in focus any more; it waits with the others. -/
def State.unfocus (s : State) (id : Nat) : State :=
  if s.cx.id = id then { s with cx := s.cx.gone, others := s.cx :: s.others } else s

/-- Resume one context on a core: a new slot, scratch block and tiles, then its save. -/
def State.resumeOn (s : State) (c : Ctx) (core : BitVec 12) : State :=
  let s := (s.unfocus c.id).moveEntries c core
  let taken := (s.residents core).map Ctx.slot
  let d := { c with
    coreid := core, slot := taken.contains false, scrBase := (grantBlock (s.blocksOf core) c.scrLog).getD 0 }
  let save := ((s.leafOf c).map Node.save).getD 0
  let va := save + BitVec.ofNat 64 (c.saveSlot.getD 0 * 2 ^ 20)
  (s.restore d fun off n => s.slotAt c.ptbase va off n).goAgain d.id

/-- A lower instance of the context's kernel is switched out, or stopped for a save that the host takes (R60, R356, R362). -/
def State.lowerOut (s : State) (c : Ctx) : Bool :=
  c.gang.isNone && ((s.leafOf c).map Node.kind) == some .kernel &&
  s.ctxs.any fun d => d.isOut && d.leaf == c.leaf && decide (d.inst.toNat < c.inst.toNat)

/-- A read of the save slot of a context waits for a held layer, as any other agent's does (R234). -/
def State.slotWaits (s : State) (c : Ctx) : Bool :=
  !s.noClaims &&
  let va := ((s.leafOf c).map Node.save).getD 0 + BitVec.ofNat 64 (c.saveSlot.getD 0 * 2 ^ 20)
  (List.range 256).any fun k =>
    match s.gLocs none c.ptbase true .load (va + BitVec.ofNat 64 (4096 * k)) 4096 3 with
    | .ok (t, ls) => s.marksWait t || s.layerWaits none (.g ls)
    | .error _ => false

/-- The core of one cluster on which a context resumes with its copy. -/
def resumeCore (core : BitVec 12) (d : Ctx) : BitVec 12 :=
  match d.gang with
  | some (_, m) => coreIn (towerOf core) (clusterOf core % 128) m
  | none => core

/-- A context, or its gang copy on the cores of one cluster, resumes; one that the host has saved goes on where it stands (R361, R362). -/
def execContextResume (id : Nat) (core : BitVec 12) (s : State) : Host.Outcome State Fault Refusal :=
  event s (match s.ctx? id with
    | none => none
    | some c =>
      let cs := s.together c
      if c.phase == .stopped && c.hostSave == .answered then
        (if core = c.coreid && !s.lowerOut c then s.goTogether c else none)
      else if !(cs.all fun d => d.phase == .switchedOut && !s.slotWaits d && s.resumeFits d (resumeCore core d)) || s.lowerOut c ||
        !s.resumeCaps cs (cs.map (resumeCore core)) (towerOf core) || (c.gang.isSome && s.gangIn (clusterOf core)) then none
      else some (cs.foldl (fun s d => match s.ctx? d.id with | some d => s.resumeOn d (resumeCore core d) | none => s) s))

end Sys2Proof.Machine
end

