-- ==== Sys2Proof/Machine/Retire.lean ====
section
/-! DEFINITION. The end of stopped contexts, and the retirement of leaves, interior nodes and trees (R376 to R380). -/

namespace Sys2Proof.Machine

/-! ### Stopped contexts (R376) -/

/-- The context keeps handles for a row record in the ring of a stopped pool, which is never run (R335, R376). -/
def State.parkedInVain (s : State) (c : Ctx) : Bool :=
  c.phase == .parked && match s.leafOf c with
    | some n => n.stopped && n.resumes.any fun q => q.parked == some c.id
    | none => false

/-- What a stopped context issued is done: it goes, and its instance, copy or task counts as retired with a fault. A task that held a
slot leaves it its grants, and the slot draws again (R326, R375, R376; log 73). -/
def State.reap (s : State) (id : Nat) : Option State :=
  match s.ctx? id with
  | none => none
  | some c =>
    if s.parkedInVain c then some (s.leave c)
    else if c.phase != .ending || !s.drained c then none
    else if ((s.leafOf c).map Node.kind) == some .pool then
      if !c.inTask then some (s.leave c)
      else if c.saveSlot.isSome then some (s.retireCtx c true)
      else some (match c.leaf with
        | some r => (s.countFailed r).endTaskOf c
        | none => s.leave c)
    else some (s.retireCtx c true)

/-! ### When a node retires (R377) -/

/-- No context of the leaf is left, on a core, switched out, or held for a suspended task. -/
def State.leafEmpty (s : State) (l n : Nat) : Bool := !s.ctxs.any fun c => c.leaf == some (l, n)

/-- Every tree that contexts of the leaf launched with regl has retired. -/
def State.treesDone (s : State) (l n : Nat) : Bool :=
  !s.dev.launches.any fun x => x.parent == some (l, n) && x.st != .retired

/-- The spawn scope of a pool leaf (R334). -/
def State.inScope (s : State) (l n : Nat) (x : Node) (k : Nat) : Bool :=
  match x.parent with
  | some p => s.under (l, p) (l, k)
  | none => k == n

/-- The pools of a spawn scope are all done. -/
def State.poolDone (s : State) (l : Launch) (n : Nat) (x : Node) : Bool :=
  (l.nodes.mapIdx fun k (y : Node) => (k, y)).all fun q =>
    let y := q.2
    !s.inScope l.num n x q.1 ||
    match y.kind with
    | .kernel | .gang => y.retired
    | .pool =>
      (y.stopped || y.readyCount == 0) && s.running (l.num, q.1) == 0 && s.leafEmpty l.num q.1 && s.treesDone l.num q.1
    | _ => true

/-- Entries of a core's table that belong to a graph leaf. -/
def State.leafEntries (s : State) (l n : Nat) (x : Node) : List GEntry :=
  (s.graph (auxCore x.aux)).toList.filter fun e => e.owner == some (.leaf l n)

/-- The condition of R377, and no write of the device that has to come first (R378). -/
def State.mayRetire (s : State) (l : Launch) (n : Nat) (x : Node) : Bool :=
  !x.retired && l.st == .live && s.treesDone l.num n && !s.deviceOut &&
  match x.kind with
  | .interior => x.kids.all fun k => match l.nodes[k]? with | some y => y.retired | none => true
  | .kernel | .gang => (x.stopped || decide (x.placed ≥ x.count)) && s.leafEmpty l.num n
  | .pool => s.poolDone l n x
  | .graph =>
    if x.stopped then !(s.leafEntries l.num n x).any fun e => e.st == .running
    else x.loaded && !(s.leafEntries l.num n x).any GEntry.isPending

/-! ### Retiring (R378, R379) -/

/-- The completion word of a node. -/
def Node.word (x : Node) : Word :=
  let (f, pol, cause) := match x.flt with
    | some (p, c) => (1, p.toNat, c.toNat)
    | none => (0, 0, 0)
  BitVec.ofNat 64 (2 ^ 63 + f * 2 ^ 62 + pol * 2 ^ 60 + cause * 2 ^ 48 + min 65535 x.nflt * 2 ^ 32 + min (2 ^ 32 - 1) x.nret)

/-- The entries of a graph leaf are free again (R282, R375). -/
def State.freeLeaf (s : State) (l n : Nat) (x : Node) : State :=
  let core := auxCore x.aux
  if x.kind == .graph then
    s.setGraph core ((s.graph core).map fun e => if e.owner == some (.leaf l n) then {} else e)
  else s

/-- The root has retired: its interrupt, and its watermark indices and the launch are given up. A regl that has not yet read its
answer keeps the launch's place. -/
def State.endLaunch (s : State) (l : Launch) (root : Node) : State :=
  let s := if root.irq && !l.quiet then s.send (.irq (BitVec.ofNat 11 root.irqv)) else s
  let free (w : Wm) : Wm := if w.holder == some l.num then { w with holder := none } else w
  let keep (x : Launch) : Option Launch :=
    if x.num != l.num then some x else if x.issuer.isSome then some { x with st := .retired } else none
  { s with dev := { s.dev with wms := s.dev.wms.map free, launches := s.dev.launches.filterMap keep } }

/-- The node retires: its completion word at DONE, and the end of the launch when it is the root. -/
def State.retireNode (s : State) (l : Launch) (n : Nat) (x : Node) : State :=
  let s := (s.freeLeaf l.num n x).mapNode l.num n fun y => { y with retired := true }
  let s := if x.done = 0 then s else s.deviceWrite l.ptbase x.done 8 x.word.toNat
  if n = 0 then s.endLaunch l x else s

/-- A node retires when its completion word can be performed at once: the interrupt of the root follows the word (R377 to R379). -/
def execRegionRetire (l n : Nat) (s : State) : Host.Outcome State Fault Refusal :=
  event s (match s.launch? l with
    | none => none
    | some x =>
      match x.nodes[n]? with
      | some y =>
        let t := s.retireNode x n y
        if s.mayRetire x n y && t.pend == s.pend then some t else none
      | none => none)

end Sys2Proof.Machine
end

