-- ==== Sys2Proof/Machine/Scalar.lean ====
section
/-! DEFINITION. The scalar and predicate instructions (R84 to R96). -/

namespace Sys2Proof.Machine

/-- An instruction that writes one scalar from the context's registers (R84). -/
def toX (i : Instr) (s : State) (d : Reg) (v : Ctx → Word) : Host.Outcome State Fault Refusal :=
  issue i s fun s => .ok (.adv (s.upd fun c => c.writeX d (v c)))

/-- An instruction that writes a predicate, or the VP's own bit of it (R93, R95). -/
def toP (i : Instr) (s : State) (f : Ctx → Ctx) : Host.Outcome State Fault Refusal :=
  issue i s fun s => .ok (.adv (s.upd f))

/-- B[5:0]. -/
def shiftAmount (b : Word) : Nat := b.toNat % 64

def rolWord (a : Word) (n : Nat) : Word := a.rotateLeft n

/-! ### Integer operations (R86, R87) -/

def execAdd (m : Mods) (d a : Reg) (b : Src) (s : State) : Host.Outcome State Fault Refusal :=
  toX (.add m d a b) s d fun c => c.readX a + c.src b
def execSub (m : Mods) (d a : Reg) (b : Src) (s : State) : Host.Outcome State Fault Refusal :=
  toX (.sub m d a b) s d fun c => c.readX a - c.src b
def execAnd (m : Mods) (d a : Reg) (b : Src) (s : State) : Host.Outcome State Fault Refusal :=
  toX (.and m d a b) s d fun c => c.readX a &&& c.src b
def execOr (m : Mods) (d a : Reg) (b : Src) (s : State) : Host.Outcome State Fault Refusal :=
  toX (.or m d a b) s d fun c => c.readX a ||| c.src b
def execXor (m : Mods) (d a : Reg) (b : Src) (s : State) : Host.Outcome State Fault Refusal :=
  toX (.xor m d a b) s d fun c => c.readX a ^^^ c.src b
def execAndn (m : Mods) (d a : Reg) (b : Src) (s : State) : Host.Outcome State Fault Refusal :=
  toX (.andn m d a b) s d fun c => c.readX a &&& ~~~(c.src b)
def execShl (m : Mods) (d a : Reg) (b : Src) (s : State) : Host.Outcome State Fault Refusal :=
  toX (.shl m d a b) s d fun c => c.readX a <<< shiftAmount (c.src b)
def execShr (m : Mods) (d a : Reg) (b : Src) (s : State) : Host.Outcome State Fault Refusal :=
  toX (.shr m d a b) s d fun c => c.readX a >>> shiftAmount (c.src b)
def execSra (m : Mods) (d a : Reg) (b : Src) (s : State) : Host.Outcome State Fault Refusal :=
  toX (.sra m d a b) s d fun c => (c.readX a).sshiftRight (shiftAmount (c.src b))
def execRol (m : Mods) (d a : Reg) (b : Src) (s : State) : Host.Outcome State Fault Refusal :=
  toX (.rol m d a b) s d fun c => rolWord (c.readX a) (shiftAmount (c.src b))
def execMin (m : Mods) (d a : Reg) (b : Src) (s : State) : Host.Outcome State Fault Refusal :=
  toX (.min m d a b) s d fun c => if (c.readX a).slt (c.src b) then c.readX a else c.src b
def execMinu (m : Mods) (d a : Reg) (b : Src) (s : State) : Host.Outcome State Fault Refusal :=
  toX (.minu m d a b) s d fun c => if (c.readX a).ult (c.src b) then c.readX a else c.src b
def execMax (m : Mods) (d a : Reg) (b : Src) (s : State) : Host.Outcome State Fault Refusal :=
  toX (.max m d a b) s d fun c => if (c.readX a).slt (c.src b) then c.src b else c.readX a
def execMaxu (m : Mods) (d a : Reg) (b : Src) (s : State) : Host.Outcome State Fault Refusal :=
  toX (.maxu m d a b) s d fun c => if (c.readX a).ult (c.src b) then c.src b else c.readX a

def execAddImm (d a : Reg) (i : BitVec 10) (s : State) : Host.Outcome State Fault Refusal :=
  toX (.addImm d a i) s d fun c => c.readX a + i.signExtend 64
def execAndImm (d a : Reg) (i : BitVec 10) (s : State) : Host.Outcome State Fault Refusal :=
  toX (.andImm d a i) s d fun c => c.readX a &&& i.signExtend 64
def execOrImm (d a : Reg) (i : BitVec 10) (s : State) : Host.Outcome State Fault Refusal :=
  toX (.orImm d a i) s d fun c => c.readX a ||| i.signExtend 64
def execXorImm (d a : Reg) (i : BitVec 10) (s : State) : Host.Outcome State Fault Refusal :=
  toX (.xorImm d a i) s d fun c => c.readX a ^^^ i.signExtend 64
def execShlImm (d a i : Reg) (s : State) : Host.Outcome State Fault Refusal :=
  toX (.shlImm d a i) s d fun c => c.readX a <<< i.toNat
def execShrImm (d a i : Reg) (s : State) : Host.Outcome State Fault Refusal :=
  toX (.shrImm d a i) s d fun c => c.readX a >>> i.toNat
def execSraImm (d a i : Reg) (s : State) : Host.Outcome State Fault Refusal :=
  toX (.sraImm d a i) s d fun c => (c.readX a).sshiftRight i.toNat
def execRolImm (d a i : Reg) (s : State) : Host.Outcome State Fault Refusal :=
  toX (.rolImm d a i) s d fun c => rolWord (c.readX a) i.toNat

/-! ### Multiplication, division and counts (R88, R89) -/

/-- A / B signed, towards zero; all ones for a divisor of zero (R88). -/
def divWord (a b : Word) : Word := if b = 0 then BitVec.allOnes 64 else a.sdiv b
def divuWord (a b : Word) : Word := if b = 0 then BitVec.allOnes 64 else a / b
def remWord (a b : Word) : Word := if b = 0 then a else a.srem b
def remuWord (a b : Word) : Word := if b = 0 then a else a % b
/-- Zero bits above the highest set bit; 64 for zero (R89). -/
def clzWord (a : Word) : Word := if a = 0 then 64 else BitVec.ofNat 64 (63 - Nat.log2 a.toNat)
/-- Zero bits below the lowest set bit; 64 for zero (R89). -/
def ctzWord (a : Word) : Word := BitVec.ofNat 64 (lowBit 64 a.toNat)
def popWord (a : Word) : Word := BitVec.ofNat 64 ((List.range 64).countP fun k => a.getLsbD k)

def execMul (m : Mods) (d a b : Reg) (s : State) : Host.Outcome State Fault Refusal :=
  toX (.mul m d a b) s d fun c => c.readX a * c.readX b
def execMulh (m : Mods) (d a b : Reg) (s : State) : Host.Outcome State Fault Refusal :=
  toX (.mulh m d a b) s d fun c => BitVec.ofInt 64 ((c.readX a).toInt * (c.readX b).toInt / 2 ^ 64)
def execMulhu (m : Mods) (d a b : Reg) (s : State) : Host.Outcome State Fault Refusal :=
  toX (.mulhu m d a b) s d fun c => BitVec.ofNat 64 ((c.readX a).toNat * (c.readX b).toNat / 2 ^ 64)
def execDiv (m : Mods) (d a b : Reg) (s : State) : Host.Outcome State Fault Refusal :=
  toX (.div m d a b) s d fun c => divWord (c.readX a) (c.readX b)
def execDivu (m : Mods) (d a b : Reg) (s : State) : Host.Outcome State Fault Refusal :=
  toX (.divu m d a b) s d fun c => divuWord (c.readX a) (c.readX b)
def execRem (m : Mods) (d a b : Reg) (s : State) : Host.Outcome State Fault Refusal :=
  toX (.rem m d a b) s d fun c => remWord (c.readX a) (c.readX b)
def execRemu (m : Mods) (d a b : Reg) (s : State) : Host.Outcome State Fault Refusal :=
  toX (.remu m d a b) s d fun c => remuWord (c.readX a) (c.readX b)
def execClz (m : Mods) (d a : Reg) (s : State) : Host.Outcome State Fault Refusal :=
  toX (.clz m d a) s d fun c => clzWord (c.readX a)
def execCtz (m : Mods) (d a : Reg) (s : State) : Host.Outcome State Fault Refusal :=
  toX (.ctz m d a) s d fun c => ctzWord (c.readX a)
def execPopc (m : Mods) (d a : Reg) (s : State) : Host.Outcome State Fault Refusal :=
  toX (.popc m d a) s d fun c => popWord (c.readX a)

/-! ### Addresses, extensions and literals (R90 to R92) -/

def execLea (m : Mods) (d a b : Reg) (sh : BitVec 4) (disp : BitVec 8) (s : State) : Host.Outcome State Fault Refusal :=
  toX (.lea m d a b sh disp) s d fun c => c.readX a + c.readX b <<< sh.toNat + disp.signExtend 64
/-- The field holds n − 1 (R91). -/
def execSext (d a n : Reg) (s : State) : Host.Outcome State Fault Refusal :=
  toX (.sext d a n) s d fun c => sextN (n.toNat + 1) (c.readX a).toNat
def execZext (d a n : Reg) (s : State) : Host.Outcome State Fault Refusal :=
  toX (.zext d a n) s d fun c => BitVec.ofNat 64 ((c.readX a).toNat % 2 ^ (n.toNat + 1))
def litWord : Lit → Word
  | .short i => i.signExtend 64
  | .long k => k.signExtend 64
def execLi (m : Mods) (d : Reg) (v : Lit) (s : State) : Host.Outcome State Fault Refusal :=
  toX (.li m d v) s d fun _ => litWord v
def execLih (m : Mods) (d : Reg) (k : BitVec 32) (s : State) : Host.Outcome State Fault Refusal :=
  toX (.lih m d k) s d fun c => k ++ (c.readX d).setWidth 32

/-! ### Predicates (R93 to R96) -/

def ccHolds (cc : Cc) (a b : Word) : Bool :=
  match cc with
  | .eq => a == b
  | .ne => a != b
  | .lt => a.slt b
  | .ltu => a.ult b
  | .le => a.sle b
  | .leu => a.ule b

def execCmp (m : Mods) (d a : Reg) (b : Src) (cc : Cc) (s : State) : Host.Outcome State Fault Refusal :=
  toP (.cmp m d a b cc) s fun c => c.writeCond d (ccHolds cc (c.readX a) (c.src b))
def execSel (m : Mods) (d a b c : Reg) (s : State) : Host.Outcome State Fault Refusal :=
  toX (.sel m d a b c) s d fun x => if x.predBit c then x.readX a else x.readX b
def execPand (m : Mods) (d a b : Reg) (s : State) : Host.Outcome State Fault Refusal :=
  toP (.pand m d a b) s fun c => c.writePBits d (c.readP a &&& c.readP b)
def execPor (m : Mods) (d a b : Reg) (s : State) : Host.Outcome State Fault Refusal :=
  toP (.por m d a b) s fun c => c.writePBits d (c.readP a ||| c.readP b)
def execPxor (m : Mods) (d a b : Reg) (s : State) : Host.Outcome State Fault Refusal :=
  toP (.pxor m d a b) s fun c => c.writePBits d (c.readP a ^^^ c.readP b)
def execPnot (m : Mods) (d a : Reg) (s : State) : Host.Outcome State Fault Refusal :=
  toP (.pnot m d a) s fun c => c.writePBits d (~~~(c.readP a))

/-- Bit `n` of a predicate, 0 at or beyond 4,096, in a VP block at or beyond vl (R96, R183). -/
def Ctx.bitAt (c : Ctx) (r : Reg) (n : Word) : Bool :=
  let lim := match c.vpNow with | some _ => c.vlN | none => 4096
  decide (n.toNat < lim) && (c.readP r).getLsbD n.toNat

def execPget (m : Mods) (d a b : Reg) (s : State) : Host.Outcome State Fault Refusal :=
  toX (.pget m d a b) s d fun c => if c.bitAt a (c.readX b) then 1 else 0
def execPset (m : Mods) (d a b : Reg) (s : State) : Host.Outcome State Fault Refusal :=
  toP (.pset m d a b) s fun c =>
    let n := (c.readX b).toNat
    if n < 4096 then c.writeP d (setBit (c.readP d) n (bitOf (c.readX a) 0)) else c

/-- The set positions of a predicate below vl, ascending. -/
def Ctx.setBits (c : Ctx) (r : Reg) : List Nat := (List.range c.vlN).filter fun e => (c.readP r).getLsbD e

def execPcount (m : Mods) (d a : Reg) (s : State) : Host.Outcome State Fault Refusal :=
  toX (.pcount m d a) s d fun c => BitVec.ofNat 64 (c.setBits a).length
def execPfirst (m : Mods) (d a : Reg) (s : State) : Host.Outcome State Fault Refusal :=
  toX (.pfirst m d a) s d fun c =>
    match (c.setBits a).head? with
    | some e => BitVec.ofNat 64 e
    | none => BitVec.allOnes 64

end Sys2Proof.Machine
end

