-- ==== Sys2Proof/Machine/System.lean ====
section
/-! DEFINITION. The system instructions: control registers, sys, brk, eret, snap and tlbinv (R366 to R371). -/

namespace Sys2Proof.Machine

/-! ### Control registers (R367) -/

/-- The checks that ctlr and ctlw share: the number, then the mode. What the register holds. -/
def ctlCheck (i : Instr) (n : BitVec 12) (s : State) : Run Word :=
  match s.ctlRead s.cx n.toNat with
  | none => .error (.trap .illOperand (n.setWidth 64) s)
  | some old => if ctlSup n.toNat && !s.cx.sup then .error (.trap .priv i.tval s) else .ok old

/-- Matrix instructions that wait in the queue raise flags and release tiles: fflags and vatmap wait for them. -/
def State.ctlWaits (s : State) (n : BitVec 12) : Bool := (n == 0x005 || n == 0x00c) && s.queued s.cx

def execCtlr (m : Mods) (d : Reg) (n : BitVec 12) (s : State) : Host.Outcome State Fault Refusal :=
  let i : Instr := .ctlr m d n
  issue i s fun s => do
    let old ← ctlCheck i n s
    waitIf (s.ctlWaits n) s
    pure (.adv (s.upd fun c => c.writeX d old))

/-- ctlw in its three kinds: `f` makes the new value of the old one and x(a). -/
def ctlwWith (i : Instr) (d a : Reg) (n : BitVec 12) (f : Word → Word → Word) (s : State) : Run Done := do
  let old ← ctlCheck i n s
  waitIf (s.ctlWaits n) s
  let v := f old (s.cx.readX a)
  trapIf (ctlReadOnly n.toNat) .illOperand v s
  match s.ctlTrap n.toNat v with
  | some e => .error (.trap e v s)
  | none => pure (.adv ((s.ctlPut n.toNat v).upd fun c => c.writeX d old))

def execCtlw (m : Mods) (d a : Reg) (n : BitVec 12) (s : State) : Host.Outcome State Fault Refusal :=
  issue (.ctlw m d a n) s (ctlwWith (.ctlw m d a n) d a n fun _ v => v)
def execCtlwSet (m : Mods) (d a : Reg) (n : BitVec 12) (s : State) : Host.Outcome State Fault Refusal :=
  issue (.ctlwSet m d a n) s (ctlwWith (.ctlwSet m d a n) d a n fun old v => old ||| v)
def execCtlwClr (m : Mods) (d a : Reg) (n : BitVec 12) (s : State) : Host.Outcome State Fault Refusal :=
  issue (.ctlwClr m d a n) s (ctlwWith (.ctlwClr m d a n) d a n fun old v => old &&& ~~~v)

/-! ### sys, brk, eret (R368, R369) -/

/-- sys waits for every earlier instruction, sends control to the next one, and takes its trap there. -/
def execSys (code : BitVec 12) (s : State) : Host.Outcome State Fault Refusal :=
  issue (.sys code) s fun s => if s.trapWaits s.cx then .error (.wait s) else .ok (.as (s.enterTrap .sys (code.setWidth 64) false false 4 (s.cx.pc + 4) s.cx.pc))

def execBrk (code : BitVec 12) (s : State) : Host.Outcome State Fault Refusal :=
  issue (.brk code) s fun s => .error (.trap .sys (code.setWidth 64 ||| 0x8000000000000000) s)

def execEret (s : State) : Host.Outcome State Fault Refusal :=
  issue .eret s fun s => .ok (.as (s.upd Ctx.ret))

/-! ### snap, tlbinv (R370, R371) -/

/-- The trigger's sequence number; all ones when an earlier snapshot is held. -/
def execSnap (d : Reg) (s : State) : Host.Outcome State Fault Refusal :=
  issue (.snap d) s fun s =>
    let (q, s') := s.snapshot
    let v : Word := match q with | some q => q.setWidth 64 | none => BitVec.allOnes 64
    .ok (.adv (s'.upd fun c => c.writeX d v))

/-- A held translation is global (R198). -/
def Xlate.global (x : Xlate) : Bool := bitOf x.pte 6

/-- tlbinv releases the context's earlier accesses and removes the translations that match from every TLB (R371). Nothing is walked
and no page moves between two steps. -/
def tlbinv (i : Instr) (asid : Option Reg) (hit : Ctx → Xlate → Bool) (s : State) : Run Done := do
  operandTrapIf i (match asid with | some b => fld (s.cx.readX b) 16 48 != 0 | none => false) s
  let s ← s.release
  pure (.adv (s.dropXlates (hit s.cx)))

def execTlbinvAll (s : State) : Host.Outcome State Fault Refusal :=
  issue .tlbinvAll s (tlbinv .tlbinvAll none fun _ _ => true)
def execTlbinvAsid (b : Reg) (s : State) : Host.Outcome State Fault Refusal :=
  issue (.tlbinvAsid b) s (tlbinv (.tlbinvAsid b) (some b) fun c x => !x.global && x.asid == (c.readX b).toNat)
def execTlbinvPage (a b : Reg) (s : State) : Host.Outcome State Fault Refusal :=
  issue (.tlbinvPage a b) s (tlbinv (.tlbinvPage a b) (some b) fun c x =>
    !x.global && x.asid == (c.readX b).toNat && x.page == pageOf x.level (c.readX a).toNat)
def execTlbinvGpage (a : Reg) (s : State) : Host.Outcome State Fault Refusal :=
  issue (.tlbinvGpage a) s (tlbinv (.tlbinvGpage a) none fun c x => x.page == pageOf x.level (c.readX a).toNat)
def execTlbinvUser (s : State) : Host.Outcome State Fault Refusal :=
  issue .tlbinvUser s (tlbinv .tlbinvUser none fun _ x => !x.global)

end Sys2Proof.Machine
end

