-- ==== Sys2Proof/Machine/Thermal.lean ====
section
/-! DEFINITION. Heat, soft errors, supply sag and throttling (R19, R21, R330, R363 to R365, R390). -/

namespace Sys2Proof.Machine

/-- The heat of a slice. -/
def State.slice (s : State) (t : BitVec 3) (sl : BitVec 4) : Slice := (s.tower t).slices[sl.toNat]
def State.setSlice (s : State) (t : BitVec 3) (sl : BitVec 4) (x : Slice) : State :=
  s.setTower t { s.tower t with slices := (s.tower t).slices.set sl.toNat x }

/-- tval of THERMAL: bit s for each slice at its first threshold (R346). -/
def State.heat (s : State) (t : BitVec 3) : Word :=
  BitVec.ofNat 64 ((List.finRange 16).map fun k => if (s.tower t).slices[k].level ≥ 1 then 2 ^ k.val else 0).sum

/-- A context that runs, stands stopped or is switched out takes asynchronous traps. -/
def Ctx.takesAsync (c : Ctx) : Bool :=
  match c.phase with
  | .running | .stopped | .switchedOut => true
  | _ => false

/-- Raise an asynchronous trap in every context of a tower that `sel` selects. -/
def State.raiseIn (s : State) (t : BitVec 3) (sel : Ctx → Bool) (cause : Cause) (v : Ctx → Word) : State :=
  (s.ctxs.filter fun c => towerOf c.coreid == t && c.takesAsync && sel c).foldl (fun s c => s.raiseAsync c.id cause (v c)) s

/-- A slice reaches 95 °C: TLIM, THERMAL for the contexts that enabled it, and the snapshot trigger of TEN (R363, R389). -/
def execFirstThreshold (t : BitVec 3) (sl : BitVec 4) (s : State) : Host.Outcome State Fault Refusal :=
  event s (
    let x := s.slice t sl
    if x.level != 0 then none
    else
      let s := s.setSlice t sl { x with level := 1 }
      let s := s.setTower t { s.tower t with tlim := true }
      let s := if s.dev.snapctl.getLsbD 7 then s.snapshot.2 else s
      some (s.raiseIn t (fun c => bitOf c.status 6) .thermal fun _ => s.heat t))

/-- A slice reaches 105 °C: it evacuates and writes through (R363). -/
def execSecondThreshold (t : BitVec 3) (sl : BitVec 4) (s : State) : Host.Outcome State Fault Refusal :=
  event s (
    let x := s.slice t sl
    if x.level != 1 then none else some (s.setSlice t sl { level := 2, evac := true, writeThrough := true }))

/-! ### Power-off of the arrays, and poison (R364) -/

/-- A poison marker on a line. -/
def State.poisonLine (s : State) (l : Nat) : State := if s.poison.contains l then s else { s with poison := l :: s.poison }

/-- Under host-assisted poison recovery the host hears of a region (R386). -/
def State.tellPoison (s : State) (region : Nat) : State :=
  if s.assisted 4 then
    s.emit ⟨5, BitVec.ofNat 8 (region / 2 ^ 24 % 8), BitVec.ofNat 64 (4096 * region), 0, 0, some (.poison region)⟩
  else s

/-- Every line of a 4 KiB region is poisoned. -/
def State.poisonRegion (s : State) (region : Nat) : State :=
  (((List.range 32).map fun k => 32 * region + k).foldl State.poisonLine s).tellPoison region

/-- What a cave whose contents are lost holds: any contents (log 38). -/
def lostCave (seed lim : Nat) : Memory :=
  (Config.lostCave seed).foldl (fun m c => if c.1 < lim then m.put c.1 c.2 else m) []

/-- The contexts of a tower lose their caves. -/
def State.loseCave (s : State) (c : Ctx) : State :=
  State.mapCtx { s with free := s.free + 1 } c.id fun c =>
    { c with caveLost := true, cave := lostCave s.free (c.cavepart * (12 * 2 ^ 20)) }

/-- The 4 KiB regions of a tower's DRAM that slice `k` of its cave holds dirty: none once it has evacuated and writes through; else
free ones (R12, R363, R364; log 38). The slices hold a region's lines between them, each those whose home it is. -/
def State.dirtyOf (s : State) (t : BitVec 3) (k : Fin 16) : List Nat :=
  let x := (s.tower t).slices[k]
  if x.writeThrough && !x.evac then []
  else (Config.dirtyRegions (s.free + k.val)).filter fun r =>
    isDram (4096 * r) && homeTower (4096 * r) == t.toNat

/-- A slice reaches 115 °C before its evacuation ends: the arrays of the tower's cave power off, and every line of every region that
a slice holds dirty is poisoned (R364). -/
def execThirdThreshold (t : BitVec 3) (sl : BitVec 4) (s : State) : Host.Outcome State Fault Refusal :=
  event s (
    let x := s.slice t sl
    if x.level != 2 || !x.evac then none
    else
      let s := s.setSlice t sl { x with level := 3 }
      if (s.tower t).arraysOff then some s
      else
        let regions := ((List.finRange 16).flatMap (s.dirtyOf t)).eraseDups
        let s := (s.setTower t { s.tower t with arraysOff := true }).dropPeers t
        let s := regions.foldl State.poisonRegion { s with free := s.free + 16 }
        let holds (c : Ctx) : Bool := towerOf c.coreid == t && c.phase != .absent && decide (c.cavepart > 0)
        let s := (s.ctxs.filter holds).foldl State.loseCave s
        some (s.raiseIn t (fun c => decide (c.cavepart > 0)) .caveLost fun c => BitVec.ofNat 64 c.cavepart))

/-- EVAC clears when a slice has evacuated; it writes through until it is below the first threshold (R363). -/
def execEvacuationEnd (t : BitVec 3) (sl : BitVec 4) (s : State) : Host.Outcome State Fault Refusal :=
  event s (
    let x := s.slice t sl
    if x.evac then some (s.setSlice t sl { x with evac := false, writeThrough := x.level != 0 }) else none)

def execBelowFirstThreshold (t : BitVec 3) (sl : BitVec 4) (s : State) : Host.Outcome State Fault Refusal :=
  event s (
    let x := s.slice t sl
    if x.level = 0 then none else some (s.setSlice t sl { x with level := 0, writeThrough := x.evac }))

/-- Every slice is below its first threshold. -/
def State.cool (s : State) (t : BitVec 3) : Bool := (s.tower t).slices.toList.all fun x => x.level == 0

def execTlimClear (t : BitVec 3) (s : State) : Host.Outcome State Fault Refusal :=
  event s (if (s.tower t).tlim && s.cool t then some (s.setTower t { s.tower t with tlim := false }) else none)

def execCaveRecover (t : BitVec 3) (s : State) : Host.Outcome State Fault Refusal :=
  event s (if (s.tower t).arraysOff && s.cool t then some (s.setTower t { s.tower t with arraysOff := false }) else none)

/-! ### Soft errors (R365) -/

def execSoftError (e : SoftErr) (s : State) : Host.Outcome State Fault Refusal :=
  event s (match e with
    | .line pa =>
      if isDram pa.toNat || isHost pa.toNat then some ((s.poisonLine (lineOf pa.toNat)).tellPoison (pa.toNat / 4096)) else none
    | .unit id u idx =>
      match s.ctx? id with
      | some c =>
        if c.takesAsync && decide (u.toNat ≤ 7) then
          some (s.raiseAsync id .machineCheck (BitVec.ofNat 64 (idx.toNat * 2 ^ 16 + u.toNat)))
        else none
      | none => none)

/-! ### Clocks (R19, R21, R330, R390) -/

/-- The cluster's clock is stretched: no result changes. -/
def execSupplySag (cl : BitVec 10) (s : State) : Host.Outcome State Fault Refusal :=
  event s (some { s with dev := { s.dev with
    stretched := if s.dev.stretched.contains cl then s.dev.stretched else cl :: s.dev.stretched } })

/-- The power manager holds clusters below their nominal clock: results are unchanged. -/
def execThrottleStart (s : State) : Host.Outcome State Fault Refusal :=
  event s (some { s with dev := { s.dev with throttled := true } })

def execThrottleEnd (s : State) : Host.Outcome State Fault Refusal :=
  event s (some { s with dev := { s.dev with throttled := false } })

end Sys2Proof.Machine
end

