-- ==== Sys2Proof/Machine/VMask.lean ====
section
/-! DEFINITION. The mask stack and VP blocks (R167, R168, R179 to R182). -/

namespace Sys2Proof.Machine

/-- mdepth (R156). -/
def Ctx.mdepth (c : Ctx) : Word := BitVec.ofNat 64 c.mask.length

def execMpush (m : Mods) (a : Reg) (s : State) : Host.Outcome State Fault Refusal :=
  issue (.mpush m a) s fun s => do
    trapIf (decide (16 ≤ s.cx.mask.length)) .maskOvf s.cx.mdepth s
    pure (.adv (s.upd fun c => { c with mask := (c.maskTop &&& c.readP a) :: c.mask }))

def execMpop (m : Mods) (s : State) : Host.Outcome State Fault Refusal :=
  issue (.mpop m) s fun s => do
    trapIf s.cx.mask.isEmpty .maskUnf s.cx.mdepth s
    pure (.adv (s.upd fun c => { c with mask := c.mask.tail }))

/-- top = P & ~T, P all ones at depth 1 (R167). -/
def execMinv (m : Mods) (s : State) : Host.Outcome State Fault Refusal :=
  issue (.minv m) s fun s => do
    trapIf s.cx.mask.isEmpty .maskUnf s.cx.mdepth s
    pure (.adv (s.upd fun c =>
      { c with mask := (c.mask.tail.headD (BitVec.allOnes 4096) &&& ~~~c.maskTop) :: c.mask.tail }))

def execMtop (m : Mods) (d : Reg) (s : State) : Host.Outcome State Fault Refusal :=
  issue (.mtop m d) s fun s => .ok (.adv (s.upd fun c => c.writeP d c.maskTop))

/-! ### VP blocks (R179 to R182) -/

/-- The word of a vend. -/
def vendWord : BitVec 32 := 0x00000154

/-- Open a block: its target must be forward and hold a vend (R179; log 27). The VPs run one after another (log 7). -/
def openBlock (i : Instr) (m : Mods) (disp : BitVec 32) (ordered : Bool) (s : State) : Host.Outcome State Fault Refusal :=
  issue i s fun s => do
    let c := s.cx
    let last := c.pc + dispWords disp
    trapIf (decide (disp.toInt ≤ 0)) .illOperand last s
    fetchFree s (s.wordMeets last)
    let (s, w) ← orTrap s (s.fetchWord last)
    trapIf (w != vendWord) .illOperand last s
    let first := c.pc + BitVec.ofNat 64 i.bytes
    pure (.as (s.upd fun c =>
      let c := { c.disarm with prev := c.pc, stall := .none }
      match c.elems m with
      | [] => { c with vstart := 0, pc := last + 4 }
      | e :: es =>
        { c with
          vp := some ⟨first, last, ordered, e :: es, e, es, 0, 0⟩, vpOut := c.vp.toList ++ c.vpOut, pc := first }))

def execVfetch (m : Mods) (disp : BitVec 32) (s : State) : Host.Outcome State Fault Refusal :=
  openBlock (.vfetch m disp) m disp false s

def execVfetchOrd (m : Mods) (disp : BitVec 32) (s : State) : Host.Outcome State Fault Refusal :=
  openBlock (.vfetchOrd m disp) m disp true s

/-- The vend of the block that runs ends its VP; a vend in lock-step code raises ILL_OPERAND (R179, R181). -/
def execVend (s : State) : Host.Outcome State Fault Refusal :=
  let i : Instr := .vend
  issue i s fun s =>
    match s.cx.vp with
    | some b =>
      if b.held != 0 then .error (operandTrap i s)
      else .ok (.as (s.upd fun c => { c.disarm with prev := c.pc, stall := .none }.endVp b))
    | none => .error (operandTrap i s)

end Sys2Proof.Machine
end

