-- ==== Sys2Proof/Machine/Dispatch.lean ====
section
/-! DEFINITION. The meaning of every constructor of Instr, one arm each. -/

namespace Sys2Proof.Machine

def exec (i : Instr) (s : State) : Host.Outcome State Fault Refusal :=
  match i with
  | .add m d a b => Sys2Proof.Machine.execAdd m d a b s
  | .sub m d a b => Sys2Proof.Machine.execSub m d a b s
  | .and m d a b => Sys2Proof.Machine.execAnd m d a b s
  | .or m d a b => Sys2Proof.Machine.execOr m d a b s
  | .xor m d a b => Sys2Proof.Machine.execXor m d a b s
  | .andn m d a b => Sys2Proof.Machine.execAndn m d a b s
  | .shl m d a b => Sys2Proof.Machine.execShl m d a b s
  | .shr m d a b => Sys2Proof.Machine.execShr m d a b s
  | .sra m d a b => Sys2Proof.Machine.execSra m d a b s
  | .rol m d a b => Sys2Proof.Machine.execRol m d a b s
  | .min m d a b => Sys2Proof.Machine.execMin m d a b s
  | .minu m d a b => Sys2Proof.Machine.execMinu m d a b s
  | .max m d a b => Sys2Proof.Machine.execMax m d a b s
  | .maxu m d a b => Sys2Proof.Machine.execMaxu m d a b s
  | .addImm d a imm => Sys2Proof.Machine.execAddImm d a imm s
  | .andImm d a imm => Sys2Proof.Machine.execAndImm d a imm s
  | .orImm d a imm => Sys2Proof.Machine.execOrImm d a imm s
  | .xorImm d a imm => Sys2Proof.Machine.execXorImm d a imm s
  | .shlImm d a imm => Sys2Proof.Machine.execShlImm d a imm s
  | .shrImm d a imm => Sys2Proof.Machine.execShrImm d a imm s
  | .sraImm d a imm => Sys2Proof.Machine.execSraImm d a imm s
  | .rolImm d a imm => Sys2Proof.Machine.execRolImm d a imm s
  | .mul m d a b => Sys2Proof.Machine.execMul m d a b s
  | .mulh m d a b => Sys2Proof.Machine.execMulh m d a b s
  | .mulhu m d a b => Sys2Proof.Machine.execMulhu m d a b s
  | .div m d a b => Sys2Proof.Machine.execDiv m d a b s
  | .divu m d a b => Sys2Proof.Machine.execDivu m d a b s
  | .rem m d a b => Sys2Proof.Machine.execRem m d a b s
  | .remu m d a b => Sys2Proof.Machine.execRemu m d a b s
  | .clz m d a => Sys2Proof.Machine.execClz m d a s
  | .ctz m d a => Sys2Proof.Machine.execCtz m d a s
  | .popc m d a => Sys2Proof.Machine.execPopc m d a s
  | .lea m d a b sh disp => Sys2Proof.Machine.execLea m d a b sh disp s
  | .sext d a n => Sys2Proof.Machine.execSext d a n s
  | .zext d a n => Sys2Proof.Machine.execZext d a n s
  | .li m d v => Sys2Proof.Machine.execLi m d v s
  | .lih m d k => Sys2Proof.Machine.execLih m d k s
  | .cmp m d a b cc => Sys2Proof.Machine.execCmp m d a b cc s
  | .sel m d a b c => Sys2Proof.Machine.execSel m d a b c s
  | .pand m d a b => Sys2Proof.Machine.execPand m d a b s
  | .por m d a b => Sys2Proof.Machine.execPor m d a b s
  | .pxor m d a b => Sys2Proof.Machine.execPxor m d a b s
  | .pnot m d a => Sys2Proof.Machine.execPnot m d a s
  | .pget m d a b => Sys2Proof.Machine.execPget m d a b s
  | .pset m d a b => Sys2Proof.Machine.execPset m d a b s
  | .pcount m d a => Sys2Proof.Machine.execPcount m d a s
  | .pfirst m d a => Sys2Proof.Machine.execPfirst m d a s
  | .br m disp => Sys2Proof.Machine.execBr m disp s
  | .jal m d disp => Sys2Proof.Machine.execJal m d disp s
  | .jr m d a => Sys2Proof.Machine.execJr m d a s
  | .jtab m a n disp => Sys2Proof.Machine.execJtab m a n disp s
  | .bmz m disp => Sys2Proof.Machine.execBmz m disp s
  | .bmnz m disp => Sys2Proof.Machine.execBmnz m disp s
  | .strip m d a => Sys2Proof.Machine.execStrip m d a s
  | .snext m d disp => Sys2Proof.Machine.execSnext m d disp s
  | .press m len1 a k => Sys2Proof.Machine.execPress m len1 a k s
  | .exit => Sys2Proof.Machine.execExit s
  | .yield => Sys2Proof.Machine.execYield s
  | .nop => Sys2Proof.Machine.execNop s
  | .ld m d a sz sx sp acq disp => Sys2Proof.Machine.execLd m d a sz sx sp acq disp s
  | .st m d a sz sp rel disp => Sys2Proof.Machine.execSt m d a sz sp rel disp s
  | .ldro m d a sz sx disp => Sys2Proof.Machine.execLdro m d a sz sx disp s
  | .ldtag m d a sp disp => Sys2Proof.Machine.execLdtag m d a sp disp s
  | .atom m d a b c op dbl ord sc sp disp => Sys2Proof.Machine.execAtom m d a b c op dbl ord sc sp disp s
  | .cas m d a b c sz ord sc sp disp => Sys2Proof.Machine.execCas m d a b c sz ord sc sp disp s
  | .fence kinds sc => Sys2Proof.Machine.execFence kinds sc s
  | .drain => Sys2Proof.Machine.execDrain s
  | .flush m ack a b => Sys2Proof.Machine.execFlush m ack a b s
  | .inval m ack a b => Sys2Proof.Machine.execInval m ack a b s
  | .seal m a b => Sys2Proof.Machine.execSeal m a b s
  | .cavecfg d a => Sys2Proof.Machine.execCavecfg d a s
  | .cavewb d a => Sys2Proof.Machine.execCavewb d a s
  | .vtype m d img => Sys2Proof.Machine.execVtype m d img s
  | .vlset m d a => Sys2Proof.Machine.execVlset m d a s
  | .quire m n a b c => Sys2Proof.Machine.execQuire m n a b c s
  | .sscaleFromBrick m d a => Sys2Proof.Machine.execSscaleFromBrick m d a s
  | .sscaleToBrick m d a => Sys2Proof.Machine.execSscaleToBrick m d a s
  | .sscaleLoad m d a sp disp => Sys2Proof.Machine.execSscaleLoad m d a sp disp s
  | .sscaleStore m d a sp disp => Sys2Proof.Machine.execSscaleStore m d a sp disp s
  | .vadd m d a b => Sys2Proof.Machine.execVadd m d a b s
  | .vsub m d a b => Sys2Proof.Machine.execVsub m d a b s
  | .vand m d a b => Sys2Proof.Machine.execVand m d a b s
  | .vor m d a b => Sys2Proof.Machine.execVor m d a b s
  | .vxor m d a b => Sys2Proof.Machine.execVxor m d a b s
  | .vshl m d a b => Sys2Proof.Machine.execVshl m d a b s
  | .vshr m d a b => Sys2Proof.Machine.execVshr m d a b s
  | .vsra m d a b => Sys2Proof.Machine.execVsra m d a b s
  | .vmin m d a b => Sys2Proof.Machine.execVmin m d a b s
  | .vmax m d a b => Sys2Proof.Machine.execVmax m d a b s
  | .vmul m d a b => Sys2Proof.Machine.execVmul m d a b s
  | .vmulh m d a b => Sys2Proof.Machine.execVmulh m d a b s
  | .vsadd m d a b => Sys2Proof.Machine.execVsadd m d a b s
  | .vssub m d a b => Sys2Proof.Machine.execVssub m d a b s
  | .vdot m d a b sf => Sys2Proof.Machine.execVdot m d a b sf s
  | .vcmp m d a b cc => Sys2Proof.Machine.execVcmp m d a b cc s
  | .vsel m d a b c => Sys2Proof.Machine.execVsel m d a b c s
  | .vbcast m d a => Sys2Proof.Machine.execVbcast m d a s
  | .vid m d ax => Sys2Proof.Machine.execVid m d ax s
  | .mpush m a => Sys2Proof.Machine.execMpush m a s
  | .mpop m => Sys2Proof.Machine.execMpop m s
  | .minv m => Sys2Proof.Machine.execMinv m s
  | .mtop m d => Sys2Proof.Machine.execMtop m d s
  | .vfetch m disp => Sys2Proof.Machine.execVfetch m disp s
  | .vfetchOrd m disp => Sys2Proof.Machine.execVfetchOrd m disp s
  | .vend => Sys2Proof.Machine.execVend s
  | .vfadd m d a b rm => Sys2Proof.Machine.execVfadd m d a b rm s
  | .vfsub m d a b rm => Sys2Proof.Machine.execVfsub m d a b rm s
  | .vfmul m d a b rm => Sys2Proof.Machine.execVfmul m d a b rm s
  | .vfdiv m d a b rm => Sys2Proof.Machine.execVfdiv m d a b rm s
  | .vfma m d a b c rm => Sys2Proof.Machine.execVfma m d a b c rm s
  | .vfnma m d a b c rm => Sys2Proof.Machine.execVfnma m d a b c rm s
  | .vfmin m d a b => Sys2Proof.Machine.execVfmin m d a b s
  | .vfmax m d a b => Sys2Proof.Machine.execVfmax m d a b s
  | .vfsgn m d a b v => Sys2Proof.Machine.execVfsgn m d a b v s
  | .vfcmp m d a b cc => Sys2Proof.Machine.execVfcmp m d a b cc s
  | .vfsqrt m d a rm => Sys2Proof.Machine.execVfsqrt m d a rm s
  | .vcvt m d a sf rm => Sys2Proof.Machine.execVcvt m d a sf rm s
  | .vpack m d a b rm => Sys2Proof.Machine.execVpack m d a b rm s
  | .vunpack m d a half bf rm => Sys2Proof.Machine.execVunpack m d a half bf rm s
  | .vexp2 m d a => Sys2Proof.Machine.execVexp2 m d a s
  | .vlog2 m d a => Sys2Proof.Machine.execVlog2 m d a s
  | .vrcp m d a => Sys2Proof.Machine.execVrcp m d a s
  | .vrsqrt m d a => Sys2Proof.Machine.execVrsqrt m d a s
  | .vsinpi m d a => Sys2Proof.Machine.execVsinpi m d a s
  | .vcospi m d a => Sys2Proof.Machine.execVcospi m d a s
  | .vtanh m d a => Sys2Proof.Machine.execVtanh m d a s
  | .vsigm m d a => Sys2Proof.Machine.execVsigm m d a s
  | .vrand m d a b k => Sys2Proof.Machine.execVrand m d a b k s
  | .vrandU m d a b k => Sys2Proof.Machine.execVrandU m d a b k s
  | .vld m d a sz sp wm disp => Sys2Proof.Machine.execVld m d a sz sp wm disp s
  | .vst m d a sz sp disp => Sys2Proof.Machine.execVst m d a sz sp disp s
  | .vstu m d a sz sp disp => Sys2Proof.Machine.execVstu m d a sz sp disp s
  | .vlds m d a b sz sp disp => Sys2Proof.Machine.execVlds m d a b sz sp disp s
  | .vsts m d a b sz sp disp => Sys2Proof.Machine.execVsts m d a b sz sp disp s
  | .vldx m d a b sz sp w64 sh => Sys2Proof.Machine.execVldx m d a b sz sp w64 sh s
  | .vstx m d a b sz sp w64 sh => Sys2Proof.Machine.execVstx m d a b sz sp w64 sh s
  | .vscadd m d a b rm sp w64 sh => Sys2Proof.Machine.execVscadd m d a b rm sp w64 sh s
  | .vldro m d a sz disp => Sys2Proof.Machine.execVldro m d a sz disp s
  | .sld m d h => Sys2Proof.Machine.execSld m d h s
  | .sst m d h => Sys2Proof.Machine.execSst m d h s
  | .vperm m d a b => Sys2Proof.Machine.execVperm m d a b s
  | .vrot m d a b => Sys2Proof.Machine.execVrot m d a b s
  | .vxget m d a b => Sys2Proof.Machine.execVxget m d a b s
  | .vxput m d a b => Sys2Proof.Machine.execVxput m d a b s
  | .vredsum m d a b rm => Sys2Proof.Machine.execVredsum m d a b rm s
  | .vredsumu m d a b rm => Sys2Proof.Machine.execVredsumu m d a b rm s
  | .vscan m d a b rm => Sys2Proof.Machine.execVscan m d a b rm s
  | .vredmax m d a b => Sys2Proof.Machine.execVredmax m d a b s
  | .vredmin m d a b => Sys2Proof.Machine.execVredmin m d a b s
  | .vcompress m d a => Sys2Proof.Machine.execVcompress m d a s
  | .vexpand m d a => Sys2Proof.Machine.execVexpand m d a s
  | .mopa m d a b => Sys2Proof.Machine.execMopa m d a b s
  | .mopaRows m d a b => Sys2Proof.Machine.execMopaRows m d a b s
  | .mzero d => Sys2Proof.Machine.execMzero d s
  | .mrd m d a b => Sys2Proof.Machine.execMrd m d a b s
  | .mwr m d a b => Sys2Proof.Machine.execMwr m d a b s
  | .mflush m kind sp a b c disp => Sys2Proof.Machine.execMflush m kind sp a b c disp s
  | .mwait => Sys2Proof.Machine.execMwait s
  | .rowact m d a => Sys2Proof.Machine.execRowact m d a s
  | .rowclose m d => Sys2Proof.Machine.execRowclose m d s
  | .rowstat m d => Sys2Proof.Machine.execRowstat m d s
  | .rowstatH m d a => Sys2Proof.Machine.execRowstatH m d a s
  | .fbind m d a => Sys2Proof.Machine.execFbind m d a s
  | .fseek m d a => Sys2Proof.Machine.execFseek m d a s
  | .frel m d => Sys2Proof.Machine.execFrel m d s
  | .enq m d a b gt => Sys2Proof.Machine.execEnq m d a b gt s
  | .enqb m d a b gt => Sys2Proof.Machine.execEnqb m d a b gt s
  | .epop m d gt => Sys2Proof.Machine.execEpop m d gt s
  | .epopSus m d gt => Sys2Proof.Machine.execEpopSus m d gt s
  | .estat m d gt => Sys2Proof.Machine.execEstat m d gt s
  | .estatN m d a => Sys2Proof.Machine.execEstatN m d a s
  | .qpush m d a => Sys2Proof.Machine.execQpush m d a s
  | .qpushBrick m d a => Sys2Proof.Machine.execQpushBrick m d a s
  | .qpop m d a => Sys2Proof.Machine.execQpop m d a s
  | .qpopBrick m d a => Sys2Proof.Machine.execQpopBrick m d a s
  | .gload m a b => Sys2Proof.Machine.execGload m a b s
  | .gsig m a => Sys2Proof.Machine.execGsig m a s
  | .gwait m a => Sys2Proof.Machine.execGwait m a s
  | .gwaitSus m a => Sys2Proof.Machine.execGwaitSus m a s
  | .wmpub m d a => Sys2Proof.Machine.execWmpub m d a s
  | .wmpubInit m d a => Sys2Proof.Machine.execWmpubInit m d a s
  | .wmrd m d a => Sys2Proof.Machine.execWmrd m d a s
  | .wmrdBound m d a => Sys2Proof.Machine.execWmrdBound m d a s
  | .spawn m d a b c => Sys2Proof.Machine.execSpawn m d a b c s
  | .suspend m => Sys2Proof.Machine.execSuspend m s
  | .suspendLd m d a => Sys2Proof.Machine.execSuspendLd m d a s
  | .suspendRow m d a => Sys2Proof.Machine.execSuspendRow m d a s
  | .tdone m => Sys2Proof.Machine.execTdone m s
  | .kpt m => Sys2Proof.Machine.execKpt m s
  | .bnd m a => Sys2Proof.Machine.execBnd m a s
  | .incupd m d a b => Sys2Proof.Machine.execIncupd m d a b s
  | .incupdSet m d a b => Sys2Proof.Machine.execIncupdSet m d a b s
  | .incrd m d a => Sys2Proof.Machine.execIncrd m d a s
  | .incrdSh m d a => Sys2Proof.Machine.execIncrdSh m d a s
  | .regl m d a => Sys2Proof.Machine.execRegl m d a s
  | .ctlr m d n => Sys2Proof.Machine.execCtlr m d n s
  | .ctlw m d a n => Sys2Proof.Machine.execCtlw m d a n s
  | .ctlwSet m d a n => Sys2Proof.Machine.execCtlwSet m d a n s
  | .ctlwClr m d a n => Sys2Proof.Machine.execCtlwClr m d a n s
  | .sys code => Sys2Proof.Machine.execSys code s
  | .eret => Sys2Proof.Machine.execEret s
  | .brk code => Sys2Proof.Machine.execBrk code s
  | .snap d => Sys2Proof.Machine.execSnap d s
  | .tlbinvAll => Sys2Proof.Machine.execTlbinvAll s
  | .tlbinvAsid b => Sys2Proof.Machine.execTlbinvAsid b s
  | .tlbinvPage a b => Sys2Proof.Machine.execTlbinvPage a b s
  | .tlbinvGpage a => Sys2Proof.Machine.execTlbinvGpage a s
  | .tlbinvUser => Sys2Proof.Machine.execTlbinvUser s
  | .illLen w0 => Sys2Proof.Machine.execIllLen w0 s
  | .illOp w0 w1 => Sys2Proof.Machine.execIllOp w0 w1 s
  | .fetchXlate va access => Sys2Proof.Machine.execFetchXlate va access s
  | .asyncTrap => Sys2Proof.Machine.execAsyncTrap s
  | .lpAddr page v => Sys2Proof.Machine.execLpAddr page v s
  | .lpArg page v => Sys2Proof.Machine.execLpArg page v s
  | .lpToken page v => Sys2Proof.Machine.execLpToken page v s
  | .lpFlags page v => Sys2Proof.Machine.execLpFlags page v s
  | .lpGo page v => Sys2Proof.Machine.execLpGo page v s
  | .launchCheck page => Sys2Proof.Machine.execLaunchCheck page s
  | .launchDequeue l => Sys2Proof.Machine.execLaunchDequeue l s
  | .placementDraw t => Sys2Proof.Machine.execPlacementDraw t s
  | .poolDispatch id => Sys2Proof.Machine.execPoolDispatch id s
  | .preemptSwitchOut id => Sys2Proof.Machine.execPreemptSwitchOut id s
  | .contextResume id core => Sys2Proof.Machine.execContextResume id core s
  | .rowActivation id h => Sys2Proof.Machine.execRowActivation id h s
  | .rowOpenDone id h => Sys2Proof.Machine.execRowOpenDone id h s
  | .rowHoldExpiry id h => Sys2Proof.Machine.execRowHoldExpiry id h s
  | .rowClose core y => Sys2Proof.Machine.execRowClose core y s
  | .rowCloseDone core y => Sys2Proof.Machine.execRowCloseDone core y s
  | .streamGroupClose core y => Sys2Proof.Machine.execStreamGroupClose core y s
  | .extentRelocation t idx ext => Sys2Proof.Machine.execExtentRelocation t idx ext s
  | .pagePromotion t ptb va frame => Sys2Proof.Machine.execPagePromotion t ptb va frame s
  | .storePerform n => Sys2Proof.Machine.execStorePerform n s
  | .loadPerform n => Sys2Proof.Machine.execLoadPerform n s
  | .atomicPerform pa op dbl v => Sys2Proof.Machine.execAtomicPerform pa op dbl v s
  | .mflushAddition n => Sys2Proof.Machine.execMflushAddition n s
  | .vscaddUpdate n => Sys2Proof.Machine.execVscaddUpdate n s
  | .rangeWalkDone n => Sys2Proof.Machine.execRangeWalkDone n s
  | .matrixEngineStart core => Sys2Proof.Machine.execMatrixEngineStart core s
  | .engineCommandStart id gt => Sys2Proof.Machine.execEngineCommandStart id gt s
  | .engineResultPost id gt => Sys2Proof.Machine.execEngineResultPost id gt s
  | .graphNodeStart core n => Sys2Proof.Machine.execGraphNodeStart core n s
  | .graphNodeComplete core n => Sys2Proof.Machine.execGraphNodeComplete core n s
  | .graphLeafLoad l n => Sys2Proof.Machine.execGraphLeafLoad l n s
  | .gangDeadlock l n copy => Sys2Proof.Machine.execGangDeadlock l n copy s
  | .suspendComplete t n => Sys2Proof.Machine.execSuspendComplete t n s
  | .graderUpdate k key => Sys2Proof.Machine.execGraderUpdate k key s
  | .shadowRefresh tower core k => Sys2Proof.Machine.execShadowRefresh tower core k s
  | .regionRetire l n => Sys2Proof.Machine.execRegionRetire l n s
  | .deviceReset => Sys2Proof.Machine.execDeviceReset s
  | .towerTrained t => Sys2Proof.Machine.execTowerTrained t s
  | .firmwareImage digest ok => Sys2Proof.Machine.execFirmwareImage digest ok s
  | .spdmCertificate => Sys2Proof.Machine.execSpdmCertificate s
  | .spdmChallenge nonce => Sys2Proof.Machine.execSpdmChallenge nonce s
  | .spdmMeasurements => Sys2Proof.Machine.execSpdmMeasurements s
  | .spdmKeyExchange share => Sys2Proof.Machine.execSpdmKeyExchange share s
  | .firstThreshold t sl => Sys2Proof.Machine.execFirstThreshold t sl s
  | .secondThreshold t sl => Sys2Proof.Machine.execSecondThreshold t sl s
  | .thirdThreshold t sl => Sys2Proof.Machine.execThirdThreshold t sl s
  | .evacuationEnd t sl => Sys2Proof.Machine.execEvacuationEnd t sl s
  | .belowFirstThreshold t sl => Sys2Proof.Machine.execBelowFirstThreshold t sl s
  | .tlimClear t => Sys2Proof.Machine.execTlimClear t s
  | .caveRecover t => Sys2Proof.Machine.execCaveRecover t s
  | .softError e => Sys2Proof.Machine.execSoftError e s
  | .supplySag cl => Sys2Proof.Machine.execSupplySag cl s
  | .throttleStart => Sys2Proof.Machine.execThrottleStart s
  | .throttleEnd => Sys2Proof.Machine.execThrottleEnd s
  | .cxlMemRead pa sz => Sys2Proof.Machine.execCxlMemRead pa sz s
  | .cxlMemWrite pa sz v => Sys2Proof.Machine.execCxlMemWrite pa sz v s
  | .hostSnoop pa => Sys2Proof.Machine.execHostSnoop pa s
  | .atomicopCompletion id ok => Sys2Proof.Machine.execAtomicopCompletion id ok s
  | .relebRequest r => Sys2Proof.Machine.execRelebRequest r s
  | .relebTimeout id => Sys2Proof.Machine.execRelebTimeout id s
  | .dmode v => Sys2Proof.Machine.execDmode v s
  | .respWalkAgain seq => Sys2Proof.Machine.execRespWalkAgain seq s
  | .respRaiseTrap seq => Sys2Proof.Machine.execRespRaiseTrap seq s
  | .respPolicy seq pol => Sys2Proof.Machine.execRespPolicy seq pol s
  | .respResume seq => Sys2Proof.Machine.execRespResume seq s
  | .respClearPoison seq => Sys2Proof.Machine.execRespClearPoison seq s
  | .respKeepPoison seq => Sys2Proof.Machine.execRespKeepPoison seq s
  | .respAcceptLaunch seq => Sys2Proof.Machine.execRespAcceptLaunch seq s
  | .respRejectLaunch seq code => Sys2Proof.Machine.execRespRejectLaunch seq code s
  | .snapshotTrigger => Sys2Proof.Machine.execSnapshotTrigger s
  | .snapshotRelease => Sys2Proof.Machine.execSnapshotRelease s
  | .registerWrite off v => Sys2Proof.Machine.execRegisterWrite off v s
  | .evcons v => Sys2Proof.Machine.execEvcons v s
  | .queuePairTable qp up => Sys2Proof.Machine.execQueuePairTable qp up s
  | .poisonMarkerClear pa => Sys2Proof.Machine.execPoisonMarkerClear pa s
  | .portPageGrant page check asid root sup => Sys2Proof.Machine.execPortPageGrant page check asid root sup s

end Sys2Proof.Machine
end

