-- ==== Sys2Proof/Machine/Hardware.lean ====
section
/-! DEFINITION. What the device does when the instruction of the context in focus waits, and which context comes next: one order
of the events that can happen, the agenda being the way to any other (log 6). -/

namespace Sys2Proof.Machine

/-- The context's instruction can issue, or issue again. -/
def State.ready (s : State) (c : Ctx) : Bool :=
  c.phase == .running && match c.stall with
    | .host => false
    | .walk _ => !s.walksOut c.id
    | _ => true

/-- The context's instruction issues before the device is looked at: it does not wait for anything. -/
def Ctx.eager (c : Ctx) : Bool :=
  c.phase == .running && match c.stall with
    | .none | .raise _ _ | .hostDone _ _ | .peerLost _ => true
    | _ => false

/-- What an event does, when it does something. -/
def State.happens (s : State) : Host.Outcome State Fault Refusal → Option State
  | .next t => if t = s then none else some t
  | _ => none

/-- The first of some events that does something. -/
def State.firstOf {α : Type} (s : State) (l : List α) (ev : α → State → Host.Outcome State Fault Refusal) : Option State :=
  l.findSome? fun a => s.happens (ev a s)

/-- Every core that something has used. -/
def State.coreIds (s : State) : List (BitVec 12) := (s.cx.coreid :: s.cores.map fun c => BitVec.ofNat 12 c.1).eraseDups
def towerIds : List (BitVec 3) := (List.finRange 8).map fun t => BitVec.ofNat 3 t.val

/-- The contexts of which something holds. -/
def State.idsOf (s : State) (p : Ctx → Bool) : List Nat := (s.ctxs.filter p).map Ctx.id

/-- The waiting accesses of a kind. -/
def State.pendsOf (s : State) (p : Pend → Bool) : List Nat :=
  (s.pend.mapIdx fun k e => (k, e)).filterMap fun x => if p x.2 then some x.1 else none
def Pend.isStore : Pend → Bool
  | .store _ _ _ _ _ _ => true
  | _ => false
def Pend.isUpdate : Pend → Bool
  | .update _ _ _ _ _ _ => true
  | _ => false
def Pend.isFlush : Pend → Bool
  | .flush _ _ _ _ _ _ => true
  | _ => false
def Pend.isLoad : Pend → Bool
  | .load _ _ _ _ => true
  | _ => false

/-- The handles of the contexts whose group is in a state. -/
def State.handlesIn (s : State) (p : Group → Bool) : List (Nat × BitVec 4) :=
  s.ctxs.flatMap fun c => (List.finRange 16).filterMap fun k =>
    if c.h[k].bound && p c.h[k].group then some (c.id, BitVec.ofNat 4 k.val) else none
def Group.isClaimed : Group → Bool
  | .claimed _ => true
  | _ => false
def Group.isOpening : Group → Bool
  | .opening _ => true
  | _ => false

/-- The layers in a state. -/
def State.layersIn (s : State) (st : LayerSt) : List (BitVec 12 × BitVec 3) :=
  s.coreIds.flatMap fun c => (List.finRange 8).filterMap fun k =>
    if (s.core c).layers[k] == st then some (c, BitVec.ofNat 3 k.val) else none

/-- Entries of graph tables in a state. -/
def State.entriesIn (s : State) (st : NodeSt) : List (BitVec 12 × Reg) :=
  s.coreIds.flatMap fun c => (List.finRange 64).filterMap fun k =>
    if (s.core c).graph[k].st == st then some (c, BitVec.ofNat 6 k.val) else none

/-- The nodes of the launches of which something holds. -/
def State.nodesOf (s : State) (p : Launch → Nat → Node → Bool) : List (Nat × Nat) :=
  s.dev.launches.flatMap fun l =>
    (l.nodes.mapIdx fun k (n : Node) => (k, n)).filterMap fun x => if p l x.1 x.2 then some (l.num, x.1) else none

/-- Waiting accesses, engines, graphs and the matrix engines. -/
def State.hwAccess (s : State) : Option State :=
  (s.firstOf (s.pendsOf Pend.isStore) execStorePerform) <|>
  (s.firstOf (s.pendsOf Pend.isUpdate) execVscaddUpdate) <|>
  (s.firstOf (s.pendsOf Pend.isFlush) execMflushAddition) <|>
  (s.firstOf (s.pendsOf Pend.isLoad) execLoadPerform) <|>
  (s.firstOf (s.idsOf fun c => !c.cp.running.isEmpty) fun c => execEngineResultPost c false) <|>
  (s.firstOf (s.idsOf fun c => !c.gt.running.isEmpty) fun c => execEngineResultPost c true) <|>
  (s.firstOf (s.idsOf fun c => !c.cp.fifo.isEmpty) fun c => execEngineCommandStart c false) <|>
  (s.firstOf (s.idsOf fun c => !c.gt.fifo.isEmpty) fun c => execEngineCommandStart c true) <|>
  (s.firstOf (s.entriesIn .running) fun e => execGraphNodeComplete e.1 e.2) <|>
  (s.firstOf (s.entriesIn .waiting) fun e => execGraphNodeStart e.1 e.2) <|>
  (s.firstOf (s.coreIds.filter fun c => !(s.core c).queue.isEmpty) execMatrixEngineStart)

/-- The row controllers and the walkers. -/
def State.hwRows (s : State) : Option State :=
  (s.firstOf (s.handlesIn Group.isClaimed) fun h => execRowActivation h.1 h.2) <|>
  (s.firstOf (s.handlesIn Group.isOpening) fun h => execRowOpenDone h.1 h.2) <|>
  (s.firstOf (s.layersIn .pending) fun y => execRowClose y.1 y.2) <|>
  (s.firstOf (s.layersIn .closing) fun y => execRowCloseDone y.1 y.2) <|>
  (s.firstOf (s.layersIn .streaming) fun y => execStreamGroupClose y.1 y.2) <|>
  (s.firstOf (s.dev.walks.map Walk.num) execRangeWalkDone)

/-- The unit of a tower has a phase byte to report, or work that fits. -/
def State.unitActs (s : State) (t : BitVec 3) : Bool :=
  (s.queuesOf t).any fun q =>
    (q.n.kind == .pool && s.poolServed q.l q.k q.n && s.headBad q.l q.n) || (s.spotFor t q).isSome

/-- A stopped context that is done goes. -/
def State.hwReap (s : State) : Option State := s.ctxs.findSome? fun c => s.reap c.id

/-- Launches, placement, tasks and retirement. -/
def State.hwWork (s : State) : Option State :=
  s.hwReap <|>
  (s.firstOf (s.nodesOf fun l k n => s.mayRetire l k n) fun r => execRegionRetire r.1 r.2) <|>
  (s.firstOf (towerIds.flatMap fun t => (List.range (s.tower t).susp.length).map fun n => (t, n))
    fun e => execSuspendComplete e.1 e.2) <|>
  (s.firstOf (((List.finRange 64).map fun p => BitVec.ofNat 6 p.val).filter fun p => (s.port p).st == 1) execLaunchCheck) <|>
  (s.firstOf ((s.dev.launches.filter fun l => l.st == .queued).map Launch.num) execLaunchDequeue) <|>
  (s.firstOf (s.nodesOf fun _ _ n => n.kind == .graph && n.placed == 1 && !n.loaded) fun r => execGraphLeafLoad r.1 r.2) <|>
  (s.firstOf (s.idsOf fun c => c.phase == .awaitTask) execPoolDispatch) <|>
  (s.firstOf (towerIds.filter s.unitActs) execPlacementDraw)

/-- Contexts whose AtomicOp is with the host, which performs it. -/
def State.hwHost (s : State) : Option State :=
  s.firstOf (s.idsOf fun c => c.stall == .host) fun id => execAtomicopCompletion id true

/-- Shadows that differ from the incumbent. -/
def State.hwShadow (s : State) : Option State :=
  let behind (v : Vector Word 16) : List (BitVec 4) :=
    (List.finRange 16).filterMap fun k => if v[k] == s.dev.inc[k] then none else some (BitVec.ofNat 4 k.val)
  (s.firstOf (s.coreIds.flatMap fun c => (behind (s.core c).shadows).map fun k => (c, k)) fun x =>
    execShadowRefresh false x.1 x.2) <|>
  (s.firstOf (towerIds.flatMap fun t => (behind (s.tower t).shadows).map fun k => (BitVec.ofNat 12 (512 * t.toNat), k)) fun x =>
    execShadowRefresh true x.1 x.2)

/-- Pre-emption, when the work that waits for room then fits, or the host takes the save. -/
def State.hwPreempt (s : State) : Option State :=
  (s.idsOf s.isVictim).findSome? fun id =>
    (s.happens (execPreemptSwitchOut id s)).filter fun t =>
      t.saving || towerIds.any fun k => (s.queuesOf k).any fun q => s.waitsForRoom k q && (t.spotFor k q).isSome

/-- Switched-out contexts resume, on their own core before others. -/
def State.hwResume (s : State) : Option State :=
  let out := s.ctxs.filter fun c => c.phase == .switchedOut || c.hostSave == .answered
  (s.firstOf (out.map fun c => (c.id, c.coreid)) fun x => execContextResume x.1 x.2) <|>
  (s.firstOf (out.flatMap fun c => (coresOf (towerOf c.coreid)).map fun k => (c.id, k)) fun x => execContextResume x.1 x.2)

/-- Gang copies whose members are all stalled on pipes. -/
def State.hwGang (s : State) : Option State :=
  s.firstOf ((s.ctxs.filterMap fun c =>
    match c.leaf, c.gang with
    | some (l, n), some (copy, _) => some (l, n, copy)
    | _, _ => none).eraseDups) fun x => execGangDeadlock x.1 x.2.1 x.2.2

/-- The device's work in eight parts. -/
def hwParts : List (State → Option State) :=
  [State.hwAccess, State.hwRows, State.hwWork, State.hwHost, State.hwShadow, State.hwPreempt, State.hwResume, State.hwGang]

/-- The first event of the device that can happen now, performed, looked for from part `k` on. -/
def State.hardwareFrom (s : State) (k : Nat) : Option State := (hwParts.rotateLeft k).findSome? fun f => f s

/-- The first event of the device that can happen now, performed. -/
def State.hardware (s : State) : Option State := s.hardwareFrom 0

/-- The ready context that has waited longest, when it is not the one in focus. -/
def State.nextCtx (s : State) : Option Nat := ((s.others.filter s.ready).getLast?).map Ctx.id

/-- Whose turn it is. Every 128 steps the device, and halfway between another context, comes before the context in focus, so that
one that never waits keeps nothing else from its progress (R60, R316; log 78). -/
inductive Turn where
  | own
  | device
  | other
  deriving DecidableEq, Repr

def State.turn (s : State) : Turn := if s.ticks % 128 = 0 then .device else if s.ticks % 128 = 64 then .other else .own

/-- Fetch or decode has turned the instruction away: its meaning is its trap (R67, R79). -/
def Instr.turnedAway : Instr → Bool
  | .illLen _ | .illOp _ _ | .fetchXlate _ _ => true
  | _ => false

/-- A trap that the context's last event left for it, once nothing has to come first (R281, R353, R383, R386). -/
def State.raiseLeft (s : State) (c : Cause) (v : Word) : State :=
  if s.trapWaits s.cx then s
  else match s.fetch with
    | .ok (_, i) => s.enterTrap c v false i.recorded i.bytes s.cx.pc s.cx.prev
    | .error _ => s.enterTrap c v false false 4 s.cx.pc s.cx.prev

/-- The fetch of the next instruction waits (R234): the context issues it again when something else has happened. -/
def State.fetchStalls (s : State) : State := s.upd fun x => if x.stall = .none then { x with stall := .again } else x

/-- The context in focus takes the trap that waits for it, or the instruction at pc is fetched and executed. An asynchronous trap
comes before the next instruction, and after a trap of that instruction's fetch or decode (R351). -/
def State.proceedWith (s : State) (run : Instr → State → Host.Outcome State Fault Refusal) : Host.Outcome State Fault Refusal :=
  match s.cx.stall with
  | .raise c v => .next (s.raiseLeft c v)
  | _ =>
    match s.fetchMeets with
    | some (va, true) => .next (s.turnAway .fetchAccess va)
    | some (_, false) => .next (if s.asyncDue then s.takeAsync else s.fetchStalls)
    | none =>
      match s.fetch with
      | .error (c, v) => .next (s.turnAway c v)
      | .ok (s', i) =>
        if s.asyncDue && !(Instr.turnedAway i || (s.cx.issueTrap i).isSome) then .next s.takeAsync else run i s'

/-! ### A vector instruction stands still between element groups (R158, R354, R357; log 14) -/

/-- The instruction of the context in focus stands still before element `e`, and recorded instructions after it before `fs`, no more
than four in all; where the first cannot, the context goes on as ever. In a replay, and at the first instruction after an eret that
armed HARM, no other begins (log 14). -/
def State.partWith (s : State) (e : Nat) (fs : List Nat) (run : Instr → State → Host.Outcome State Fault Refusal) :
    Host.Outcome State Fault Refusal :=
  if s.asyncDue || s.cx.vp.isSome || s.fetchMeets.isSome then s.proceedWith run
  else match s.fetch with
    | .error _ => s.proceedWith run
    | .ok (s1, i) =>
      match s1.runTo i e run with
      | .stands t =>
        match s1.cx.uses i with
        | none => .next t
        | some u =>
          if s.cx.replay.isSome || s.cx.harm then .next t else
          let d := t.cx.past i.bytes
          let (b, l) := State.follow run 32 fs { t with cx := d } (passesOver t.cx d) [s1.inFlight i u t.cx.start 0] t
          .next (if l.length ≤ 1 then t else b.upd fun c => c.standStill s.cx.prev l)
      | _ => s.proceedWith run

/-! ### What comes by itself -/

/-- The instruction of the context in focus, else an event of the device, else the next ready context's instruction, else nothing. -/
def State.goOnWith (s : State) (run : Instr → State → Host.Outcome State Fault Refusal) : Host.Outcome State Fault Refusal :=
  if s.cx.eager && !s.asyncWaits then s.proceedWith run
  else match s.hardware with
    | some s' => .next s'
    | none =>
      match s.nextCtx with
      | some id => (s.focusOn id).proceedWith run
      | none => if s.ready s.cx then s.proceedWith run else .next s

/-- The same, with the turn of the device or of another context first (R60, R316). -/
def State.takeTurnWith (s : State) (run : Instr → State → Host.Outcome State Fault Refusal) : Host.Outcome State Fault Refusal :=
  match s.turn with
  | .own => s.goOnWith run
  | .device =>
    match s.hardwareFrom (s.ticks / 128 % 8) with
    | some s' => .next s'
    | none => s.goOnWith run
  | .other =>
    match s.nextCtx with
    | some id => (s.focusOn id).proceedWith run
    | none => s.goOnWith run

end Sys2Proof.Machine
end

