-- ==== Sys2Proof/Machine/Step.lean ====
section
/-! DEFINITION. One step of the machine, and a program placed where the next step fetches it. -/

namespace Sys2Proof.Machine

/-- The context in focus goes on. -/
def State.proceed (s : State) : Host.Outcome State Fault Refusal := s.proceedWith exec

/-- The context in focus goes on, or stands still between element groups. -/
def State.part (s : State) (e : Nat) (fs : List Nat) : Host.Outcome State Fault Refusal := s.partWith e fs exec

/-- One step: the head of the agenda, else what comes by itself (log 1, 5, 6, 78, 89). -/
def step (s : State) : Host.Outcome State Fault Refusal :=
  let s := { s with ticks := s.ticks + 1, cut := none }
  match s.agenda with
  | .event i :: rest => if i.outside then exec i { s with agenda := rest } else .next { s with agenda := rest }
  | .focus id :: rest =>
    let t := State.focusOn { s with agenda := rest } id
    if t.ready t.cx then t.proceed else .next t
  | .part id e fs :: rest =>
    let t := State.focusOn { s with agenda := rest } id
    if t.ready t.cx then t.part e fs else .next t
  | .caching on :: rest => .next { s with agenda := rest, caching := on }
  | .take c asid n :: rest => .next (State.takeNow { s with agenda := rest } c asid n)
  | .back c k :: rest => .next (State.takeBack { s with agenda := rest } c k)
  | .evict c line :: rest => .next (State.evict { s with agenda := rest } c line)
  | .outside pa n v :: rest => .next (State.outsideWrite { s with agenda := rest } pa n v)
  | [] => s.takeTurnWith exec

/-- The physical pages of the program that withFetchWord builds: five levels of page table, then the code (log 4). -/
def codeTable (m : Memory) (code : Nat) : Memory :=
  let m := m.writeN 0x10000 8 0x11001
  let m := m.writeN 0x11000 8 0x12001
  let m := m.writeN 0x12000 8 0x13001
  let m := m.writeN 0x13000 8 0x14001
  let m := m.writeN 0x14000 8 0x80000000015037
  m.writeN 0x15000 12 code

/-- The machine with an instruction at pc 0 of the context in focus, which runs (log 4). -/
def State.withFetchWord (s : State) (nbits w : Nat) : State :=
  let c := s.cx
  { s with
    cx := { c with
      phase := .running, stall := .none, pc := 0, ptbase := setFld c.ptbase 11 37 (0x10000 / 2048)
      pending := [], press := none, vp := none, vpOut := [], replay := none }
    co := { s.co with code := [], tlb := [] }
    tw := { s.tw with tlb := [] }
    mem := codeTable s.mem (w % 2 ^ nbits)
    poison := []
    agenda := [] }

end Sys2Proof.Machine
end

