-- ==== Sys2Proof/Safety.lean ====
section
/-! DEFINITION. What counts as a safe step and a safe run, and the words in which the statements about instructions are said:
when an instruction issues, what it leaves when it retires, and what it leaves alone. -/

namespace Sys2Proof.Safety

open Sys2Proof.Machine

/-- The outcome is a next state. -/
def goesOn (o : Host.Outcome State Fault Refusal) : Prop := ∃ t, o = .next t

/-- `n` steps from `s` all give a next state. -/
def runsOn (s : State) (n : Nat) : Prop := goesOn (Sys2Proof.core.run n s)

/-- Memory, scratch blocks and caves hold their canonical form. -/
def memoriesOk (s : State) : Prop :=
  s.mem.wf = true ∧ ∀ c ∈ s.ctxs, c.scratch.wf = true ∧ c.cave.wf = true

/-! ### Issue and retirement -/

/-- An instruction that fetch can bring: no event of the device and no failure of fetch or decode. -/
def fetched (i : Instr) : Bool :=
  match i with
  | .illLen _ => false
  | .illOp _ _ => false
  | .fetchXlate _ _ => false
  | i => !i.outside

/-- The instruction issues: neither R181 nor items 5 to 7 of R77 stop it, its guard and its hints let it go (R71, R106), and it is not
to stand still between element groups (R357; log 14). -/
abbrev issues (i : Instr) (s : State) : Prop := s.cx.issueTrap i = none ∧ s.cx.skips i.attr = false ∧ s.cut = none

/-- `i` retires and the instruction after it follows (R66, R106, R181, R355). -/
def retired (i : Instr) (t : State) : State := t.upd fun c => c.advance i.bytes

/-- `i` retires and control goes to `pc` (R80). -/
def jumped (pc : Word) (t : State) : State := t.upd fun c => c.jump pc

/-- `i` takes a precise trap in state `s` (R351, R352), or stands still while what has to come before the trap does: the matrix
instructions before it (R250), the writes of its own vector store (R218 to R220), and, where no handler takes the trap, the context's
earlier writes (R353). -/
def trapped (i : Instr) (c : Cause) (v : Word) (s : State) : State :=
  if s.trapWaits s.cx then s.upd fun x => { x with stall := x.stall.dueTrap } else s.takeTrap c v i.recorded i.bytes i.stores

/-- Fetch or decode turns the instruction at pc away: its trap is taken (R67, R77, R79), or the context stands still while something has
to come before the trap. -/
def turnedAway (c : Cause) (v : Word) (s : State) (o : Host.Outcome State Fault Refusal) : Prop :=
  if s.trapWaits s.cx then ∃ st, st ≠ .none ∧ o = .next (s.upd fun x => { x with stall := st })
  else o = .next (s.takeTrap c v false 4 false)

/-- `i` waits: nothing changes but the mark that it has issued and has not retired. -/
def waits (i : Instr) (s : State) : Prop := ∃ st, st ≠ .none ∧ exec i s = .next (s.upd fun c => { c with stall := st })

/-- `i` completes: x(d) takes a value of which `P` holds, and nothing else changes. -/
def writesX (i : Instr) (s : State) (d : Reg) (P : Word → Prop) : Prop :=
  ∃ v, P v ∧ exec i s = .next (retired i (s.upd fun c => c.writeX d v))

/-- `i` completes: p(d) takes a value of which `P` holds, and nothing else changes. -/
def writesP (i : Instr) (s : State) (d : Reg) (P : Pred → Prop) : Prop :=
  ∃ v, P v ∧ exec i s = .next (retired i (s.upd fun c => c.writeP d v))

/-- Every byte of memory reads in `t` as in `s`. -/
def sameBytes (s t : State) : Prop := ∀ a, t.mem.byte a = s.mem.byte a

/-- Lock-step code outside a press, a replay and a handler's armed substitute: the next instruction follows in memory. -/
def straight (c : Ctx) : Prop := c.vp = none ∧ c.press = none ∧ c.replay = none ∧ c.harm = false

/-- What a VP block may hold (R101, R180): the scalar and predicate instructions of R86 to R95, pget, br, nop, the scalar memory
instructions, vxget, and its own vend. -/
def vpRuns : Instr → Bool
  | .add _ _ _ _ | .sub _ _ _ _ | .and _ _ _ _ | .or _ _ _ _ | .xor _ _ _ _ | .andn _ _ _ _ | .shl _ _ _ _
    | .shr _ _ _ _ | .sra _ _ _ _ | .rol _ _ _ _ | .min _ _ _ _ | .minu _ _ _ _ | .max _ _ _ _ | .maxu _ _ _ _
    | .mul _ _ _ _ | .mulh _ _ _ _ | .mulhu _ _ _ _ | .div _ _ _ _ | .divu _ _ _ _ | .rem _ _ _ _ | .remu _ _ _ _
    | .addImm _ _ _ | .andImm _ _ _ | .orImm _ _ _ | .xorImm _ _ _ | .shlImm _ _ _ | .shrImm _ _ _ | .sraImm _ _ _
    | .rolImm _ _ _ | .clz _ _ _ | .ctz _ _ _ | .popc _ _ _ | .lea _ _ _ _ _ _ | .sext _ _ _ | .zext _ _ _ | .li _ _ _
    | .lih _ _ _ | .cmp _ _ _ _ _ | .sel _ _ _ _ _ | .pand _ _ _ _ | .por _ _ _ _ | .pxor _ _ _ _ | .pget _ _ _ _
    | .pnot _ _ _ | .br _ _ | .nop | .ld _ _ _ _ _ _ _ _ | .st _ _ _ _ _ _ _ | .ldro _ _ _ _ _ _ | .ldtag _ _ _ _ _
    | .atom _ _ _ _ _ _ _ _ _ _ _ | .cas _ _ _ _ _ _ _ _ _ _ | .vend | .vxget _ _ _ _ => true
  | _ => false

/-! ### Shapes of instructions -/

/-- Every instruction of a shape with a second source that may be a literal writes x(d) so that `P` relates A, B and it. -/
def regOp (f : Mods → Reg → Reg → Src → Instr) (P : Word → Word → Word → Prop) : Prop :=
  ∀ (m : Mods) (d a : Reg) (b : Src) (s : State), issues (f m d a b) s →
    writesX (f m d a b) s d (P (s.cx.readX a) (s.cx.src b))

/-- The same with an immediate. -/
def immOp {n : Nat} (f : Reg → Reg → BitVec n → Instr) (P : Word → BitVec n → Word → Prop) : Prop :=
  ∀ (d a : Reg) (k : BitVec n) (s : State), issues (f d a k) s → writesX (f d a k) s d (P (s.cx.readX a) k)

/-- The same with two registers. -/
def regOp3 (f : Mods → Reg → Reg → Reg → Instr) (P : Word → Word → Word → Prop) : Prop :=
  ∀ (m : Mods) (d a b : Reg) (s : State), issues (f m d a b) s →
    writesX (f m d a b) s d (P (s.cx.readX a) (s.cx.readX b))

/-- The same with one register. -/
def countOp (f : Mods → Reg → Reg → Instr) (P : Word → Word → Prop) : Prop :=
  ∀ (m : Mods) (d a : Reg) (s : State), issues (f m d a) s → writesX (f m d a) s d (P (s.cx.readX a))

/-- `i` completes: bit `k` of p(d) becomes `f k`, for every bit, or in a VP block for the VP's own bit alone. -/
def writesBits (i : Instr) (s : State) (d : Reg) (f : Nat → Bool) : Prop :=
  writesP i s d fun v => ∀ k < 4096,
    v.getLsbD k = match s.cx.vpNow with
      | none => f k
      | some e => if k = e then f k else (s.cx.readP d).getLsbD k

/-! ### Places and accesses -/

/-- Byte `k` of a place: in memory, or in the scratch block or the cave of context `c` (R2, R187). -/
def placeByte (s : State) (c : Ctx) (p : Place) (k : Nat) : Byte :=
  match p with
  | .g ls => s.mem.byte ((ls.map Loc.pos).getD k 0)
  | .s off => c.scratch.byte (off + k)
  | .c off => c.cave.byte (off + k)

/-- `v` is the little-endian number of the `n` bytes of a place (R2). -/
def numberAt (s : State) (p : Place) (n v : Nat) : Prop :=
  v < 256 ^ n ∧ ∀ k < n, BitVec.ofNat 8 (v / 256 ^ k) = placeByte s s.cx p k

/-- Byte `k` of a place as a load of the context in focus sees it by a path: a cached copy, where one is held, or memory (R191, R192,
R201, R297). -/
def seenByte (s : State) (path : Path) (p : Place) (k : Nat) : Byte :=
  match p with
  | .g ls => s.seen s.cx path (ls.getD k ⟨0, 0, false⟩)
  | p => placeByte s s.cx p k

/-- `v` is the little-endian number of the `n` bytes of a place as a load sees them. -/
def seesNumber (s : State) (path : Path) (p : Place) (n v : Nat) : Prop :=
  v < 256 ^ n ∧ ∀ k < n, BitVec.ofNat 8 (v / 256 ^ k) = seenByte s path p k

/-- The caches as a load of a place finds them: of what it reads whole, all of one age or nothing (R300). -/
def settled (s : State) (path : Path) (j : Joint) (p : Place) : State :=
  match p with
  | .g ls => s.settle s.cx path j ls
  | _ => s

/-- A load of `n` bytes at `va` by a path meets no obstacle and reads `v`: every page translates with the right to load (R196, R197),
by tables that nothing holds back (R198, R234); the bytes at `p` lie in no register, on no poisoned line, in no held layer that the
load has to wait for (R234) and behind no access of the context that waits (R296), where the load is of a 16-byte chunk to any byte
of it (R300). `t` is what translation and the caches leave. -/
def loads (s : State) (path : Path) (j : Joint) (sp : Space) (va : Word) (n : Nat) (t : State) (v : Nat) : Prop :=
  ∃ u p, s.resolve s.cx sp .load va n = .ok (u, p) ∧ s.walkMeets s.cx sp .load va n = .free ∧ p.inReg = false ∧
    s.peerFails p = false ∧ s.poisoned p = false ∧
    s.blockedOn s.cx none (j.spots p n) = false ∧ s.layerWaits (some s.cx.coreid) p = false ∧
    seesNumber (settled u path j p) path p n v ∧ t = (u.loadPlace u.cx path j p n).2

/-- A store of `n` bytes at `va` meets no obstacle: it is translated with the right to store, by tables that nothing holds back,
leaving `t`, and is performed at `p`, in no register, peer or poisoned line, behind no access that waits, as `w` has it, and in no held row. -/
def stores (s : State) (w : Parts) (sp : Space) (va : Word) (n : Nat) (t : State) (p : Place) : Prop :=
  s.resolve s.cx sp .store va n = .ok (t, p) ∧ s.walkMeets s.cx sp .store va n = .free ∧ p.inReg = false ∧ p.inPeer = false ∧ s.poisoned p = false ∧
  t.writeBlocked w p n = false ∧ t.rowMeets (some t.cx) p = .free ∧ t.follows w p n = false

/-- Between `s` and `t` the bytes of a place take the `n` low bytes of `v`; no other byte of memory, scratch or cave and no register
changes, and of the caches only the core's L1 and the copies of peer lines follow (R191, R297, R298). -/
def storesBytes (s t : State) (p : Place) (n v : Nat) : Prop :=
  (∀ k < n, placeByte t t.cx p k = BitVec.ofNat 8 (v / 256 ^ k)) ∧
  match p with
  | .g ls =>
    (∀ a, a ∉ ls.map Loc.pos → t.mem.byte a = s.mem.byte a) ∧
    t = { s with
      mem := t.mem, tags := t.tags, co := { s.co with l1 := t.co.l1 }, dev := { s.dev with peerLines := t.dev.peerLines } }
  | .s off =>
    (∀ k, (k < off ∨ off + n ≤ k) → t.cx.scratch.byte k = s.cx.scratch.byte k) ∧
    t = { s with cx := { s.cx with scratch := t.cx.scratch } }
  | .c off =>
    (∀ k, (k < off ∨ off + n ≤ k) → t.cx.cave.byte k = s.cx.cave.byte k) ∧
    t = { s with cx := { s.cx with cave := t.cx.cave, caveTags := t.cx.caveTags } }

/-- The context has no earlier write outstanding and no lost peer store to report: a release goes on (R301). -/
def released (s : State) : Prop := s.writesOut s.cx.id = false ∧ s.cx.lostStore = none

/-- `i`, which releases, reports the peer store at `va` that was lost (R383): its DATA_ACCESS, and the store is reported once. -/
def lostStoreTraps (i : Instr) (s : State) (va : Word) : Prop :=
  let t := s.upd fun c => { c with lostStore := none }
  t.trapWaits t.cx = false → exec i s = .next (trapped i .dataAccess va t)

/-- Everything that drain waits for is done (R211). -/
def drainedNow (s : State) : Prop := s.drained s.cx = true ∧ s.cx.lostStore = none

/-! ### The press -/

/-- Where an iteration stands in the order of R104: i0 varies fastest. -/
def nestRank (r : BitVec 1024) : Nat → List Nat → Nat
  | _, [] => 0
  | k, i :: is => i + nestCount r k * nestRank r (k + 1) is

/-- How many iterations the levels from `k` up have. -/
def nestSize (r : BitVec 1024) : Nat → List Nat → Nat
  | _, [] => 1
  | k, _ :: is => nestCount r k * nestSize r (k + 1) is

/-- Every index lies below its level's count. -/
def nestFits (r : BitVec 1024) : Nat → List Nat → Prop
  | _, [] => True
  | k, i :: is => i < nestCount r k ∧ nestFits r (k + 1) is

/-! ### Canonical forms -/

/-- Everything the machine holds by address is in its canonical form. -/
def canonical (s : State) : Prop := memoriesOk s ∧ s.tags.wf ∧ ∀ c ∈ s.ctxs, c.caveTags.wf

/-! ### Atomics -/

/-- What an atom of `w` bits leaves in memory (R208). -/
def atomLeaves (op : AtomOp) (w old b new : Nat) : Prop :=
  match op with
  | .add => new = (old + b) % 2 ^ w
  | .and => ∀ k, new.testBit k = (old.testBit k && b.testBit k)
  | .or => ∀ k, new.testBit k = (old.testBit k || b.testBit k)
  | .xor => ∀ k, new.testBit k = (old.testBit k != b.testBit k)
  | .min => (new = old ∨ new = b) ∧
      (BitVec.ofNat w new).toInt = min (BitVec.ofNat w old).toInt (BitVec.ofNat w b).toInt
  | .max => (new = old ∨ new = b) ∧
      (BitVec.ofNat w new).toInt = max (BitVec.ofNat w old).toInt (BitVec.ofNat w b).toInt
  | .minu => new = min old b
  | .maxu => new = max old b
  | .xchg => new = b
  | .fadd =>
    let f : Fmt := if w = 32 then .f32 else .f64
    new = (encodeVal f .rne 0 (addVal .rne (fmtVal f old) (fmtVal f b)).1).1

/-- An atomic of `n` bytes at `va` meets no obstacle: aligned, translated with the right to load and store by tables that nothing
holds back, leaving `t`, to a target
that performs it itself, on no poisoned line, behind no access that waits and in no held row (R207, R234, R296, R305). -/
def performs (s : State) (sp : Space) (va : Word) (n : Nat) (t : State) (p : Place) : Prop :=
  va.toNat % n = 0 ∧ s.resolve s.cx sp .atomic va n = .ok (t, p) ∧ s.walkMeets s.cx sp .atomic va n = .free ∧
  (p.target = .device ∨ p.target = .host ∨ p.target = .peer) ∧ s.poisoned p = false ∧ s.peerFails p = false ∧
  s.blocked s.cx p n = false ∧ s.rowMeets (some s.cx) p = .free ∧ ∀ ok old, s.cx.stall ≠ .hostDone ok old

/-- The tag that an atomic answers: the line's after the step, of device DRAM or the cave, 0 for a scratch block, and any value
for a line of the host or a peer (R202, R207). -/
def tagAfter (u : State) (p : Place) (tag : Word) : Prop :=
  match p with
  | .g (l :: _) => isDram l.pa = true ∨ isAperture l.pa = true → tag = (u.tags.get (lineOf l.pa)).setWidth 64
  | .g [] => tag = 0
  | .s _ => tag = 0
  | .c off => tag = (u.cx.caveTags.get (off / 128)).setWidth 64

/-! ### Lanes (R4, R110, R129, R152) -/

/-- Source operand `k`, brick `r` at offset `o`, reads `x e` for every active element `e`, with no trap, no wait and no change of
state (R122 to R125). -/
def reads (s : State) (i : Instr) (m : Mods) (k : Nat) (r : Reg) (o : Off) (x : Nat → Nat) : Prop :=
  ∀ e ∈ s.cx.elems m, s.opnd i k r o e = .ok (x e, s) ∧ x e < 2 ^ s.cx.fmt.sew

/-- `i` completes over the active elements: element `e` of v(d) takes a value of which `P e` holds for each, and every other
element, brick and register holds what it held, but vstart, which is 0 (R129). -/
def lanes (i : Instr) (s : State) (m : Mods) (d : Reg) (P : Nat → Nat → Prop) : Prop :=
  ∃ u, exec i s = .next (retired i u) ∧ u = { s with cx := { s.cx with v := u.cx.v, vstart := 0 } } ∧
    (∀ e ∈ s.cx.elems m, e < vlmax s.cx.fmt.sew → P e (u.cx.el d e)) ∧
    (∀ e, e ∉ s.cx.elems m → u.cx.el d e = s.cx.el d e) ∧
    ∀ r : Fin 64, r.val ≠ d.toNat → u.cx.v[r] = s.cx.v[r]

/-- The same for an instruction that rounds: `res e` is the code and the flags of element `e`, and fflags takes the flags of every
element (R145). -/
def lanesF (i : Instr) (s : State) (m : Mods) (d : Reg) (res : Nat → Nat × Fl) : Prop :=
  ∃ u, exec i s = .next (retired i u) ∧
    u = { s with cx := { s.cx with v := u.cx.v, vstart := 0, fflags := u.cx.fflags } } ∧
    u.cx.fflags = (s.cx.elems m).foldl (fun fl e => fl ||| (res e).2.setWidth 64) s.cx.fflags ∧
    (∀ e ∈ s.cx.elems m, e < vlmax s.cx.fmt.sew → u.cx.el d e = (res e).1 % 2 ^ s.cx.fmt.sew) ∧
    (∀ e, e ∉ s.cx.elems m → u.cx.el d e = s.cx.el d e) ∧
    ∀ r : Fin 64, r.val ≠ d.toNat → u.cx.v[r] = s.cx.v[r]

/-- The same for a comparison: bit `e` of p(d) becomes `f e` for each active element, and no other bit changes; `fl e` are the flags
of element `e`. -/
def lanesP (i : Instr) (s : State) (m : Mods) (d : Reg) (f : Nat → Bool) (fl : Nat → Fl) : Prop :=
  ∃ v : Pred, (∀ k < 4096, v.getLsbD k = if k ∈ s.cx.elems m then f k else (s.cx.readP d).getLsbD k) ∧
    exec i s = .next (retired i (s.upd fun c => { c with
      vstart := 0, fflags := (s.cx.elems m).foldl (fun g e => g ||| (fl e).setWidth 64) c.fflags }.writeP d v))

/-- An element-wise instruction on two sources: on every format that `ok` admits, with no source quire that holds d, `P` relates the
elements of a and of b and the one that v(d) takes; on another format, or with d in the quire of a source read at an offset
(R127), it raises ILL_OPERAND with its words. -/
def lane2 (f : Mods → Reg → Reg → Reg → Instr) (ok : Fmt → Bool) (P : Fmt → Nat → Nat → Nat → Prop) : Prop :=
  ∀ (m : Mods) (d a b : Reg) (s : State), issues (f m d a b) s →
    (ok s.cx.fmt = true → s.cx.offsetClash d [(a, m.oa), (b, m.ob)] = false →
      ∀ x y, reads s (f m d a b) m 0 a m.oa x → reads s (f m d a b) m 1 b m.ob y →
        lanes (f m d a b) s m d fun e v => P s.cx.fmt (x e) (y e) v) ∧
    ((ok s.cx.fmt = false ∨ s.cx.offsetClash d [(a, m.oa), (b, m.ob)] = true) →
      exec (f m d a b) s = .next (trapped (f m d a b) .illOperand (f m d a b).tval s))

/-- The values of a floating-point source: no element is the reserved code of an M format and no scale byte is reserved (R142). -/
def values (s : State) (m : Mods) (k : Nat) (x : Nat → Nat) (scaled : Bool) (X : Nat → Val) : Prop :=
  ∀ e ∈ s.cx.elems m, s.numeric k s.cx.fmt (x e) e (if scaled then s.cx.scaleOf k else none) = .ok (X e)

/-- The element and the flags of an exact result: rounded once in the mode of the instruction (R136, R140, R143). -/
def rounded (c : Ctx) (rm : Rm) (r : Val × Fl) : Nat × Fl :=
  ((encodeVal c.fmt (rmPlain c.frm rm) 0 r.1).1, (encodeVal c.fmt (rmPlain c.frm rm) 0 r.1).2 ||| r.2)

/-- A floating-point instruction on two sources: each element is `f` of the two values, rounded once; on an integer format, or with d in
the quire of a source read at an offset (R127), it raises ILL_OPERAND with its words. -/
def float2 (g : Mods → Reg → Reg → Reg → Instr) (rm : Rm) (scaled : Bool) (f : Rm → Val → Val → Val × Fl) : Prop :=
  ∀ (m : Mods) (d a b : Reg) (s : State), issues (g m d a b) s →
    (s.cx.fmt.isInt = false → s.cx.offsetClash d [(a, m.oa), (b, m.ob)] = false →
      ∀ x y X Y, reads s (g m d a b) m 0 a m.oa x → reads s (g m d a b) m 1 b m.ob y →
        values s m 0 x scaled X → values s m 1 y scaled Y →
        lanesF (g m d a b) s m d fun e => rounded s.cx rm (f (rmPlain s.cx.frm rm) (X e) (Y e))) ∧
    ((s.cx.fmt.isInt = true ∨ s.cx.offsetClash d [(a, m.oa), (b, m.ob)] = true) →
      exec (g m d a b) s = .next (trapped (g m d a b) .illOperand (g m d a b).tval s))

/-- A special function (R146, R177): on f32 and bf16 each element is the function's value, rounded RNE. -/
def special1 (g : Mods → Reg → Reg → Instr) (fn : SpecFn) : Prop :=
  ∀ (m : Mods) (d a : Reg) (s : State), issues (g m d a) s →
    ((s.cx.fmt = .f32 ∨ s.cx.fmt = .bf16) → s.cx.offsetClash d [(a, m.oa)] = false →
      ∀ x, reads s (g m d a) m 0 a m.oa x →
        lanesF (g m d a) s m d fun e =>
          let v := specVal fn (fmtVal s.cx.fmt (x e))
          ((encodeVal s.cx.fmt .rne 0 v.1).1, (encodeVal s.cx.fmt .rne 0 v.1).2 ||| v.2)) ∧
    (((s.cx.fmt ≠ .f32 ∧ s.cx.fmt ≠ .bf16) ∨ s.cx.offsetClash d [(a, m.oa)] = true) →
      exec (g m d a) s = .next (trapped (g m d a) .illOperand (g m d a).tval s))

/-- A left fold of floating-point elements from an initial one, each step rounded once: the last element and every flag (R148). -/
def folded (c : Ctx) (rm : Rm) (f : Rm → Val → Val → Val × Fl) (b0 : Nat) (l : List Nat) : Nat × Fl :=
  l.foldl (fun acc x =>
    let r := rounded c rm (f (rmPlain c.frm rm) (fmtVal c.fmt acc.1) (fmtVal c.fmt x))
    (r.1, acc.2 ||| r.2)) (b0, 0)

/-- An element is the root of a binary tree of rounded additions over some leaves in any order; with every flag (R149). -/
inductive SumTree (c : Ctx) (rm : Rm) : List Nat → Nat → Fl → Prop where
  | leaf (v : Nat) : SumTree c rm [v] v 0
  | node (l l₁ l₂ : List Nat) (v₁ v₂ : Nat) (f₁ f₂ : Fl) : SumTree c rm l₁ v₁ f₁ → SumTree c rm l₂ v₂ f₂ → l.Perm (l₁ ++ l₂) →
      SumTree c rm l (rounded c rm (addVal (rmPlain c.frm rm) (fmtVal c.fmt v₁) (fmtVal c.fmt v₂))).1
        (f₁ ||| f₂ ||| (rounded c rm (addVal (rmPlain c.frm rm) (fmtVal c.fmt v₁) (fmtVal c.fmt v₂))).2)

/-- The exact rational that a fraction names. -/
def ratOf (q : Frac) : ℚ := (q.num : ℚ) / (q.den : ℚ)

/-- The exact rational of a value; 0 for what is none. -/
def valRat (v : Val) : ℚ :=
  match v with
  | .num _ q => ratOf q
  | _ => 0

/-- Code `c` of a floating-point format stands for the number `y`. -/
def finite (f : Fmt) (c : Nat) (y : ℚ) : Prop := c < 2 ^ f.sew ∧ ∃ n u, fmtVal f c = .num n u ∧ ratOf u = y

/-- The fraction field of a code is even, with zero counting as even (R138, R140, R143). -/
def evenField (f : Fmt) (c : Nat) : Prop :=
  match mKind f with
  | some (k, _) => c % 2 ^ k = 0 ∨ ∃ m g, c % 2 ^ k = 2 ^ m * (4 * g + 1)
  | none => c % 2 = 0

/-- The exact sum of products none of which is NaN, and which are not infinite of both signs (R151): the infinity among them, else
their rational sum; a sum of zero is negative when every product is a zero of negative sign. -/
def sumsTo (ps : List Val) (x : Val) : Prop :=
  (∀ b, .inf b ∈ ps → x = .inf b) ∧
  ((∀ b, .inf b ∉ ps) → ∃ n q, x = .num n q ∧ ratOf q = (ps.map valRat).sum ∧
    ((ps.map valRat).sum ≠ 0 → n = decide ((ps.map valRat).sum < 0)) ∧
    ((ps.map valRat).sum = 0 → (n = true ↔ ∀ p ∈ ps, ∃ z, p = .num true z ∧ z.num = 0)))

/-- One block of a floating-point mopa (R151): what an element becomes, with the flags, when the exact sum of the block's products
is added and the result rounded once. -/
def addsBlock (tf : Fmt) (ps : List Val) (acc : Nat) (r : Nat × Fl) : Prop :=
  let mixed := (∃ p ∈ ps, p.isNan = true) ∨ (.inf true ∈ ps ∧ .inf false ∈ ps)
  (mixed → r = ((encodeVal tf .rne 0 (.nan false)).1, flNV)) ∧
  (¬ mixed → ∃ x, sumsTo ps x ∧
    let a := addVal .rne (fmtVal tf acc) x
    r = ((encodeVal tf .rne 0 a.1).1, a.2 ||| (encodeVal tf .rne 0 a.1).2))

/-! ### Vector memory (R216 to R221) -/

/-- A relation holds from state to state along the elements, in order. -/
def along (R : State → Nat → State → Prop) : List Nat → State → State → Prop
  | [], s, t => t = s
  | e :: es, s, t => ∃ u, R s e u ∧ along R es u t

/-- One element of a vector load: the element's bytes, or its nibble at width 4, come into v(d) (R216). -/
def loadsElem (path : Path) (j : Joint) (sp : Space) (addr : Nat → Word) (d : Reg) (s : State) (e : Nat) (u : State) : Prop :=
  let w := s.cx.fmt.sew
  ∃ t v, (w = 4 ∨ (addr e).toNat % (w / 8) = 0) ∧ loads s path j sp (addr e) (max 1 (w / 8)) t v ∧
    u = t.upd fun c => c.setEl d e (if w = 4 then v / 16 ^ (e % 2) % 16 else v)

/-- What of the load of element `e` of a contiguous load is single-copy atomic (R300): while the caches hold words, every word that the
instruction reads of the aligned 16-byte chunk of the element. -/
def chunkOf (s : State) (m : Mods) (addr : Nat → Word) (u : State) (e : Nat) : Joint :=
  .chunk (if u.holdsWords then chunkMates (s.cx.elems m) addr e else [])

/-- One element of a vector store: the bytes of the element of v(d), or its nibble under a mask, are written (R216). `k` is the
number of the vector store, `ordered` and `chunk` how its writes reach memory (R218 to R220, R300). -/
def storesElem (k : Nat) (ordered chunk : Bool) (sp : Space) (addr : Nat → Word) (d : Reg) (s : State) (e : Nat) (u : State) : Prop :=
  let w := s.cx.fmt.sew
  ∃ t p, (w = 4 ∨ (addr e).toNat % (w / 8) = 0) ∧
    stores s { num := some k, ordered := ordered, chunk := chunk } sp (addr e) (max 1 (w / 8)) t p ∧
    u = t.putPlace p (
      if w = 4 then
        if e % 2 = 0 then [(0x0f, BitVec.ofNat 8 (s.cx.el d e))] else [(0xf0, BitVec.ofNat 8 (16 * s.cx.el d e))]
      else whole (w / 8) (s.cx.el d e))

/-- The address of a contiguous element (R216, R217). -/
def contiguousAddr (s : State) (m : Mods) (a : Reg) (disp : BitVec 32) (e : Nat) : Word :=
  s.cx.readX a + BitVec.ofInt 64 (disp.toInt * (if m.form = .s then 128 else 1)) + BitVec.ofNat 64 (e * s.cx.fmt.sew / 8)

/-- One element of a vld.wm(k): it does not wait for its index, and with an index in the buffer it acquires at device scope and is then
read past the L1 (R287); an element of its chunk that has one takes the others with it while the caches hold words (R300). -/
def loadsUnder (s : State) (m : Mods) (a k : Reg) (sp : Space) (disp : BitVec 32) (d : Reg) (u : State) (e : Nat) (w : State) : Prop :=
  let addr := contiguousAddr s m a disp
  let has (x : Nat) : Bool := (u.wm k.toNat).indexed (addr x)
  let joined := u.holdsWords && (s.cx.elems m).any fun x => (addr x).toNat / 16 == (addr e).toNat / 16 && has x
  (u.wm k.toNat).waits (addr e) = false ∧
  loadsElem (if has e || joined then .cave else .l1) (chunkOf s m addr u e) sp addr d (if has e then u.acquire .dev else u) e w

/-- The address of a strided element: its coordinates times the strides of x(b) (R219). -/
def stridedAddr (s : State) (m : Mods) (a b : Reg) (disp : BitVec 32) (e : Nat) : Word :=
  let bx := 2 ^ fld s.cx.vtype 4 3
  let by_ := 2 ^ fld s.cx.vtype 7 3
  let t := s.cx.readX b
  s.cx.readX a + BitVec.ofInt 64 (disp.toInt * (if m.form = .s then 128 else 1)) +
    BitVec.ofInt 64 ((e % bx : Nat) * strideOf t 0 + (e / bx % by_ : Nat) * strideOf t 1 + (e / (bx * by_) : Nat) * strideOf t 2)

/-- The address of an indexed element: x(a) plus the signed index of the group of v(b), shifted (R220). -/
def indexedAddr (s : State) (a b : Reg) (w64 : Bool) (sh : BitVec 3) (e : Nat) : Word :=
  let iw := if w64 then 64 else 32
  let v := elemAt (s.cx.v.toList.getD (b.toNat + e * iw / 16384) 0) iw (e % (16384 / iw))
  s.cx.readX a + BitVec.ofInt 64 ((BitVec.ofNat iw v).toInt) * BitVec.ofNat 64 (2 ^ sh.toNat)

/-- The bricks of the index group lie within v0 to v63 (R220). -/
def groupFits (s : State) (b : Reg) (w64 : Bool) : Prop :=
  b.toNat + ((s.cx.cap - 1) * (if w64 then 64 else 32) / 16384 + 1) ≤ 64

/-! ### Control registers, tasks, incumbents -/

/-- Control registers that only supervisor mode reaches (R347, R367). -/
def supervisorOnly (n : Nat) : Prop := n = 0x102 ∨ n = 0x110 ∨ n = 0x202 ∨ (0x300 ≤ n ∧ n ≤ 0x30b)

/-- Control registers that no write reaches (R367). -/
def readOnlyRegisters : List Nat :=
  [0x009, 0x00c, 0x100, 0x101, 0x200, 0x201, 0x205, 0x206, 0x400, 0x401, 0x402, 0x403]

/-- The task of the context in focus is over: the slot is given back, or waits for its next task with the tiles and caves that it holds, and
with the contents that are left to a task of the same leaf, zeros for another (R324); no handle is bound and the core's graph table holds nothing of the context (R326, R375). -/
def taskEnded (s t : State) : Prop :=
  t.others = s.others ∧ t.mem = s.mem ∧ t.tags = s.tags ∧ (∀ k : Fin 16, t.cx.h[k].bound = false) ∧
  (∀ k : Fin 64, t.co.graph[k].owner ≠ some (.ctx s.cx.id)) ∧ t.cx.coreid = s.cx.coreid ∧
  (t.cx.phase = .absent ∨
    t.cx.phase = .awaitTask ∧ t.cx.id = s.cx.id ∧ t.cx.slot = s.cx.slot ∧ t.cx.vatmap = s.cx.vatmap ∧ t.cx.cave = s.cx.cave ∧
      t.cx.cavepart = s.cx.cavepart ∧ t.cx.task = 0 ∧ t.cx.press = none ∧ t.cx.pending = [] ∧
      (t.cx.leaf = s.cx.leaf → t.cx.v = s.cx.v ∧ t.cx.a = s.cx.a ∧ t.cx.p = s.cx.p ∧ t.cx.sc = s.cx.sc ∧ t.cx.scratch = s.cx.scratch) ∧
      (t.cx.leaf ≠ s.cx.leaf → t.cx.v = Vector.replicate 64 0 ∧ t.cx.a = Vector.replicate 4 0 ∧ t.cx.p = Vector.replicate 64 0 ∧
        t.cx.sc = Vector.replicate 8 0 ∧ t.cx.scratch = []))

/-- A bound that cannot strictly improve on an objective: it is not smaller, and neither is an f32 NaN (R331). -/
def noBetter (float : Bool) (bound obj : Nat) : Prop :=
  if float then cmpVal (fmtVal .f32 bound) (fmtVal .f32 obj) = some .eq ∨ cmpVal (fmtVal .f32 bound) (fmtVal .f32 obj) = some .gt
  else (BitVec.ofNat 32 obj).toInt ≤ (BitVec.ofNat 32 bound).toInt

/-- Key `a` is better than key `b` (R327): a smaller objective, signed or f32, or an equal one with a smaller payload; an f32
NaN, which stands for no solution, is worse than everything. -/
def betterKey (float : Bool) (a b : Word) : Prop :=
  if float then
    let o := cmpVal (fmtVal .f32 (fld a 32 32)) (fmtVal .f32 (fld b 32 32))
    ((fmtVal .f32 (fld b 32 32)).isNan = true ∧ (fmtVal .f32 (fld a 32 32)).isNan = false) ∨ o = some .lt ∨
      (o = some .eq ∧ fld a 0 32 < fld b 0 32)
  else (a.extractLsb' 32 32).toInt < (b.extractLsb' 32 32).toInt ∨
    (a.extractLsb' 32 32 = b.extractLsb' 32 32 ∧ fld a 0 32 < fld b 0 32)

/-- A key as it is stored: an f32 objective of −0 is stored as +0 (R327). -/
def asKey (float : Bool) (k : Word) : Word := if float = true ∧ k.extractLsb' 32 32 = 0x80000000 then k.setWidth 32 |>.setWidth 64 else k

/-- What a suspension leaves in the buffer: the leaf, and a record that goes on after the instruction, with bound, tlive, the
pool and the registers that tlive names (R37, R335). -/
def suspends (s : State) (i : Instr) (e : Susp) : Prop :=
  let regs := (List.range 64).filter fun j => bitOf s.cx.tlive j
  e.leaf = s.cx.leaf.getD (0, 0) ∧
  rb2 e.image 0 8 = (s.cx.pc + BitVec.ofNat 64 i.bytes).toNat ∧ rb2 e.image 8 8 = s.cx.tlive.toNat ∧
  rb2 e.image 0x10 4 = fld s.cx.bound 0 32 ∧ rb2 e.image 0x14 2 = fld s.cx.task 16 12 ∧
  rb2 e.image 0x16 1 = fld s.cx.task 0 4 + 128 * fld s.cx.task 28 1 ∧
  ∀ j < 16, rb2 e.image (0x40 + 8 * j) 8 = ((regs.map fun q => (s.cx.readX (BitVec.ofNat 6 q)).toNat).getD j 0)

/-- What the save of context `c`, stopped as `d`, writes into slot `k` on the way to `t`: `items` are offsets, sizes and numbers (R359). -/
def slotOf (s : State) (c d : Ctx) (k : Nat) (items : List (Nat × Nat × Nat)) (t : State) : Prop :=
  let u := (s.closeLayers c).mapCtx c.id fun _ => d
  let va := ((s.leafOf c).map Node.save).getD 0 + BitVec.ofNat 64 (k * 2 ^ 20)
  let ctl (j : Nat) : Word :=
    if j = 124 then d.inst else if j = 125 then d.region else if j = 126 then d.strip
    else ((ctlOfDword j).bind fun n => u.ctlRead d n).getD 0
  u.mem = s.mem ∧
  t.mem = (items.foldl (fun w q => w.deviceWrite c.ptbase (va + BitVec.ofNat 64 q.1) q.2.1 q.2.2) u).mem ∧
  (d.mask.length ≤ 16 → d.scrLog ≤ 19 → items.Pairwise fun q r => q.1 + q.2.1 ≤ r.1) ∧
  (∀ j : Fin 64, (8 * j.val, 8, (d.readX (BitVec.ofNat 6 j.val)).toNat) ∈ items ∧
    (0x3000 + 512 * j.val, 512, (d.readP (BitVec.ofNat 6 j.val)).toNat) ∈ items ∧
    (0xd000 + 2048 * j.val, 2048, d.v[j].toNat) ∈ items) ∧
  (∀ j < 128, (0x200 + 8 * j, 8, (ctl j).toNat) ∈ items) ∧
  (∀ j : Fin 8, (0x800 + 128 * j.val, 128, d.sc[j].toNat) ∈ items) ∧
  (0xc00, 8, d.cp.seq.toNat) ∈ items ∧ (0xc08, 8, d.gt.seq.toNat) ∈ items ∧
  (∀ j m, d.mask.reverse[j]? = some m → (0x1000 + 512 * j, 512, m.toNat) ∈ items) ∧
  (∀ j : Fin 4, d.vatmap.getLsbD j.val = true → (0x2d000 + 32768 * j.val, 32768, d.a[j].toNat) ∈ items) ∧
  (∀ j, d.scrLog ≠ 0 → j < 2 ^ d.scrLog / 4096 → (0x4d000 + 4096 * j, 4096, d.scratch.readN (4096 * j) 4096) ∈ items)

/-! ### Engines -/

/-- Byte `o` of record `k` of a gload makes it invalid (R269, R278): `ids` are the nodes of all its records, `owned` tells the entries
that the context owns. -/
def offends (ids : List Nat) (owned : Nat → Bool) (k : Nat) (r : BitVec 1024) (o : Nat) : Prop :=
  let eng := rb r 0x72 1
  let id := rb r 0x70 1
  let x := rb r o 1
  (o = 0x72 ∧ 2 < eng) ∨ (eng = 2 ∧ o < 0x70 ∧ x ≠ 0) ∨ (eng < 2 ∧ recordBad (eng == 1) r = some o) ∨ (o = 0x73 ∧ x ≠ 0) ∨
  (0x78 ≤ o ∧ o < 0x80 ∧ x ≠ 0) ∨ (o = 0x70 ∧ (63 < id ∨ id ∈ ids.take k)) ∨
  (0x74 ≤ o ∧ o < 0x78 ∧ x ≠ 0xff ∧ (63 < x ∨ x = id ∨ (x ∉ ids ∧ owned x = false)))

/-- The little-endian number of the bytes of memory at some places. -/
def numberOf (s : State) (at_ : List Nat) (v : Nat) : Prop :=
  v < 256 ^ at_.length ∧ ∀ k < at_.length, BitVec.ofNat 8 (v / 256 ^ k) = s.mem.byte (at_.getD k 0)

end Sys2Proof.Safety
end

