-- ==== Sys2Proof/Certificates/Slice0/Obligations.lean ====
section
/-! DEFINITION. The statements for the provers: what the numbered rules of the spec say of the machine. -/

open Sys2Proof Sys2Proof.Machine Sys2Proof.Safety

/-! ### Encoding, decoding and fetching (R66 to R80) -/

/-- Words that the spec writes out, and what they stand for: R77's table and R78, R87, R97, R102 (snext), R106 (press), R109,
the bias add of 04_fetch_and_formats.md with and without a guard and an offset, and R366, R367, R369 and R371. -/
def Obligations.WordsOfTheSpecDecode : Prop :=
  decode 0x00000003 0 0 = .error .illLen ∧
  decode 0x00000360 0 0 = .error .illOp ∧
  decode 0xe0000000 0 0 = .error .illOp ∧
  decode 0x000000a1 0 0 = .error .illOp ∧
  decode 0x000100a0 0 0 = .error .illEnc ∧
  decode 0x00000000 0 0 = .ok (.add {} 0 0 (.reg 0)) ∧
  decode 0xfec10c10 0 0 = .ok (.addImm 3 1 (-5)) ∧
  decode 0x00000081 0xfd000003 0 = .ok (.br { form := .s, g := 3 } (-3)) ∧
  decode 0x00001099 0xfa000000 0 = .ok (.snext { form := .s } 4 (-6)) ∧
  decode 0x0000089e 0 0x80 = .ok (.press { form := .l } 2 0 0x80) ∧
  decode 0x000000a0 0 0 = .ok .exit ∧ decode 0x000000a4 0 0 = .ok .yield ∧ decode 0x000000a8 0 0 = .ok .nop ∧
  decode 0x00400160 0 0 = .ok (.vfadd {} 0 0 1 .rne) ∧
  decode 0x00420161 0x00038247 0 =
    .ok (.vfadd { form := .s, g := 7, gn := true, oa := { x := 1, z := -1 } } 0 2 1 .rne) ∧
  decode 0x0000a321 0x020c0000 0 = .ok (.ctlr { form := .s } 40 0x302) ∧
  decode 0x00040325 0x000c0000 0 = .ok (.ctlw { form := .s } 0 4 0x300) ∧
  decode 0x0000032c 0 0 = .ok .eret ∧
  decode 0x21850338 0 0 = .ok (.tlbinvPage 5 6)

/-- Every instruction that the encodings of R68 to R76 can carry is read back from its own words, every operand at every
value the encoding admits. -/
def Obligations.DecodeOfEncodeIsTheInstruction : Prop :=
  ∀ i : Instr, fetched i = true → i.encodable = true →
    (encode i).length = i.enc.form.words ∧
    decode ((encode i).getD 0 0) ((encode i).getD 1 0) ((encode i).getD 2 0) = .ok i

/-- The words of an instruction name it and no other: the encoder gives back the words that the decoder read, as many as the
form has, and what the decoder reads is an instruction of R76 (R66, R77). -/
def Obligations.EncodeOfDecodeIsTheWords : Prop :=
  ∀ (w0 w1 w2 : BitVec 32) (i : Instr), decode w0 w1 w2 = .ok i →
    encode i = [w0, w1, w2].take i.enc.form.words ∧ i.encodable = true ∧ fetched i = true ∧
    i.bytes = 4 * ((w0.extractLsb' 0 2).toNat + 1)

/-- R67: bits 1:0 equal to 11 raise ILL_LEN, and word 0 alone decides it; and the form that bits 1:0 name (R66) says how many
words count.
The traps of fetch and decode as the events of their rows (R67, R77, R79): ILL_LEN with word 0, ILL_OP with words 0 and 1, and
FETCH_XLATE or FETCH_ACCESS with the failing word's address; each is that trap of the instruction at the pc, taken when what comes
before it is done (R250, R351). -/
def Obligations.FetchAndDecodeTrapsAreTaken : Prop :=
  ((∀ w0 w1 w2 : BitVec 32, w0.extractLsb' 0 2 = 3 → decode w0 w1 w2 = .error .illLen) ∧
   (∀ w0 w1 w2 : BitVec 32, w0.extractLsb' 0 2 = 0 → decode w0 w1 w2 = decode w0 0 0) ∧
   (∀ w0 w1 w2 : BitVec 32, w0.extractLsb' 0 2 = 1 → decode w0 w1 w2 = decode w0 w1 0) ∧
   (∀ (s s1 : State) (w0 : BitVec 32), s.cx.nestNow = none → fld s.cx.pc 0 2 = 0 → s.fetchWord s.cx.pc = .ok (s1, w0) →
     w0.extractLsb' 0 2 = 3 → s.fetch = .ok (s1, .illLen w0)) ∧
   (∀ (s : State) (w0 : BitVec 32), turnedAway .illLen (w0.setWidth 64) s (exec (.illLen w0) s))) ∧
  (∀ (s : State) (w0 w1 : BitVec 32) (va : Word),
     turnedAway .illLen (w0.setWidth 64) s (exec (.illLen w0) s) ∧
     turnedAway .illOp (w1 ++ w0) s (exec (.illOp w0 w1) s) ∧
     turnedAway .fetchXlate va s (exec (.fetchXlate va false) s) ∧
     turnedAway .fetchAccess va s (exec (.fetchXlate va true) s) ∧
     (s.cx.nestNow = none → fld s.cx.pc 0 2 ≠ 0 → s.fetch = .error (.align, s.cx.pc)) ∧
     (s.cx.nestNow = none → fld s.cx.pc 0 2 = 0 → fld s.cx.pc 56 8 ≠ 0 → s.fetch = .ok (s, .fetchXlate s.cx.pc false)))

/-- When the words at the pc decode to an instruction, fetch brings it: each word is the one that the core's instruction cache holds
for its place, or else the four bytes that memory holds where its address translates to, and the instruction is what the decoder makes
of the words (R66, R79, R81).
What the instruction cache takes, and when, is the model's choice (log 25, log 89). -/
def Obligations.FetchBringsTheWordsAtThePc : Prop :=
  (∀ (s t : State) (va : Word) (ls : List Loc), s.gLocs (some s.cx.coreid) s.cx.ptbase s.cx.sup .fetch va 4 32 = .ok (t, ls) →
    (∀ l ∈ ls, isReg l.pa = false) → ls.length = 4 →
    (∀ w, s.codeWord ((ls.getD 0 ⟨0, 0, false⟩).pos / 4) = some w → s.fetchWord va = .ok (t, w)) ∧
    (s.codeWord ((ls.getD 0 ⟨0, 0, false⟩).pos / 4) = none → (∀ l ∈ ls, lineOf l.pos ∉ s.poison) →
      ∃ (u : State) (w : BitVec 32), s.fetchWord va = .ok (u, w) ∧
        u = { t with co := { t.co with code := u.co.code } } ∧ (t.caching = false → u = t) ∧
        ∀ k < 4, isPeer (ls.getD k ⟨0, 0, false⟩).pos = false →
          w.extractLsb' (8 * k) 8 = s.mem.byte (ls.getD k ⟨0, 0, false⟩).pos)) ∧
  (∀ (s s0 : State) (w0 : BitVec 32) (i : Instr), s.cx.nestNow = none → fld s.cx.pc 0 2 = 0 →
    s.fetchWord s.cx.pc = .ok (s0, w0) → w0.extractLsb' 0 2 = 0 → decode w0 0 0 = .ok i → s.fetch = .ok (s0, i)) ∧
  (∀ (s s0 s1 : State) (w0 w1 : BitVec 32) (i : Instr), s.cx.nestNow = none → fld s.cx.pc 0 2 = 0 →
    s.fetchWord s.cx.pc = .ok (s0, w0) → w0.extractLsb' 0 2 = 1 →
    s0.fetchWord (s.cx.pc + 4) = .ok (s1, w1) → decode w0 w1 0 = .ok i → s.fetch = .ok (s1, i)) ∧
  (∀ (s s0 s1 s2 : State) (w0 w1 w2 : BitVec 32) (i : Instr), s.cx.nestNow = none → fld s.cx.pc 0 2 = 0 →
    s.fetchWord s.cx.pc = .ok (s0, w0) → w0.extractLsb' 0 2 = 2 → s0.fetchWord (s.cx.pc + 4) = .ok (s1, w1) →
    s1.fetchWord (s.cx.pc + 8) = .ok (s2, w2) → decode w0 w1 w2 = .ok i → s.fetch = .ok (s2, i))

/-- A step of a running context runs the instruction that fetch brings: step is exec of it, with the step counted; a fetch or decode
failure is its trap; an asynchronous trap that is due comes before the next instruction, and after the fetch, decode or issue trap of
that instruction (R351). A fetch that meets a held layer, in its tables or at its words, waits, and one whose peer does not answer
is FETCH_ACCESS (R198, R234, R383); with no layer claimed there is nothing to meet. Where nothing is asked for and it is the context's turn, or nothing else can go, it is the context that goes
on. An event of the agenda is performed as the event it names, and a named context that is ready comes into focus and goes on.
That an agenda names what happens next, that an instruction is one step, and whose turn it is, are the model's choices (log
5, log 6, log 78, log 89). -/
def Obligations.StepRunsTheDecodedInstruction : Prop :=
  (∀ (s t : State) (i : Instr), (∀ c v, s.cx.stall ≠ .raise c v) → s.fetchMeets = none → s.fetch = .ok (t, i) →
    (s.asyncDue = false ∨ Instr.turnedAway i = true ∨ s.cx.issueTrap i ≠ none) → s.proceed = exec i t) ∧
  (∀ (s : State) (c : Cause) (v : Word), (∀ c v, s.cx.stall ≠ .raise c v) → s.fetchMeets = none → s.fetch = .error (c, v) →
    turnedAway c v s s.proceed) ∧
  (∀ (s : State) (va : Word), (∀ c v, s.cx.stall ≠ .raise c v) →
    (s.fetchMeets = some (va, true) → turnedAway .fetchAccess va s s.proceed) ∧
    (s.fetchMeets = some (va, false) → s.asyncDue = false → s.cx.stall = .none →
      s.proceed = .next (s.upd fun c => { c with stall := .again }))) ∧
  (∀ s : State, (∀ c ∈ s.ctxs, ∀ k : Fin 16, c.h[k].group.claim = none) → (∀ k, s.cx.stall ≠ .peerLost k) → s.fetchMeets = none) ∧
  (∀ (s t : State) (i : Instr), (∀ c v, s.cx.stall ≠ .raise c v) → s.fetchMeets = none → s.fetch = .ok (t, i) → s.asyncDue = true →
    Instr.turnedAway i = false → s.cx.issueTrap i = none → s.proceed = .next s.takeAsync) ∧
  (∀ s u : State, u = { s with ticks := s.ticks + 1, cut := none } →
    (s.agenda = [] → s.cx.phase = .running → s.cx.stall = .none → u.asyncWaits = false →
      (u.turn = .own ∨ (u.turn = .device ∧ u.hardwareFrom (u.ticks / 128 % 8) = none) ∨ (u.turn = .other ∧ u.nextCtx = none)) →
      step s = u.proceed) ∧
    (∀ (i : Instr) (rest : List Agenda), s.agenda = .event i :: rest → i.outside = true →
      step s = exec i { u with agenda := rest }) ∧
    (∀ (id : Nat) (rest : List Agenda) (t : State), s.agenda = .focus id :: rest → t = State.focusOn { u with agenda := rest } id →
      t.ready t.cx = true → step s = t.proceed))

/-! ### Reset and invariants -/

/-- What reset leaves (R9, R328, R347, R348, R387): no launch, no context, no handle bound, no claim, every incumbent and shadow
at its bound, every port idle and without a grant, control registers zero, towers not ready, nothing in the caches. That bricks, predicates, scales
and tiles start at 0 and that x0 to x63 and the pc do outside a context are choices of the model (log 3, log 4). -/
def Obligations.ResetLeavesTheMachineEmpty : Prop :=
  State.reset.cx.phase = .absent ∧ State.reset.others = [] ∧ State.reset.dev.launches = [] ∧ State.reset.pend = [] ∧
  (∀ k : Fin 16, State.reset.cx.h[k].bound = false) ∧ State.reset.claims 0 = [] ∧
  (∀ k : Fin 16, State.reset.dev.inc[k] = 0x7fffffffffffffff) ∧
  (∀ (k : Fin 16) (n : BitVec 12), (State.reset.core n).shadows[k] = 0x7fffffffffffffff) ∧
  (∀ (k : Fin 16) (n : BitVec 3), (State.reset.tower n).shadows[k] = 0x7fffffffffffffff) ∧
  (∀ k : Fin 64, State.reset.dev.ports[k].st = 0 ∧ State.reset.dev.ports[k].granted = false) ∧
  (∀ n : BitVec 3, (State.reset.tower n).ready = false ∧ (State.reset.tower n).foliotab = 0) ∧
  State.reset.cx.status = 0 ∧ State.reset.cx.tvec = 0 ∧ State.reset.cx.inflight = 0 ∧ State.reset.cx.vtype = 0 ∧
  State.reset.cx.vl = 0 ∧ State.reset.cx.vstart = 0 ∧ State.reset.dev.peerLines = [] ∧ State.reset.dev.rind = [] ∧
  (∀ n : BitVec 12, (State.reset.core n).l1 = [] ∧ (State.reset.core n).code = [] ∧ (State.reset.core n).tlb = []) ∧ State.reset.cx.mask = [] ∧ State.reset.dev.fwok = false ∧
  canonical State.reset

/-- Everything that the machine holds by address stays in its canonical form, whatever the step is: memory, scratch blocks and caves
with addresses strictly rising and no entry 0, and tags with lines strictly rising and none 0 (log 2). It holds at reset. -/
def Obligations.StepKeepsMemoryCanonical : Prop :=
  ∀ s t : State, canonical s → step s = .next t → canonical t

/-- No instruction, event or trap stops the machine: from every state a step gives a next state, and so do any number of steps. No step
leaves a mark on where an instruction is to stand still. -/
def Obligations.EveryStepGoesOn : Prop :=
  (∀ s : State, goesOn (step s)) ∧ (∀ (s : State) (n : Nat), runsOn s n) ∧
  (∀ s t : State, step s = .next t → t.cut = none)

/-! ### From the last decode checks to the end (R71, R77, R181) -/

/-- No instruction that fetch brings escapes the last decode checks, the guard and the hints: a check that fails is the
instruction's trap (R77, R181), and an instruction whose guard is false or whose hints do not select the iteration
changes nothing and the next one follows (R71, R106); a rowact that a trap has interrupted and that is then skipped no longer has a
group to issue (R242).
A VP's 257th instruction raises ILL_VP with tval 256 (R181). Then items 5 to 7 of R77 in their order, with word 0 and word 1 in
tval: ILL_VP for an instruction barred in the VP block that runs, then PRIV for eret, snap and tlbinv in user mode, then ILL_OPERAND
for a register outside its class or an offset or mark on an operand that takes none. Barred is everything but what R101 and R180
allow, a br that does not go forward or goes past the block's vend, and a vend that is not the block's own; outside a block, and in a
handler that holds it, nothing is.
What retiring does to the context (R66, R125): outside a press, a VP block and a replay the pc moves past the instruction's
words, the address that sent control there is kept (R79), a substitute armed for one instruction goes, and nothing else
changes; a transfer does the same with its target (R80). In a VP block the same holds, and the VP's instruction is counted (R181). -/
def Obligations.ChecksAndGuardGovernEveryInstruction : Prop :=
  (∀ (i : Instr) (s : State), fetched i = true →
     (∀ c v, s.cx.issueTrap i = some (c, v) → exec i s = .next (trapped i c v s)) ∧
     (s.cx.issueTrap i = none → s.cx.skips i.attr = true →
       ((∀ m a b, i ≠ .rowact m a b) → exec i s = .next (retired i s)) ∧
       (∀ m a b, i = .rowact m a b → exec i s = .next (retired i (s.upd fun c => { c with h := c.h.map (Handle.skipAt c.pc) }))))) ∧
  ((∀ (i : Instr) (s : State) (b : VpBlock), fetched i = true → s.cx.vp = some b → b.held = 0 → 256 ≤ b.count → s.cx.pc ≠ b.last →
     exec i s = .next (trapped i .illVp 256 s)) ∧
   (∀ c : Ctx, c.spent = true ↔ ∃ b, c.vp = some b ∧ b.held = 0 ∧ 256 ≤ b.count ∧ c.pc ≠ b.last) ∧
   (∀ (i : Instr) (c : Ctx), (c.vp = none ∨ ∃ b, c.vp = some b ∧ b.held ≠ 0) → c.vpBars i = false) ∧
   (∀ (i : Instr) (c : Ctx) (b : VpBlock), fetched i = true → c.vp = some b → b.held = 0 →
     (c.vpBars i = false ↔ vpRuns i = true ∧
       (∀ m disp, i = .br m disp → 0 < disp.toInt ∧ (c.pc.toNat : Int) + 4 * disp.toInt ≤ b.last.toNat) ∧
       (i = .vend → c.pc = b.last))) ∧
   ∀ (i : Instr) (s : State), fetched i = true → s.cx.spent = false →
     (s.cx.vpBars i = true → exec i s = .next (trapped i .illVp i.tval s)) ∧
     (s.cx.vpBars i = false → s.cx.sup = false →
       (i = .eret ∨ (∃ d, i = .snap d) ∨ i = .tlbinvAll ∨ (∃ b, i = .tlbinvAsid b) ∨ (∃ a b, i = .tlbinvPage a b) ∨
         (∃ a, i = .tlbinvGpage a) ∨ i = .tlbinvUser) →
       exec i s = .next (trapped i .priv i.tval s)) ∧
     (s.cx.vpBars i = false → (s.cx.sup = true ∨ i.attr.sup = false) → (i.classesOk = false ∨ i.attr.operandsOk = false) →
       exec i s = .next (trapped i .illOperand i.tval s)) ∧
     (i.tval.setWidth 32 = (encode i).getD 0 0 ∧ i.tval.extractLsb' 32 32 = (encode i).getD 1 0)) ∧
  ((∀ (c : Ctx) (n : Nat) (t : Word), straight c →
     c.advance n = { c with pc := c.pc + BitVec.ofNat 64 n, prev := c.pc, stall := .none } ∧
     c.jump t = { c with pc := t, prev := c.pc, stall := .none }) ∧
   (∀ (c : Ctx) (b : VpBlock) (n : Nat) (t : Word), c.vp = some b → b.held = 0 → c.replay = none → c.harm = false →
     c.advance n = { c with
       vp := some { b with count := b.count + 1 }, pc := c.pc + BitVec.ofNat 64 n, prev := c.pc, stall := .none } ∧
     c.jump t = { c with vp := some { b with count := b.count + 1 }, pc := t, prev := c.pc, stall := .none }))

/-! ### Traps (R346 to R355, R368, R369) -/

/-- R352: a precise trap with a handler enabled and none running. The registers of the trap, the mode and the pc are as the
rule says, no other register changes and no memory is written; what stopped is recorded (R354): a vector instruction, mrd or
mwr in lock-step code as record 0, with the element at which it stopped in vstart, and any other instruction not at all.
Which instructions are recorded is the model's reading (log 13), and which can be found in flight together its choice (log
14). -/
def Obligations.TrapEntrySavesAndVectors : Prop :=
  ∀ (s : State) (c : Cause) (v : Word) (recorded wr : Bool) (len : Nat),
    bitOf s.cx.status 2 = false → bitOf s.cx.tvec 0 = true → s.cx.replay = none →
    (s.assisted 0 = false ∨ (c ≠ .dataXlate ∧ c ≠ .fetchXlate)) →
    let t := s.takeTrap c v recorded len wr
    t.cx.cause = c.code.setWidth 64 ∧ t.cx.tval = v ∧ t.cx.epc = s.cx.pc ∧ t.cx.fromReg = s.cx.prev ∧
    t.cx.pc = s.cx.tvec &&& 0x00fffffffffffffc ∧
    (bitOf t.cx.status 0 = true ∧ bitOf t.cx.status 2 = true ∧ bitOf t.cx.status 1 = bitOf s.cx.status 0 ∧
      bitOf t.cx.status 7 = false ∧ ∀ k, k ∉ [0, 1, 2, 7] → bitOf t.cx.status k = bitOf s.cx.status k) ∧
    (recorded = true → s.cx.vpNow = none →
      fld t.cx.inflight 61 3 = 1 ∧ fld t.cx.inflight 2 54 = fld (s.cx.pc + BitVec.ofNat 64 len) 2 54 ∧
      t.cx.vstart = BitVec.ofNat 64 s.cx.start ∧
      bitOf t.cx.ifrec[0] 63 = true ∧ fld t.cx.ifrec[0] 12 12 = s.cx.start ∧ fld t.cx.ifrec[0] 0 12 = 0 ∧
      fld t.cx.ifrec[0] 45 13 = fld s.cx.vl 0 13 ∧ fld t.cx.ifrec[0] 37 8 = fld s.cx.vtype 16 8 ∧
      fld t.cx.ifrec[0] 24 13 = fld s.cx.vtype 0 13) ∧
    (recorded = false → fld t.cx.inflight 61 3 = 0 ∧ t.cx.vstart = BitVec.ofNat 64 (s.cx.vpNow.getD 0)) ∧
    t = { s with
          cx := { s.cx with
            cause := t.cx.cause, tval := t.cx.tval, epc := t.cx.epc, fromReg := t.cx.fromReg, pc := t.cx.pc, prev := t.cx.epc,
            status := t.cx.status, inflight := t.cx.inflight, ifrec := t.cx.ifrec, vstart := t.cx.vstart,
            press := s.cx.press.map Nest.hold, vp := s.cx.vp.map VpBlock.hold, vpOut := s.cx.vpOut.map VpBlock.hold
            h := s.cx.h.map Handle.hold, stall := .none, harm := false, stopVl := s.cx.vl, stopVtype := s.cx.vtype }
          dev := { s.dev with snapSeq := t.dev.snapSeq, snapHeld := t.dev.snapHeld, snap := t.dev.snap } }

/-- R353, R28: a trap with no handler enabled, or with one running, stops the context; under policy 0 its instance alone stops and
no other context changes, and with no save area of the leaf no memory is written.
R386: under host-assisted translation-fault service a translation fault goes to the host and the context stops in place, its
registers as they were; a vector instruction is one that has stopped.
What policy 1 of the host stops is the model's choice (log 93). -/
def Obligations.FaultsWithoutAHandler : Prop :=
  (∀ (s : State) (c : Cause) (v : Word) (recorded wr : Bool) (len : Nat) (leaf : Nat × Nat),
     (bitOf s.cx.status 2 = true ∨ bitOf s.cx.tvec 0 = false) → s.assisted 0 = false → s.assisted 1 = false →
     s.cx.leaf = some leaf → s.cx.gang = none → s.cx.phase = .running →
     (∀ o ∈ s.others, o.id ≠ s.cx.id) → s.verdict (s.ancestors leaf) = .one →
     ((s.node? leaf.1 leaf.2).map Node.save).getD 0 = 0 →
     let t := s.takeTrap c v recorded len wr
     t.cx.phase = .ending ∧ t.cx.cause = c.code.setWidth 64 ∧ t.cx.tval = v ∧ t.cx.epc = s.cx.pc ∧
     t.others = s.others ∧ t.mem = s.mem ∧ t.tags = s.tags ∧ (s.cx.replay = none → t.cx.x = s.cx.x)) ∧
  (∀ (s : State) (c : Cause) (v : Word) (recorded wr : Bool) (len : Nat),
     s.assisted 0 = true → (c = .dataXlate ∨ c = .fetchXlate) →
     let t := s.takeTrap c v recorded len wr
     t.cx = { s.cx with phase := .stopped, stall := if recorded = true then .elem len else .none } ∧ t.others = s.others ∧
     (s.dev.evwait = [] → ringFull s.dev = false →
       t.dev.asks = s.dev.asks ++ [(s.dev.evprod, .xlate s.cx.id c v)] ∧ t.dev.evprod = s.dev.evprod + 1 ∧
       t.dev.sent = s.dev.sent ++ [.irq s.dev.evvec]) ∧
     (ringFull s.dev = true → t.mem = s.mem ∧ t.dev.evwait.length = s.dev.evwait.length + 1))

/-- R368: sys and brk take SYS in either mode, when every earlier instruction has completed; until then they wait (R250). epc is the instruction after the sys, with from its own address; for brk, epc is
the brk and tval bit 63 is set.
R355, R369: eret makes PSUP the mode and clears INH; with no record the pc is epc, and with records it issues the first one
again, at vstart and under the vl and vtype that its record holds, or those now in force where they have changed since the context
stopped (R112), the others to follow and then NEXT; a vl beyond the shape is the shape's (R111).
The mark of HARM is as log 49 says; when the record's vl and vtype hold and when those at the eret is the model's reading
(log 92). -/
def Obligations.SysBrkAndEret : Prop :=
  ((∀ (s : State) (code : BitVec 12), issues (.sys code) s → s.trapWaits s.cx = false → bitOf s.cx.status 2 = false → bitOf s.cx.tvec 0 = true →
     s.cx.replay = none →
     ∃ t, exec (.sys code) s = .next t ∧ t.cx.cause = 0x3f ∧ t.cx.tval = code.setWidth 64 ∧ t.cx.epc = s.cx.pc + 4 ∧
       t.cx.fromReg = s.cx.pc ∧ t.cx.pc = s.cx.tvec &&& 0x00fffffffffffffc ∧ fld t.cx.inflight 61 3 = 0 ∧
       bitOf t.cx.status 0 = true ∧ bitOf t.cx.status 2 = true ∧ bitOf t.cx.status 1 = bitOf s.cx.status 0 ∧
       t.cx.x = s.cx.x ∧ t.mem = s.mem) ∧
   (∀ (s : State) (code : BitVec 12), issues (.brk code) s → s.trapWaits s.cx = false → bitOf s.cx.status 2 = false → bitOf s.cx.tvec 0 = true →
     s.cx.replay = none →
     ∃ t, exec (.brk code) s = .next t ∧ t.cx.cause = 0x3f ∧ t.cx.tval = code.setWidth 64 + 0x8000000000000000 ∧
       t.cx.epc = s.cx.pc ∧ t.cx.fromReg = s.cx.prev ∧ t.cx.pc = s.cx.tvec &&& 0x00fffffffffffffc ∧
       fld t.cx.inflight 61 3 = 0 ∧ bitOf t.cx.status 0 = true ∧ bitOf t.cx.status 2 = true ∧
       bitOf t.cx.status 1 = bitOf s.cx.status 0 ∧ t.cx.x = s.cx.x ∧ t.mem = s.mem) ∧
   (∀ (s : State) (code : BitVec 12), s.trapWaits s.cx = true →
     (issues (.sys code) s → waits (.sys code) s) ∧ (issues (.brk code) s → waits (.brk code) s))) ∧
  (∀ s : State, issues .eret s → s.cx.vp = none → s.cx.press = none →
     ∃ t, exec .eret s = .next t ∧
       bitOf t.cx.status 0 = bitOf s.cx.status 1 ∧ bitOf t.cx.status 2 = false ∧ bitOf t.cx.status 1 = bitOf s.cx.status 1 ∧
       fld t.cx.inflight 61 3 = 0 ∧ t.cx.prev = s.cx.pc ∧ t.cx.harm = bitOf s.cx.vstart 63 ∧
       t.cx.x = s.cx.x ∧ t.cx.v = s.cx.v ∧ t.cx.p = s.cx.p ∧ t.mem = s.mem ∧
       (fld s.cx.inflight 61 3 = 0 → t.cx.pc = s.cx.epc ∧ t.cx.vl = s.cx.vl ∧ t.cx.vtype = s.cx.vtype) ∧
       (∀ n, n = fld s.cx.inflight 61 3 → 1 ≤ n → n ≤ 4 →
         t.cx.pc = s.cx.epc + 4 * sextN 12 (fld s.cx.ifrec[0] 0 12) ∧
         (∀ (ty : Word) (len : Nat),
           ty = (if s.cx.vtype = s.cx.stopVtype then BitVec.ofNat 64 (fld s.cx.ifrec[0] 24 13 + 2 ^ 16 * fld s.cx.ifrec[0] 37 8)
             else BitVec.ofNat 64 (fld s.cx.vtype 0 13 + 2 ^ 16 * fld s.cx.vtype 16 8)) →
           len = (if s.cx.vl = s.cx.stopVl then fld s.cx.ifrec[0] 45 13 else fld s.cx.vl 0 13) → shapeLegal ty = true →
           t.cx.vl.toNat = min len (2 ^ (fld ty 4 3 + fld ty 7 3 + fld ty 10 3)) ∧ t.cx.vtype = ty) ∧
         t.cx.start = s.cx.start ∧
         ∃ r, t.cx.replay = some r ∧ r.todo.length = n ∧ r.base = s.cx.epc ∧ r.vl = s.cx.vl ∧ r.vtype = s.cx.vtype ∧
           r.next = s.cx.inflight &&& 0x00fffffffffffffc))

/-- R351: an asynchronous trap that is due is taken before the next instruction, the oldest first, with ASY set, and a vector instruction
that stands still between two elements is recorded (R354); while a handler runs it pends, and so does every other. -/
def Obligations.AsynchronousTrapIsTaken : Prop :=
  (∀ (s : State) (c : Cause) (v : Word) (rest : List (Cause × Word)), s.asyncDue = true → s.cx.pending = (c, v) :: rest →
    bitOf s.cx.tvec 0 = true → s.cx.replay = none → s.cx.stall = .none →
    ∃ t, exec .asyncTrap s = .next t ∧ t.cx.cause = c.code.setWidth 64 ∧ t.cx.tval = v ∧ t.cx.pending = rest ∧
      t.cx.epc = s.cx.pc ∧ t.cx.fromReg = s.cx.prev ∧ t.cx.pc = s.cx.tvec &&& 0x00fffffffffffffc ∧
      bitOf t.cx.status 7 = true ∧ bitOf t.cx.status 2 = true ∧ bitOf t.cx.status 0 = true ∧
      bitOf t.cx.status 1 = bitOf s.cx.status 0 ∧ t.cx.x = s.cx.x ∧ t.mem = s.mem) ∧
  (∀ (s : State) (c : Cause) (v : Word) (rest : List (Cause × Word)) (len : Nat), s.asyncDue = true → s.cx.pending = (c, v) :: rest →
    bitOf s.cx.tvec 0 = true → s.cx.replay = none → s.cx.stall = .elem len → s.cx.vpNow = none →
    ∃ t, exec .asyncTrap s = .next t ∧ t.cx.cause = c.code.setWidth 64 ∧ t.cx.epc = s.cx.pc ∧
      fld t.cx.inflight 61 3 = 1 ∧ fld t.cx.inflight 2 54 = fld (s.cx.pc + BitVec.ofNat 64 len) 2 54 ∧
      fld t.cx.ifrec[0] 12 12 = s.cx.start ∧ t.cx.vstart = BitVec.ofNat 64 s.cx.start) ∧
  (∀ s : State, bitOf s.cx.status 2 = true → s.asyncDue = false ∧ exec .asyncTrap s = .next s) ∧
  (∀ s : State, s.cx.pending = [] → exec .asyncTrap s = .next s)

/-! ### Scalars and predicates (R84 to R96, R180) -/

/-- R84: x0 always reads zero and p0 always reads with all 4,096 bits set, in every state; a write to x0 or p0 is discarded; and a
register that is written in lock-step code reads what was written, and no other register changes.
R180: in a VP block a scalar operand names the VP's own element. It is read sign- or zero-extended as the format of vtype
is signed or not, and a write truncates the result to the element and leaves every other element and every other brick. -/
def Obligations.RegistersReadAsWritten : Prop :=
  ((∀ c : Ctx, c.readX 0 = 0 ∧ c.readP 0 = BitVec.allOnes 4096) ∧
   (∀ (c : Ctx) (w : Word) (v : Pred), c.writeX 0 w = c ∧ c.writeP 0 v = c) ∧
   (∀ (c : Ctx) (d : Reg) (w : Word), d ≠ 0 → c.vpNow = none →
     (c.writeX d w).readX d = w ∧ (∀ r, r ≠ d → (c.writeX d w).readX r = c.readX r) ∧
     c.writeX d w = { c with x := (c.writeX d w).x }) ∧
   (∀ (c : Ctx) (d : Reg) (v : Pred), d ≠ 0 →
     (c.writeP d v).readP d = v ∧ (∀ r, r ≠ d → (c.writeP d v).readP r = c.readP r) ∧
     c.writeP d v = { c with p := (c.writeP d v).p })) ∧
  (∀ (c : Ctx) (e : Nat) (r d : Reg) (w : Word), c.vpNow = some e → e < vlmax c.fmt.sew → r ≠ 0 → d ≠ 0 →
     (c.readX r).toInt = (if c.fmt.signed then intOf true c.fmt.sew (elemAt c.v[r.toNat] c.fmt.sew e)
       else (BitVec.ofNat 64 (elemAt c.v[r.toNat] c.fmt.sew e)).toInt) ∧
     elemAt (c.writeX d w).v[d.toNat] c.fmt.sew e = w.toNat % 2 ^ c.fmt.sew ∧
     (∀ k, k ≠ e → elemAt (c.writeX d w).v[d.toNat] c.fmt.sew k = elemAt c.v[d.toNat] c.fmt.sew k) ∧
     (∀ q : Fin 64, q.val ≠ d.toNat → (c.writeX d w).v[q] = c.v[q]) ∧
     c.writeX d w = { c with v := (c.writeX d w).v })

/-- R86: what each operation of major 0x00 writes to x(d), with A = x(a) and B = x(b) or the sign-extended literal.
R87: what each immediate operation writes to x(d): the operand is the sign-extended imm10, or a shift amount from 0 to 63. -/
def Obligations.ScalarOperationsWriteTheirResult : Prop :=
  (regOp .add (fun A B v => v.toNat = (A.toNat + B.toNat) % 2 ^ 64) ∧
   regOp .sub (fun A B v => v.toNat = (A.toNat + (2 ^ 64 - B.toNat)) % 2 ^ 64) ∧
   regOp .and (fun A B v => ∀ k, v.getLsbD k = (A.getLsbD k && B.getLsbD k)) ∧
   regOp .or (fun A B v => ∀ k, v.getLsbD k = (A.getLsbD k || B.getLsbD k)) ∧
   regOp .xor (fun A B v => ∀ k, v.getLsbD k = (A.getLsbD k != B.getLsbD k)) ∧
   regOp .andn (fun A B v => ∀ k, v.getLsbD k = (A.getLsbD k && !B.getLsbD k)) ∧
   regOp .shl (fun A B v => v.toNat = A.toNat * 2 ^ (B.toNat % 64) % 2 ^ 64) ∧
   regOp .shr (fun A B v => v.toNat = A.toNat / 2 ^ (B.toNat % 64)) ∧
   regOp .sra (fun A B v => v.toInt = A.toInt / 2 ^ (B.toNat % 64)) ∧
   regOp .rol (fun A B v => ∀ k < 64, v.getLsbD k = A.getLsbD ((k + 64 - B.toNat % 64) % 64)) ∧
   regOp .min (fun A B v => v.toInt = min A.toInt B.toInt) ∧
   regOp .minu (fun A B v => v.toNat = min A.toNat B.toNat) ∧
   regOp .max (fun A B v => v.toInt = max A.toInt B.toInt) ∧
   regOp .maxu (fun A B v => v.toNat = max A.toNat B.toNat)) ∧
  (immOp .addImm (fun A k v => v.toInt = Int.bmod (A.toInt + k.toInt) (2 ^ 64)) ∧
   immOp .andImm (fun A k v => ∀ j < 64, v.getLsbD j = (A.getLsbD j && k.getLsbD (min j 9))) ∧
   immOp .orImm (fun A k v => ∀ j < 64, v.getLsbD j = (A.getLsbD j || k.getLsbD (min j 9))) ∧
   immOp .xorImm (fun A k v => ∀ j < 64, v.getLsbD j = (A.getLsbD j != k.getLsbD (min j 9))) ∧
   immOp .shlImm (fun A k v => v.toNat = A.toNat * 2 ^ k.toNat % 2 ^ 64) ∧
   immOp .shrImm (fun A k v => v.toNat = A.toNat / 2 ^ k.toNat) ∧
   immOp .sraImm (fun A k v => v.toInt = A.toInt / 2 ^ k.toNat) ∧
   immOp .rolImm (fun A k v => ∀ j < 64, v.getLsbD j = A.getLsbD ((j + 64 - k.toNat) % 64)))

/-- R88: multiplication and division: mul, mulh and mulhu give the halves of the product; a divisor of zero gives all ones, or A
for a remainder; otherwise quotient and remainder are those of division towards zero, −2^63 by −1 giving −2^63 and 0.
R89: clz counts the zero bits above the highest set bit, ctz those below the lowest, 64 for zero, and popc the set bits.
R90, R91, R92: lea forms a scaled address, sext and zext extend the low n bits (imm10[5:0] holds n − 1, and a nonzero imm10[9:6]
raises ILL_ENC), li loads a literal and lih replaces the upper half. -/
def Obligations.ProductsCountsAndAddresses : Prop :=
  (regOp3 .mul (fun A B v => v.toNat = A.toNat * B.toNat % 2 ^ 64) ∧
   regOp3 .mulh (fun A B v => v.toInt = A.toInt * B.toInt / 2 ^ 64) ∧
   regOp3 .mulhu (fun A B v => v.toNat = A.toNat * B.toNat / 2 ^ 64) ∧
   regOp3 .div (fun A B v => if B = 0 then v = BitVec.allOnes 64 else v.toInt = Int.bmod (A.toInt.tdiv B.toInt) (2 ^ 64)) ∧
   regOp3 .divu (fun A B v => if B = 0 then v = BitVec.allOnes 64 else v.toNat = A.toNat / B.toNat) ∧
   regOp3 .rem (fun A B v => if B = 0 then v = A else v.toInt = A.toInt - B.toInt * A.toInt.tdiv B.toInt) ∧
   regOp3 .remu (fun A B v => if B = 0 then v = A else v.toNat = A.toNat - B.toNat * (A.toNat / B.toNat))) ∧
  (countOp .clz (fun A v => v.toNat ≤ 64 ∧ (∀ k < 64, 64 - v.toNat ≤ k → A.getLsbD k = false) ∧
     (v.toNat < 64 → A.getLsbD (63 - v.toNat) = true)) ∧
   countOp .ctz (fun A v => v.toNat ≤ 64 ∧ (∀ k, k < v.toNat → A.getLsbD k = false) ∧
     (v.toNat < 64 → A.getLsbD v.toNat = true)) ∧
   countOp .popc (fun A v => v.toNat = ((List.range 64).filter fun k => A.getLsbD k).length)) ∧
  ((∀ (m : Mods) (d a b : Reg) (sh : BitVec 4) (disp : BitVec 8) (s : State), issues (.lea m d a b sh disp) s →
     writesX (.lea m d a b sh disp) s d fun v =>
       v.toInt = Int.bmod ((s.cx.readX a).toInt + (s.cx.readX b).toInt * 2 ^ sh.toNat + disp.toInt) (2 ^ 64)) ∧
   (∀ (d a n : Reg) (s : State), issues (.sext d a n) s →
     writesX (.sext d a n) s d fun v => ∀ k < 64, v.getLsbD k = (s.cx.readX a).getLsbD (min k n.toNat)) ∧
   (∀ (d a n : Reg) (s : State), issues (.zext d a n) s →
     writesX (.zext d a n) s d fun v => ∀ k < 64, v.getLsbD k = (decide (k ≤ n.toNat) && (s.cx.readX a).getLsbD k)) ∧
   (∀ w0 : BitVec 32, w0.extractLsb' 0 2 = 0 →
     let d := w0.extractLsb' 10 6
     let a := w0.extractLsb' 16 6
     let imm := w0.extractLsb' 22 10
     (w0.extractLsb' 2 8 = 0x0c → decode w0 0 0 = if imm.extractLsb' 6 4 = 0 then .ok (.sext d a (imm.extractLsb' 0 6)) else .error .illEnc) ∧
     (w0.extractLsb' 2 8 = 0x0d → decode w0 0 0 = if imm.extractLsb' 6 4 = 0 then .ok (.zext d a (imm.extractLsb' 0 6)) else .error .illEnc)) ∧
   (∀ (m : Mods) (d : Reg) (i : BitVec 10) (s : State), issues (.li m d (.short i)) s →
     writesX (.li m d (.short i)) s d fun v => v.toInt = i.toInt) ∧
   (∀ (m : Mods) (d : Reg) (k : BitVec 32) (s : State), issues (.li m d (.long k)) s →
     writesX (.li m d (.long k)) s d fun v => v.toInt = k.toInt) ∧
   (∀ (m : Mods) (d : Reg) (k : BitVec 32) (s : State), issues (.lih m d k) s →
     writesX (.lih m d k) s d fun v => v.toNat = k.toNat * 2 ^ 32 + (s.cx.readX d).toNat % 2 ^ 32))

/-- R93, R94, R95: cmp writes its condition to every bit of p(d), in a VP block to the VP's own bit; the predicate operations act on
every bit, in a VP block on the VP's own; sel chooses by bit 0 of p(c), in a VP block by the VP's own bit.
R96: pget reads bit x(b), 0 at or beyond 4,096 or in a VP block at or beyond vl; pset writes it and has no effect beyond;
pcount counts the set bits below vl and pfirst gives the lowest, or all ones. -/
def Obligations.PredicatesWriteTheirBits : Prop :=
  ((∀ (m : Mods) (d a : Reg) (b : Src) (cc : Cc) (s : State), issues (.cmp m d a b cc) s →
     writesBits (.cmp m d a b cc) s d fun _ =>
       let A := s.cx.readX a
       let B := s.cx.src b
       match cc with
       | .eq => decide (A = B)
       | .ne => decide (A ≠ B)
       | .lt => decide (A.toInt < B.toInt)
       | .ltu => decide (A.toNat < B.toNat)
       | .le => decide (A.toInt ≤ B.toInt)
       | .leu => decide (A.toNat ≤ B.toNat)) ∧
   (∀ (m : Mods) (d a b : Reg) (s : State), issues (.pand m d a b) s →
     writesBits (.pand m d a b) s d fun k => (s.cx.readP a).getLsbD k && (s.cx.readP b).getLsbD k) ∧
   (∀ (m : Mods) (d a b : Reg) (s : State), issues (.por m d a b) s →
     writesBits (.por m d a b) s d fun k => (s.cx.readP a).getLsbD k || (s.cx.readP b).getLsbD k) ∧
   (∀ (m : Mods) (d a b : Reg) (s : State), issues (.pxor m d a b) s →
     writesBits (.pxor m d a b) s d fun k => (s.cx.readP a).getLsbD k != (s.cx.readP b).getLsbD k) ∧
   (∀ (m : Mods) (d a : Reg) (s : State), issues (.pnot m d a) s →
     writesBits (.pnot m d a) s d fun k => !(s.cx.readP a).getLsbD k) ∧
   (∀ (m : Mods) (d a b c : Reg) (s : State), issues (.sel m d a b c) s →
     writesX (.sel m d a b c) s d fun v =>
       v = if (s.cx.readP c).getLsbD (s.cx.vpNow.getD 0) then s.cx.readX a else s.cx.readX b)) ∧
  ((∀ (m : Mods) (d a b : Reg) (s : State), issues (.pget m d a b) s →
     writesX (.pget m d a b) s d fun v =>
       let n := (s.cx.readX b).toNat
       let lim := if s.cx.vpNow = none then 4096 else s.cx.vl.toNat
       v = if n < lim ∧ (s.cx.readP a).getLsbD n = true then 1 else 0) ∧
   (∀ (m : Mods) (d a b : Reg) (s : State), issues (.pset m d a b) s →
     writesP (.pset m d a b) s d fun v => ∀ k < 4096,
       v.getLsbD k = if k = (s.cx.readX b).toNat then (s.cx.readX a).getLsbD 0 else (s.cx.readP d).getLsbD k) ∧
   (∀ (m : Mods) (d a : Reg) (s : State), issues (.pcount m d a) s →
     writesX (.pcount m d a) s d fun v =>
       v.toNat = ((List.range s.cx.vl.toNat).filter fun k => (s.cx.readP a).getLsbD k).length) ∧
   (∀ (m : Mods) (d a : Reg) (s : State), issues (.pfirst m d a) s →
     writesX (.pfirst m d a) s d fun v =>
       (v = BitVec.allOnes 64 ∧ ∀ k < s.cx.vl.toNat, (s.cx.readP a).getLsbD k = false) ∨
       (v.toNat < s.cx.vl.toNat ∧ (s.cx.readP a).getLsbD v.toNat = true ∧
         ∀ k < v.toNat, (s.cx.readP a).getLsbD k = false)))

/-- What the instructions of majors 0x00 to 0x1D leave alone (R84): when one issues, it retires; every scalar but x(d), every
predicate but p(d), every brick but, in a VP block, the VP's element of v(d), and every other register, unit and byte of
memory hold what they held. -/
def Obligations.ScalarInstructionsChangeOneRegister : Prop :=
  ∀ (i : Instr) (s : State), fetched i = true → i.enc.op.toNat < 0x20 → issues i s →
    ∃ u, exec i s = .next (retired i u) ∧
      u = { s with cx := { s.cx with x := u.cx.x, p := u.cx.p, v := u.cx.v } } ∧
      (∀ r : Fin 64, r.val ≠ i.enc.d.toNat →
        u.cx.x[r] = s.cx.x[r] ∧ u.cx.p[r] = s.cx.p[r] ∧ u.cx.v[r] = s.cx.v[r]) ∧
      (s.cx.vpNow = none → u.cx.v = s.cx.v) ∧
      (∀ e, s.cx.vpNow = some e → u.cx.x = s.cx.x ∧ ∀ (r : Fin 64) (k : Nat), k ≠ e → k < 4096 →
        elemAt u.cx.v[r] s.cx.fmt.sew k = elemAt s.cx.v[r] s.cx.fmt.sew k ∧ u.cx.p[r].getLsbD k = s.cx.p[r].getLsbD k) ∧
      sameBytes s u

/-! ### Control flow (R97 to R109) -/

/-- R97, R98, R100, R109: br and jal go to their own address plus four times the displacement, jr to x(a) as it was before the
link is written, bmz and bmnz when no position below vl is set in the top of the mask stack, or some is; jal and jr link the
next instruction's address; yield and nop go on.
R99: jtab with an index at or above the table's length falls through; otherwise it loads its entry and goes to the table's base
plus four times the entry, sign-extended; a fault of the entry's load is a data fault of the jtab.
R102, R103: strip takes the count and makes vl the smaller of it and CAP; snext takes vl from the count, never below 0, and
branches with the next vl, or ends the loop with x(d) = 0 and vl as it was. Neither touches vstart. -/
def Obligations.ControlGoesWhereTheRulesSay : Prop :=
  ((∀ (m : Mods) (disp : BitVec 32) (s : State), issues (.br m disp) s →
     exec (.br m disp) s = .next (jumped (s.cx.pc + BitVec.ofInt 64 (4 * disp.toInt)) s)) ∧
   (∀ (m : Mods) (d : Reg) (disp : BitVec 32) (s : State), issues (.jal m d disp) s →
     exec (.jal m d disp) s = .next (jumped (s.cx.pc + BitVec.ofInt 64 (4 * disp.toInt))
       (s.upd fun c => c.writeX d (c.pc + BitVec.ofNat 64 (4 * m.form.words))))) ∧
   (∀ (m : Mods) (d a : Reg) (s : State), issues (.jr m d a) s →
     exec (.jr m d a) s = .next (jumped (s.cx.readX a)
       (s.upd fun c => c.writeX d (c.pc + BitVec.ofNat 64 (4 * m.form.words))))) ∧
   (∀ (m : Mods) (disp : BitVec 32) (s : State), issues (.bmz m disp) s →
     ((∀ e, e < s.cx.vl.toNat → s.cx.maskTop.getLsbD e = false) →
       exec (.bmz m disp) s = .next (jumped (s.cx.pc + BitVec.ofInt 64 (4 * disp.toInt)) s)) ∧
     (∀ e, e < s.cx.vl.toNat → s.cx.maskTop.getLsbD e = true →
       exec (.bmz m disp) s = .next (retired (.bmz m disp) s))) ∧
   (∀ (m : Mods) (disp : BitVec 32) (s : State), issues (.bmnz m disp) s →
     ((∀ e, e < s.cx.vl.toNat → s.cx.maskTop.getLsbD e = false) →
       exec (.bmnz m disp) s = .next (retired (.bmnz m disp) s)) ∧
     (∀ e, e < s.cx.vl.toNat → s.cx.maskTop.getLsbD e = true →
       exec (.bmnz m disp) s = .next (jumped (s.cx.pc + BitVec.ofInt 64 (4 * disp.toInt)) s))) ∧
   (∀ s : State, issues .yield s → exec .yield s = .next (retired .yield s)) ∧
   (∀ s : State, issues .nop s → exec .nop s = .next (retired .nop s))) ∧
  (∀ (m : Mods) (a : Reg) (n : BitVec 12) (disp : BitVec 32) (s : State), issues (.jtab m a n disp) s →
     let k := s.cx.readX a
     let base := s.cx.pc + BitVec.ofInt 64 (4 * disp.toInt)
     (n.toNat + 1 ≤ k.toNat → exec (.jtab m a n disp) s = .next (retired (.jtab m a n disp) s)) ∧
     (k.toNat ≤ n.toNat → ∀ t v, loads s .l1 .sector .g (base + 4 * k) 4 t v →
       exec (.jtab m a n disp) s = .next (jumped (base + BitVec.ofInt 64 (4 * (BitVec.ofNat 32 v).toInt)) t)) ∧
     (k.toNat ≤ n.toNat → ∀ c v, s.resolve s.cx .g .load (base + 4 * k) 4 = .error (c, v) →
       exec (.jtab m a n disp) s = .next (trapped (.jtab m a n disp) c (base + 4 * k) s))) ∧
  ((∀ (m : Mods) (d a : Reg) (s : State), issues (.strip m d a) s →
     let cap := 2 ^ fld s.cx.vtype 4 3 * 2 ^ fld s.cx.vtype 7 3 * 2 ^ fld s.cx.vtype 10 3
     let vl : Word := BitVec.ofNat 64 (min (s.cx.readX a).toNat cap)
     exec (.strip m d a) s =
       .next (retired (.strip m d a) (s.upd fun c => { c with strip := s.cx.readX a, vl := vl }.writeX d vl))) ∧
   (∀ (m : Mods) (d : Reg) (disp : BitVec 32) (s : State), issues (.snext m d disp) s →
     let cap := 2 ^ fld s.cx.vtype 4 3 * 2 ^ fld s.cx.vtype 7 3 * 2 ^ fld s.cx.vtype 10 3
     let sc := s.cx.strip.toNat - min s.cx.vl.toNat s.cx.strip.toNat
     let vl : Word := BitVec.ofNat 64 (min sc cap)
     (sc ≠ 0 → exec (.snext m d disp) s = .next (jumped (s.cx.pc + BitVec.ofInt 64 (4 * disp.toInt))
       (s.upd fun c => { c with strip := BitVec.ofNat 64 sc, vl := vl }.writeX d vl))) ∧
     (sc = 0 → exec (.snext m d disp) s = .next (retired (.snext m d disp)
       (s.upd fun c => { c with strip := 0 }.writeX d 0)))))

/-- R106: a press whose record and body pass their checks starts its nest: every index 0, the stream registers at their bases, the
pc at the first instruction of the body, and the body's words in the loop buffer; a nest with a count of 0 ends at
once, after the body; a record address that is no multiple of 128 raises ALIGN; and an invalid record raises ILL_OPERAND with its address,
before an invalid body does (R107). What goes wrong in the fill is a trap whose from is the press.
R104, R106: the iterations of a nest run in lexicographic order with i0 fastest, each once, and end after the last: at the end of the
body the next pass begins, with stream j at its base plus the sum over the levels of index times stride, modulo 2^64, or after
the last one every stream holds its base again and control goes on after the body.
R71, R106: inside a press body an instruction with FIRST set issues only when its level's index is 0, one with LAST only when it
is the count less 1, and a level at or above NLEV has the single index 0; outside a body the hints have no effect (R74). The iteration
is the nest's, and for a replayed record the one that lies its LAG before (R349, R355).
R106, R108: while a nest runs, fetch takes the words of its body from the loop buffer, whatever memory holds; after a switch the
buffer is filled again from the body's addresses.
What an eret resumes under when the handler's press has ended, and when the buffer is filled again, are the model's choices
(log 90). -/
def Obligations.PressRunsItsNest : Prop :=
  (∀ (m : Mods) (len1 a : Reg) (k : BitVec 32) (s t u : State) (v : Nat) (body : List (Word × BitVec 96)) (after : Word),
     let i : Instr := .press m len1 a k
     let at_ := (if a = 0 then s.cx.pc else s.cx.readX a) + k.signExtend 64
     let r : BitVec 1024 := BitVec.ofNat 1024 v
     issues i s →
     (at_.toNat % 128 ≠ 0 → exec i s = .next (trapped i .align at_ s)) ∧
     (at_.toNat % 128 = 0 → loads s .l1 .sector .g at_ 128 t v →
       let first := s.cx.pc + BitVec.ofNat 64 i.bytes
       let clear := t.noClaims = true ∧ t.cx.stall.lost = false
       (∀ va, ¬ clear → t.runMeets (len1.toNat + 1) first = some (va, true) →
         exec i s = .next (trapped i .fetchAccess va (t.upd fun c => { c with prev := c.pc }))) ∧
       (∀ e va, (clear ∨ t.runMeets (len1.toNat + 1) first = none) → t.fill (len1.toNat + 1) first = .error (e, va) →
         exec i s = .next (trapped i e va (t.upd fun c => { c with prev := c.pc })))) ∧
     (at_.toNat % 128 = 0 → loads s .l1 .sector .g at_ 128 t v →
       ((t.noClaims = true ∧ t.cx.stall.lost = false) ∨ t.runMeets (len1.toNat + 1) (s.cx.pc + BitVec.ofNat 64 i.bytes) = none) →
       t.fill (len1.toNat + 1) (s.cx.pc + BitVec.ofNat 64 i.bytes) = .ok (u, body, after) →
       (recordOk r = false → exec i s = .next (trapped i .illOperand at_ u)) ∧
       (∀ b, recordOk r = true → (body.find? fun b => bodyBarred (b.2.setWidth 32)) = some b →
         exec i s = .next (trapped i .illOperand b.1 u)) ∧
       (recordOk r = true → (∀ b ∈ body, bodyBarred (b.2.setWidth 32) = false) →
         ((∃ l < nestLevels r, nestCount r l = 0) → exec i s = .next (jumped after (u.upd fun c => { c with press := none }))) ∧
         ((∀ l < nestLevels r, nestCount r l ≠ 0) → s.cx.replay = none → s.cx.vp = none →
           ∃ w n, exec i s = .next w ∧ w.cx.press = some n ∧ n.image = r ∧ n.idx = List.replicate (nestLevels r) 0 ∧
             n.bases = (List.range (nestStreams r)).map (fun j => u.cx.readX (nestReg r j)) ∧ n.body = body ∧
             n.after = after ∧ n.held = 0 ∧ n.stale = false ∧ w.cx.pc = (body.headD (after, 0)).1 ∧ w.cx.prev = s.cx.pc ∧
             (∀ q, w.cx.readX q = u.cx.readX q) ∧ w.mem = u.mem)))) ∧
  ((∀ (r : BitVec 1024) (k : Nat) (idx : List Nat), nestFits r k idx →
     match nextIdx r k idx with
     | some j => j.length = idx.length ∧ nestFits r k j ∧ nestRank r k j = nestRank r k idx + 1
     | none => nestRank r k idx + 1 = nestSize r k idx) ∧
   (∀ (c : Ctx) (n : Nest) (idx : List Nat), nextIdx n.image 0 n.idx = some idx →
     (c.nestPass n).press = some { n with idx := idx } ∧ (c.nestPass n).pc = (n.body.headD (n.after, 0)).1) ∧
   (∀ (c : Ctx) (n : Nest), nextIdx n.image 0 n.idx = none →
     (c.nestPass n).press = none ∧ (c.nestPass n).pc = n.after) ∧
   (∀ (c : Ctx) (n : Nest) (len : Nat), c.replay = none → c.vpNow = none → c.nestNow = some n → c.pc + BitVec.ofNat 64 len = n.after →
     c.advance len = { c.disarm with prev := c.pc, stall := .none }.nestPass n) ∧
   (∀ (c : Ctx) (n : Nest) (j : Nat), c.vpNow = none → recordOk n.image = true → j < nestStreams n.image →
     let reg : Reg := n.image.extractLsb' (128 + 8 * j) 6
     (∀ idx, nextIdx n.image 0 n.idx = some idx → (c.nestPass n).readX reg =
       n.bases.getD j 0 + BitVec.ofInt 64 ((List.range idx.length).map fun k =>
         (idx.getD k 0 : Int) * (n.image.extractLsb' (256 + 128 * k + 32 * j) 32).toInt).sum) ∧
     (nextIdx n.image 0 n.idx = none → (c.nestPass n).readX reg = n.bases.getD j 0))) ∧
  ((∀ (c : Ctx) (m : Mods), (c.nestNow = none ∨ ∃ n, c.nestNow = some n ∧ ∀ b ∈ n.body, b.1 ≠ c.pc) → c.hintIssues m = true) ∧
   (∀ (c : Ctx) (m : Mods) (n : Nest), c.nestNow = some n → (∃ b ∈ n.body, b.1 = c.pc) → n.idx.length = nestLevels n.image →
     let l := (m.hint.extractLsb' 0 3).toNat
     let idx := c.idxNow n
     (l < nestLevels n.image →
       (c.hintIssues m = true ↔ (m.hint.getLsbD 3 = true → idx.getD l 0 = 0) ∧
         (m.hint.getLsbD 4 = true → idx.getD l 0 = nestCount n.image l - 1))) ∧
     (nestLevels n.image ≤ l → c.hintIssues m = true)) ∧
   (∀ (c : Ctx) (n : Nest), c.replay = none → c.idxNow n = n.idx) ∧
   (∀ (c : Ctx) (n : Nest) (r : Replay) (q : Word) (qs : List Word), c.replay = some r → r.todo = q :: qs →
     nestFits n.image 0 n.idx → fld q 61 2 ≤ nestRank n.image 0 n.idx →
     nestFits n.image 0 (c.idxNow n) ∧ nestRank n.image 0 (c.idxNow n) + fld q 61 2 = nestRank n.image 0 n.idx)) ∧
  ((∀ (s : State) (n : Nest) (w : BitVec 96) (i : Instr), s.cx.nestNow = some n → n.stale = false →
     (n.body.find? fun b => b.1 == s.cx.pc) = some (s.cx.pc, w) →
     decode (w.extractLsb' 0 32) (w.extractLsb' 32 32) (w.extractLsb' 64 32) = .ok i → s.fetch = .ok (s, i)) ∧
   (∀ (s t : State) (n : Nest) (body : List (Word × BitVec 96)), s.cx.nestNow = some n → n.stale = true →
     s.refill (n.body.map Prod.fst) = .ok (t, body) →
     s.fetch = (t.upd fun c => { c with press := some { n with body := body, stale := false } }).fetch) ∧
   (∀ (s : State) (n : Nest) (v : Word), s.cx.nestNow = some n → n.stale = true →
     s.refill (n.body.map Prod.fst) = .error (.fetchXlate, v) → s.fetch = .ok (s, .fetchXlate v false)))

/-! ### Memory (R187 to R215, R296, R301, R310) -/

/-- R194 to R198, R202: what a walk finds and a translation leaves. A walk goes down from entry to entry, each at its table's index for the
address, as its tower sees it, to a leaf of level 0, 1 or 2; an entry that is not valid or malformed, or a leaf that is not aligned or
stands too high, ends it with DATA_XLATE, an entry where nothing is with DATA_ACCESS, and one on a poisoned line with DATA_LOST. A translation that a TLB holds answers for its page with no walk and no change, when
its leaf allows the access; otherwise the walk answers the page's address with the offset within the page, changes no register, and
sets nothing but ACC, and for a write DRT, of the leaf entry, as memory holds it then; no copy of the entry's line serves the walker's
tower after that; for the device itself, the update waits for a held row as its other writes do (R234). What the walk found may enter
the TLBs. An address with a bit of 63:56 set translates nowhere.
R199: a promotion moves a 2 MiB page of another tower, or of the host, whose entry has MIG set, into a frame of the tower's promotion pool: the
entry names the frame and its generation rises by one, the page's bytes are those it had, and no core's and no tower's TLB keeps the
old entry; it waits for the accesses in flight to the page and for the range walks in flight, and a frame that holds a page takes no other.
What the TLBs keep, and that a promotion is one step, are the model's choices (log 37, log 87, log 89); where promotion is
enabled is free (log 94). -/
def Obligations.TranslationAndPromotion : Prop :=
  ((∀ (s t : State) (who : Option (BitVec 12)) (root : Word) (sup : Bool) (acc : Acc) (va : Word) (pa : Nat) (uc : Bool),
     s.translate who root sup acc va = .ok (t, pa, uc) → s.heldXlate who (fld root 48 16) acc va.toNat = none →
     fld va 56 8 = 0 ∧
     ∃ l : Leaf, walkFrom s (who.map towerOf) va.toNat 4 (fld root 11 37 * 2048) = .ok l ∧ pteAllows l.pte acc sup = true ∧
       pa % 2 ^ (12 + 9 * l.level) = va.toNat % 2 ^ (12 + 9 * l.level) ∧
       pa / 2 ^ (12 + 9 * l.level) = fld l.pte 12 40 * 4096 / 2 ^ (12 + 9 * l.level) ∧
       uc = bitOf l.pte 9 ∧
       t = { s with
         mem := t.mem, tags := t.tags, pend := t.pend, cores := t.cores, towers := t.towers
         co := { s.co with tlb := t.co.tlb }, tw := { s.tw with tlb := t.tw.tlb }
         dev := { s.dev with peerLines := t.dev.peerLines } } ∧
       (∀ n, t.core n = { s.core n with tlb := (t.core n).tlb }) ∧ (∀ n, t.tower n = { s.tower n with tlb := (t.tower n).tlb }) ∧
       (s.caching = false → t.cores = s.cores ∧ t.towers = s.towers ∧ t.co = s.co ∧ t.tw = s.tw ∧
         ∀ y ∈ t.dev.peerLines, ∃ z ∈ s.dev.peerLines, z.line = y.line ∧ z.data = y.data ∧ y.towers &&& z.towers = y.towers) ∧
       let at_ := ((s.locate false l.at_).map Loc.pos).getD l.at_
       let bits : Byte := if acc.writes then 0xc0 else 0x80
       let held := who = none ∧ s.rowMeet none ⟨l.at_, at_, false⟩ ≠ .free
       (l.pte.extractLsb' 48 8 &&& bits = bits → t.mem = s.mem ∧ t.tags = s.tags ∧ t.pend = s.pend) ∧
       (l.pte.extractLsb' 48 8 &&& bits ≠ bits →
         (¬ held → s.mem.wf = true → t.pend = s.pend ∧ t.mem.byte (at_ + 6) = s.mem.byte (at_ + 6) ||| bits ∧
           ∀ a, a ≠ at_ + 6 → t.mem.byte a = s.mem.byte a) ∧
         (held → t.mem = s.mem ∧ t.tags = s.tags ∧
           t.pend = s.pend ++ [.store none (BitVec.ofNat 64 l.at_) [(l.at_ + 6, at_ + 6)] [(bits, bits)] none false]) ∧
         (∀ core, who = some core → t.peerCopy (towerOf core) (lineOf at_) = none))) ∧
   (∀ (s : State) (who : Option (BitVec 12)) (root : Word) (sup : Bool) (acc : Acc) (va : Word) (x : Xlate), fld va 56 8 = 0 →
     s.heldXlate who (fld root 48 16) acc va.toNat = some x →
     (x.asid = fld root 48 16 ∨ bitOf x.pte 6 = true) ∧ x.page = va.toNat / 2 ^ (12 + 9 * x.level) ∧
     (acc.writes = true → bitOf x.pte 54 = true) ∧
     (pteAllows x.pte acc sup = false → s.translate who root sup acc va = .error acc.access) ∧
     (pteAllows x.pte acc sup = true → ∃ pa, s.translate who root sup acc va = .ok (s, pa, bitOf x.pte 9) ∧
       pa % 2 ^ (12 + 9 * x.level) = va.toNat % 2 ^ (12 + 9 * x.level) ∧
       pa / 2 ^ (12 + 9 * x.level) = fld x.pte 12 40 * 4096 / 2 ^ (12 + 9 * x.level))) ∧
   (∀ (s : State) (who : Option (BitVec 12)) (root : Word) (sup : Bool) (acc : Acc) (va : Word), fld va 56 8 ≠ 0 →
     s.translate who root sup acc va = .error acc.xlate) ∧
   (∀ (s : State) (t : Option (BitVec 3)) (va k table : Nat),
     let a := table + 8 * (if k = 4 then va / 2 ^ 48 % 256 else va / 2 ^ (12 + 9 * k) % 512)
     ((isReg a = true ∨ s.locate false a = none) → walkFrom s t va k table = .error .dataAccess) ∧
     (∀ l, isReg a = false → s.locate false a = some l →
       let e := s.readPte t l
       let next := fld e 12 40 * 4096
       let leaf := bitOf e 1
       (s.poison.contains (lineOf l.pos) = true → walkFrom s t va k table = .error .dataLost) ∧
       (s.poison.contains (lineOf l.pos) = false →
         ((bitOf e 0 = false ∨ fld e 52 2 ≠ 0 ∨ fld e 7 2 ≠ 0 ∨ (leaf = true ∧ bitOf e 3 = true ∧ bitOf e 2 = false) ∨
             (leaf = false ∧ (fld e 54 2 ≠ 0 ∨ fld e 9 3 ≠ 0 ∨ fld e 2 5 ≠ 0)) ∨
             (leaf = true ∧ (3 ≤ k ∨ next % 2 ^ (12 + 9 * k) ≠ 0)) ∨ (leaf = false ∧ k = 0)) →
           walkFrom s t va k table = .error .dataXlate) ∧
         (bitOf e 0 = true → fld e 52 2 = 0 → fld e 7 2 = 0 →
           (leaf = true → (bitOf e 3 = true → bitOf e 2 = true) → k < 3 → next % 2 ^ (12 + 9 * k) = 0 →
             walkFrom s t va k table = .ok ⟨a, e, k⟩) ∧
           (∀ j, leaf = false → fld e 54 2 = 0 → fld e 9 3 = 0 → fld e 2 5 = 0 → k = j + 1 →
             walkFrom s t va k table = walkFrom s t va j next))))) ∧
   (∀ (s : State) (t : Option (BitVec 3)) (l : Loc), (t = none ∨ ∀ k < 8, isPeer (l.pos + k) = false) →
     s.readPte t l = BitVec.ofNat 64 (s.mem.readN l.pos 8))) ∧
  (∀ (s : State) (t : BitVec 3) (ptb va frame : Word) (l : Leaf),
     let old := fld l.pte 12 40 * 4096
     walkFrom s none va.toNat 4 (fld ptb 11 37 * 2048) = .ok l → l.level = 1 → bitOf l.pte 11 = true → fld va 56 8 = 0 →
     (isHost old = true ∨ (isDram old = true ∧ old / 2 ^ 36 ≠ t.toNat)) → isDram frame.toNat = true →
     frame.toNat / 2 ^ 36 = t.toNat → frame.toNat % 2 ^ 21 = 0 → ringFull s.dev = false → s.dev.evwait = [] →
     isDram l.at_ = true → (l.at_ + 8 ≤ frame.toNat ∨ frame.toNat + 2 ^ 21 ≤ l.at_) → s.mem.wf = true →
     ((Config.promotes t.toNat frame.toNat = false ∨ s.dev.frames.contains (frame.toNat / 2 ^ 21) = true ∨
       s.inFlightAt (fun p => p.2 / 2 ^ 21 == old / 2 ^ 21) = true ∨ s.dev.walks ≠ []) → exec (.pagePromotion t ptb va frame) s = .next s) ∧
     (Config.promotes t.toNat frame.toNat = true → s.dev.frames.contains (frame.toNat / 2 ^ 21) = false →
       s.inFlightAt (fun p => p.2 / 2 ^ 21 == old / 2 ^ 21) = false → s.dev.walks = [] → ∃ u e, exec (.pagePromotion t ptb va frame) s = .next u ∧ u.mem.readN l.at_ 8 = BitVec.toNat (e : Word) ∧
       fld e 12 40 = frame.toNat / 4096 ∧ fld e 56 8 = (fld l.pte 56 8 + 1) % 256 ∧ fld e 0 12 = fld l.pte 0 12 ∧
       fld e 52 4 = fld l.pte 52 4 ∧
       (∀ k < 2 ^ 21, u.mem.byte (frame.toNat + k) = s.mem.byte (old + k)) ∧ u.cx = s.cx ∧ u.others = s.others ∧
       (∀ n : BitVec 12, ∀ x ∈ (u.core n).tlb, x.at_ ≠ l.at_) ∧ (∀ n : BitVec 3, ∀ x ∈ (u.tower n).tlb, x.at_ ≠ l.at_) ∧
       u.dev.frames.contains (frame.toNat / 2 ^ 21) = true))

/-- R203, R204, R201: ld and ldro read the bytes at x(a) plus the displacement, whole or not at all, and write x(d), zero- or
sign-extended, for 16 bytes x(d) and x(d+1); the displacement counts in units of the access size in the S form and in bytes in
the L form. An acquiring ld reads past the L1 and then acquires. A failed translation is DATA_XLATE or DATA_ACCESS of the first failing byte, with no effect.
R206, R202: ldtag reads the line that holds x(a) plus the displacement, bits 6:0 ignored, and writes the line's tag: of device
DRAM, of the context's cave window, or, for a line of the host or a peer, any 32-bit value.
R191, R192, R201, R204, R297, R301: what a load sees and what makes a cache give it up. Where the L1 holds no word of a byte and no copy
of a peer line serves the tower, a load sees memory, and on an uncached page it never sees the L1 or the rind buffers; a load under a system acquire sees
memory always. A context sees its own store. An acquire at core scope gives up nothing; at any other every word of its own core's L1
goes and no other core's, and at system scope no copy of a peer line serves the tower any more.
That a load is performed at its issue, what the caches keep, and which accesses reach DRAM are the model's choices (log 1,
log 16, log 35, log 89), and so are the tags of lines outside device DRAM (log 11). -/
def Obligations.LoadsReadWhatMemoryHolds : Prop :=
  (∀ (m : Mods) (d a : Reg) (sz : MSize) (sx : Bool) (sp : Space) (acq : Option Scope) (disp : BitVec 32) (s t : State) (v : Nat),
     let path : Path := match acq with
       | none | some .cor => .l1
       | some .sys => .fresh
       | some _ => .cave
     let va := s.cx.readX a + BitVec.ofInt 64 (disp.toInt * (if m.form = .s then Machine.sizeOf sz else 1))
     let x : Word := if sx then BitVec.ofInt 64 (BitVec.ofNat (8 * Machine.sizeOf sz) v).toInt else BitVec.ofNat 64 v
     (issues (.ld m d a sz sx sp acq disp) s → loads s path .sector sp va (Machine.sizeOf sz) t v →
       (sz ≠ .q → exec (.ld m d a sz sx sp acq disp) s =
         .next (retired (.ld m d a sz sx sp acq disp) ((t.acquireIf acq).upd fun c => c.writeX d x))) ∧
       (sz = .q → exec (.ld m d a sz sx sp acq disp) s = .next (retired (.ld m d a sz sx sp acq disp)
         ((t.acquireIf acq).upd fun c => (c.writeX d (BitVec.ofNat 64 v)).writeX (d + 1) (BitVec.ofNat 64 (v / 2 ^ 64)))))) ∧
     (issues (.ldro m d a sz sx disp) s → loads s .rind .sector .g va (Machine.sizeOf sz) t v →
       (sz ≠ .q → exec (.ldro m d a sz sx disp) s =
         .next (retired (.ldro m d a sz sx disp) (t.upd fun c => c.writeX d x))) ∧
       (sz = .q → exec (.ldro m d a sz sx disp) s = .next (retired (.ldro m d a sz sx disp)
         (t.upd fun c => (c.writeX d (BitVec.ofNat 64 v)).writeX (d + 1) (BitVec.ofNat 64 (v / 2 ^ 64)))))) ∧
     (issues (.ld m d a sz sx sp acq disp) s →
       ∀ c w, s.resolve s.cx sp .load va (Machine.sizeOf sz) = .error (c, w) →
         exec (.ld m d a sz sx sp acq disp) s = .next (trapped (.ld m d a sz sx sp acq disp) c w s))) ∧
  (∀ (m : Mods) (d a : Reg) (sp : Space) (disp : BitVec 32) (s t u : State) (v : Nat) (p : Place),
     let i : Instr := .ldtag m d a sp disp
     let va := (s.cx.readX a + BitVec.ofInt 64 (disp.toInt * (if m.form = .s then 128 else 1))) &&& 0xffffffffffffff80
     issues i s → loads s .cave .sector sp va 128 t v → t.resolve t.cx sp .load va 1 = .ok (u, p) →
     (∀ l ls, p = .g (l :: ls) → (isDram l.pa = true ∨ isAperture l.pa = true) →
       exec i s = .next (retired i (u.upd fun c => c.writeX d ((u.tags.get (lineOf l.pa)).setWidth 64)))) ∧
     (∀ off, p = .c off → exec i s = .next (retired i (u.upd fun c => c.writeX d ((u.cx.caveTags.get (off / 128)).setWidth 64)))) ∧
     (∀ l ls, p = .g (l :: ls) → isDram l.pa = false → isAperture l.pa = false →
       ∃ w : Word, w.toNat < 2 ^ 32 ∧
         exec i s = .next (retired i (State.upd { u with free := u.free + 1 } fun c => c.writeX d w)))) ∧
  ((∀ (s : State) (c : Ctx) (l : Loc), (isPeer l.pos = false ∨ s.peerCopy (towerOf c.coreid) (lineOf l.pos) = none) →
     s.seen c .cave l = s.mem.byte l.pos ∧
     ((l.uc = true ∨ (s.core c.coreid).l1.word? (l.pos / 4) = none) → s.seen c .l1 l = s.mem.byte l.pos) ∧
     ((l.uc = true ∨ s.rindWord (clusterOf c.coreid) c.asid (l.pos / 4) = none) → s.seen c .rind l = s.mem.byte l.pos)) ∧
   (∀ (s : State) (c : Ctx) (l : Loc), s.seen c .fresh l = s.mem.byte l.pos) ∧
   (∀ (s : State) (c : Ctx) (l : Loc) (w : BitVec 32), l.uc = false → (s.core c.coreid).l1.word? (l.pos / 4) = some w →
     s.seen c .l1 l = w.extractLsb' (8 * (l.pos % 4)) 8) ∧
   (∀ (s : State) (ls : List Loc) (bs : List (Byte × Byte)) (l : Loc), l ∈ ls →
     (s.putPlace (.g ls) bs).seen s.cx .l1 l = (s.putPlace (.g ls) bs).mem.byte l.pos) ∧
   (∀ s : State, s.acquire .cor = s) ∧
   (∀ (s : State) (sc : Scope), sc ≠ .cor →
     ((s.acquire sc).core s.cx.coreid).l1 = [] ∧
     (∀ n, n ≠ s.cx.coreid → (s.acquire sc).core n = s.core n) ∧
     (s.acquire sc).mem = s.mem ∧ (s.acquire sc).cx = s.cx ∧
     (sc ≠ .sys → (s.acquire sc).dev = s.dev) ∧
     (∀ line, (s.acquire .sys).peerCopy (towerOf s.cx.coreid) line = none)))

/-- R205, R202, R296, R234: st writes the low bytes of x(d), for 16 bytes of x(d) and x(d+1), at x(a) plus the displacement, and
every byte outside them stays; it counts once against the tag of each line of device DRAM it touches. On a layer that a
started claim holds the store waits in the row controller, and one to a peer for its completion, and no byte changes; the context's claim on the row itself is
ROW_SELF; a failed translation stops it with nothing written.
That a store that nothing holds back is performed at its issue is the model's choice (log 1, log 16). -/
def Obligations.StoresWriteTheirBytes : Prop :=
  ∀ (m : Mods) (d a : Reg) (sz : MSize) (sp : Space) (rel : Option Scope) (disp : BitVec 32) (s t : State) (p : Place),
    let i : Instr := .st m d a sz sp rel disp
    let n := Machine.sizeOf sz
    let va := s.cx.readX a + BitVec.ofInt 64 (disp.toInt * (if m.form = .s then n else 1))
    let v := if sz = .q then (s.cx.readX d).toNat + 2 ^ 64 * (s.cx.readX (d + 1)).toNat else (s.cx.readX d).toNat
    issues i s → (rel.isSome = true → released s) →
    (canonical t → stores s {} sp va n t p →
      ∃ u, exec i s = .next (retired i u) ∧ storesBytes t u p n v ∧
        (∀ ls, p = .g ls → ∀ line, u.tags.get line = t.tags.get line +
          if line ∈ ls.map (fun l => lineOf l.pa) ∧ (isDram (128 * line) ∨ isAperture (128 * line)) then 1 else 0)) ∧
    (s.resolve s.cx sp .store va n = .ok (t, p) → s.walkMeets s.cx sp .store va n = .free → p.inReg = false → s.poisoned p = false →
      t.blocked t.cx p n = false →
      (t.rowMeets (some t.cx) p = .wait ∨ (t.rowMeets (some t.cx) p = .free ∧ p.inPeer = true)) →
      ∃ e, exec i s = .next (retired i { t with pend := t.pend ++ [e] }) ∧ e.owner = some t.cx.id ∧ e.locs = p.pairs) ∧
    (∀ w, s.resolve s.cx sp .store va n = .ok (t, p) → s.walkMeets s.cx sp .store va n = .free → p.inReg = false →
      s.poisoned p = false → t.blocked t.cx p n = false →
      t.rowMeets (some t.cx) p = .self w → exec i s = .next (trapped i .rowSelf w t)) ∧
    (∀ c w, s.resolve s.cx sp .store va n = .error (c, w) → exec i s = .next (trapped i c w s))

/-- R207, R208, R209: atom and cas read the old value, leave the new one, and write x(d) and the tag of the line after the step in one
step, and every byte outside the access stays; an address that is no multiple of the size raises ALIGN, and the register
space ATOMIC_UNSUPPORTED.
R310: an atom .add or .xchg or a cas to UC host memory is sent as an AtomicOp and the context waits; the host performs the fetch and
add, the swap or the compare and swap and brings the old value, and the instruction then writes it, with the tag 0; where the host
does not support it, it is DATA_ACCESS.
That an atomic is performed at its issue is the model's choice (log 1), and the tag of a foreign line is free (log 11). -/
def Obligations.AtomicsReadAndReplace : Prop :=
  ((∀ (m : Mods) (d a b c : Reg) (op : AtomOp) (dbl : Bool) (ord : Ord) (sc : Scope) (sp : Space) (disp : BitVec 24)
       (s t : State) (p : Place),
     let i : Instr := .atom m d a b c op dbl ord sc sp disp
     let n := if dbl then 8 else 4
     let va := s.cx.readX a + BitVec.ofInt 64 disp.toInt
     let acq := if ord = .acq ∨ ord = .ar then some sc else none
     issues i s →
     (canonical t → performs s sp va n t p → (ord = .rel ∨ ord = .ar → released s) →
       ∃ (old new : Nat) (tag : Word) (u w : State), numberAt t p n old ∧ atomLeaves op (8 * n) old ((s.cx.readX b).toNat % 2 ^ (8 * n)) new ∧
         storesBytes t u p n new ∧ tagAfter u p tag ∧ w = { u with free := w.free } ∧
         exec i s = .next (retired i ((w.acquireIf acq).upd fun x =>
           (x.writeX d (BitVec.ofInt 64 (BitVec.ofNat (8 * n) old).toInt)).writeX c tag))) ∧
     (va.toNat % n ≠ 0 → (∀ ok old, s.cx.stall ≠ .hostDone ok old) → exec i s = .next (trapped i .align va s)) ∧
     (va.toNat % n = 0 → (∀ ok old, s.cx.stall ≠ .hostDone ok old) → s.resolve s.cx sp .atomic va n = .ok (t, p) →
       p.target = .regs → exec i s = .next (trapped i .atomicUnsupported va s))) ∧
   (∀ (m : Mods) (d a b c : Reg) (sz : MSize) (ord : Ord) (sc : Scope) (sp : Space) (disp : BitVec 24) (s t : State) (p : Place),
     let i : Instr := .cas m d a b c sz ord sc sp disp
     let n := Machine.sizeOf sz
     let va := s.cx.readX a + BitVec.ofInt 64 disp.toInt
     let val (r : Reg) : Nat :=
       if sz = .q then (s.cx.readX r).toNat + 2 ^ 64 * (s.cx.readX (r + 1)).toNat else (s.cx.readX r).toNat % 2 ^ (8 * n)
     let acq := if ord = .acq ∨ ord = .ar then some sc else none
     issues i s →
     (canonical t → performs s sp va n t p → (ord = .rel ∨ ord = .ar → released s) →
       ∃ (old : Nat) (tag : Word) (u w : State), numberAt t p n old ∧ storesBytes t u p n (if old = val d then val b else old) ∧ tagAfter u p tag ∧
         w = { u with free := w.free } ∧
         exec i s = .next (retired i ((w.acquireIf acq).upd fun x =>
           (if sz = .q then (x.writeX d (BitVec.ofNat 64 old)).writeX (d + 1) (BitVec.ofNat 64 (old / 2 ^ 64))
            else x.writeX d (BitVec.ofNat 64 old)).writeX c tag))) ∧
     (va.toNat % n ≠ 0 → (∀ ok old, s.cx.stall ≠ .hostDone ok old) → exec i s = .next (trapped i .align va s)))) ∧
  ((∀ (m : Mods) (d a b c : Reg) (ord : Ord) (sc : Scope) (sp : Space) (disp : BitVec 24) (s t : State) (l : Loc) (ls : List Loc)
       (i : Instr) (n : Nat) (o : HostOp),
     let data (r : Reg) (sz : MSize) : Nat :=
       if sz = .q then (s.cx.readX r).toNat + 2 ^ 64 * (s.cx.readX (r + 1)).toNat
       else (s.cx.readX r).toNat % 2 ^ (8 * Machine.sizeOf sz)
     let va := s.cx.readX a + BitVec.ofInt 64 disp.toInt
     ((∃ (op : AtomOp) (dbl : Bool), i = .atom m d a b c op dbl ord sc sp disp ∧ n = (if dbl then 8 else 4) ∧
         ((op = .add ∧ o = .fetchAdd (BitVec.ofNat 128 ((s.cx.readX b).toNat % 2 ^ (8 * n)))) ∨
           (op = .xchg ∧ o = .swap (BitVec.ofNat 128 ((s.cx.readX b).toNat % 2 ^ (8 * n)))))) ∨
       ∃ sz : MSize, i = .cas m d a b c sz ord sc sp disp ∧ n = Machine.sizeOf sz ∧
         o = .cas (BitVec.ofNat 128 (data d sz)) (BitVec.ofNat 128 (data b sz))) →
     issues i s → (∀ ok old, s.cx.stall ≠ .hostDone ok old) → va.toNat % n = 0 →
     s.resolve s.cx sp .atomic va n = .ok (t, .g (l :: ls)) → Place.target (.g (l :: ls)) = .hostUc →
     s.poisoned (.g (l :: ls)) = false → s.peerFails (.g (l :: ls)) = false → (ord = .rel ∨ ord = .ar → released s) →
     s.blocked s.cx (.g (l :: ls)) n = false → s.walkMeets s.cx sp .atomic va n = .free → s.rowMeets (some s.cx) (.g (l :: ls)) = .free →
     exec i s = .next (t.upd fun x => { x with stall := .host, hostReq := some ⟨l.pa, n, o⟩ })) ∧
   (∀ (s : State) (id : Nat) (c : Ctx) (q : HostReq), s.ctx? id = some c → c.stall = .host → c.hostReq = some q →
     q.size ≤ 16 →
     ∃ t, exec (.atomicopCompletion id true) s = .next t ∧
       (∃ e, t.ctx? id = some e ∧ e.hostReq = none ∧ ∃ old, e.stall = .hostDone true old ∧
         old.toNat = s.mem.readN q.pa q.size) ∧
       (s.mem.wf = true →
         (∀ a, (a < q.pa ∨ q.pa + q.size ≤ a) → t.mem.byte a = s.mem.byte a) ∧
         (∀ v, q.op = .fetchAdd v → t.mem.readN q.pa q.size = (s.mem.readN q.pa q.size + v.toNat) % 256 ^ q.size) ∧
         (∀ v, q.op = .swap v → t.mem.readN q.pa q.size = v.toNat % 256 ^ q.size) ∧
         (∀ e n, q.op = .cas e n → t.mem.readN q.pa q.size =
           if s.mem.readN q.pa q.size = e.toNat then n.toNat % 256 ^ q.size else s.mem.readN q.pa q.size))) ∧
   (∀ (m : Mods) (d a b c : Reg) (op : AtomOp) (dbl : Bool) (sz : MSize) (ord : Ord) (sc : Scope) (sp : Space) (disp : BitVec 24)
       (s : State) (old : BitVec 128),
     let i : Instr := .atom m d a b c op dbl ord sc sp disp
     let j : Instr := .cas m d a b c sz ord sc sp disp
     let n := if dbl then 8 else 4
     let va := s.cx.readX a + BitVec.ofInt 64 disp.toInt
     let acq := if ord = .acq ∨ ord = .ar then some sc else none
     (s.cx.stall = .hostDone true old →
       (issues i s → exec i s = .next (retired i ((s.acquireIf acq).upd fun x =>
         (x.writeX d (BitVec.ofInt 64 (BitVec.ofNat (8 * n) old.toNat).toInt)).writeX c 0))) ∧
       (issues j s → exec j s = .next (retired j ((s.acquireIf acq).upd fun x =>
         (if sz = .q then (x.writeX d (old.setWidth 64)).writeX (d + 1) (old.extractLsb' 64 64)
          else x.writeX d (BitVec.ofNat 64 (old.toNat % 2 ^ (8 * Machine.sizeOf sz)))).writeX c 0)))) ∧
     (s.cx.stall = .hostDone false old →
       (issues i s → exec i s = .next (trapped i .dataAccess va s)) ∧ (issues j s → exec j s = .next (trapped j .dataAccess va s)))))

/-- R210, R211, R262, R371: fence waits for what its kinds name, with ACK for the mflushes and the writes of the context, with EN for its
engine commands and graph nodes, with SL or SS for its writes, and completes when nothing that they name is left; with LL or LS it
acquires at its scope. drain acquires at system scope when everything it waits for is done, and waits until then; mwait waits until
every earlier mflush of the context has been performed. tlbinv waits until the context's earlier writes are performed, and then the
translations that it names, global ones under all and gpage alone, leave every TLB; one that names an ASID above 16 bits raises
ILL_OPERAND. Of the fence, the drain and the tlbinv that release, a peer store that was lost is reported (R383).
R212, R213: flush, inval and seal: a length of 0 does nothing; a length above 2^40, or a range that reaches beyond 2^56, raises
ILL_OPERAND with x(a); a poisoned line of the range, or for seal of a page table on the way, is DATA_LOST; without ack the instruction retires with its walkers started, and with ack, and always for seal, it waits for the
walkers of the context and completes once they have finished.
R214, R215, R190: cavecfg takes 0, 2, 4, 8 or 12 ways, frees the lines beyond them, clears LOST, and writes the count of lines
written back, 0 unless it grows, to x(d) and cavestat; cavewb counts without changing the partition. An accepted cavecfg waits for the context's earlier c: accesses. Any other number of ways
is ILL_OPERAND, and a growth that the pool or a budget does not allow is CAVE_POOL.
What a release waits for is the model's reading (log 68), what the caches keep is its choice (log 89), and the count of
dirty lines is free (log 9). -/
def Obligations.BarriersWalkersAndCaves : Prop :=
  ((∀ (kinds : BitVec 6) (sc : Scope) (s : State), issues (.fence kinds sc) s →
     let ack := kinds.getLsbD 5 = true
     let release := ack ∨ kinds.getLsbD 2 = true ∨ kinds.getLsbD 3 = true
     let flushes := ack ∧ s.flushesOut s.cx = true
     let engines := kinds.getLsbD 4 = true ∧ (s.cx.commandsOut = true ∨ s.nodesRunning s.cx = true)
     let writes := release ∧ s.writesOut s.cx.id = true
     (flushes ∨ engines ∨ writes → waits (.fence kinds sc) s) ∧
     (¬ flushes → ¬ engines → ¬ writes →
       ((release → s.cx.lostStore = none) → exec (.fence kinds sc) s = .next (retired (.fence kinds sc)
         (s.acquireIf (if kinds.getLsbD 0 = true ∨ kinds.getLsbD 1 = true then some sc else none)))) ∧
       (∀ va, release → s.cx.lostStore = some va → lostStoreTraps (.fence kinds sc) s va))) ∧
   (∀ s : State, issues .drain s → drainedNow s → exec .drain s = .next (retired .drain (s.acquire .sys))) ∧
   (∀ s : State, issues .drain s →
     (s.drained s.cx = false → waits .drain s) ∧
     (∀ va, s.drained s.cx = true → s.cx.lostStore = some va → s.writesOut s.cx.id = false → lostStoreTraps .drain s va)) ∧
   (∀ s : State, issues .mwait s →
     (s.flushesOut s.cx = false → exec .mwait s = .next (retired .mwait s)) ∧ (s.flushesOut s.cx = true → waits .mwait s)) ∧
   (∀ (i : Instr) (s : State), (i = .tlbinvAll ∨ (∃ b, i = .tlbinvAsid b ∧ fld (s.cx.readX b) 16 48 = 0) ∨
       (∃ a b, i = .tlbinvPage a b ∧ fld (s.cx.readX b) 16 48 = 0) ∨ (∃ a, i = .tlbinvGpage a) ∨ i = .tlbinvUser) → issues i s →
     (s.writesOut s.cx.id = true → waits i s) ∧
     (∀ va, s.writesOut s.cx.id = false → s.cx.lostStore = some va → lostStoreTraps i s va)) ∧
   (∀ s : State, issues .tlbinvAll s → released s → exec .tlbinvAll s = .next (retired .tlbinvAll (s.dropXlates fun _ => true))) ∧
   (∀ (b : Reg) (s : State), issues (.tlbinvAsid b) s →
     (fld (s.cx.readX b) 16 48 = 0 → released s → exec (.tlbinvAsid b) s = .next (retired (.tlbinvAsid b)
       (s.dropXlates fun x => decide (bitOf x.pte 6 = false ∧ x.asid = (s.cx.readX b).toNat)))) ∧
     (fld (s.cx.readX b) 16 48 ≠ 0 → ∃ v, exec (.tlbinvAsid b) s = .next (trapped (.tlbinvAsid b) .illOperand v s))) ∧
   (∀ (a b : Reg) (s : State), issues (.tlbinvPage a b) s →
     (fld (s.cx.readX b) 16 48 = 0 → released s → exec (.tlbinvPage a b) s = .next (retired (.tlbinvPage a b)
       (s.dropXlates fun x => decide (bitOf x.pte 6 = false ∧ x.asid = (s.cx.readX b).toNat ∧
         x.page = (s.cx.readX a).toNat / 2 ^ (12 + 9 * x.level))))) ∧
     (fld (s.cx.readX b) 16 48 ≠ 0 → ∃ v, exec (.tlbinvPage a b) s = .next (trapped (.tlbinvPage a b) .illOperand v s))) ∧
   (∀ (a : Reg) (s : State), issues (.tlbinvGpage a) s → released s →
     exec (.tlbinvGpage a) s = .next (retired (.tlbinvGpage a)
       (s.dropXlates fun x => decide (x.page = (s.cx.readX a).toNat / 2 ^ (12 + 9 * x.level))))) ∧
   (∀ s : State, issues .tlbinvUser s → released s →
     exec .tlbinvUser s = .next (retired .tlbinvUser (s.dropXlates fun x => !bitOf x.pte 6))) ∧
   (∀ (s : State) (hit : Xlate → Bool),
     (∀ n, (s.dropXlates hit).core n = { s.core n with tlb := (s.core n).tlb.filter fun x => !hit x }) ∧
     (∀ n, (s.dropXlates hit).tower n = { s.tower n with tlb := (s.tower n).tlb.filter fun x => !hit x }) ∧
     (s.dropXlates hit).cx = s.cx ∧ (s.dropXlates hit).mem = s.mem ∧ (s.dropXlates hit).dev = s.dev)) ∧
  (∀ (m : Mods) (ack : Bool) (a b : Reg) (s : State) (i : Instr) (op : RangeOp) (lost waiting : Bool),
     ((i = .flush m ack a b ∧ op = .flush ∧ waiting = ack ∧ lost = true) ∨
       (i = .inval m ack a b ∧ op = .inval ∧ waiting = ack ∧ lost = true) ∨
       (i = .seal m a b ∧ op = .seal ∧ waiting = true ∧ lost = false)) →
     let va := s.cx.readX a
     let n := (s.cx.readX b).toNat
     issues i s →
     ((∀ w, s.cx.stall ≠ .walk w) →
       (n = 0 → exec i s = .next (retired i s)) ∧
       (n ≠ 0 → (2 ^ 40 < n ∨ 2 ^ 56 < va.toNat + n) → exec i s = .next (trapped i .illOperand va s)) ∧
       (∀ v, n ≠ 0 → n ≤ 2 ^ 40 → va.toNat + n ≤ 2 ^ 56 → s.walkMeets s.cx .g .load va n = .free → State.rangeWalk lost (n / 4096 + 2) va n s = .error v →
         exec i s = .next (trapped i .dataLost v s)) ∧
       (∀ t spans, n ≠ 0 → n ≤ 2 ^ 40 → va.toNat + n ≤ 2 ^ 56 → s.walkMeets s.cx .g .load va n = .free → State.rangeWalk lost (n / 4096 + 2) va n s = .ok (t, spans) →
         let u := { t with dev := { t.dev with
           nextWalk := t.dev.nextWalk + 1, walks := t.dev.walks ++ [⟨t.dev.nextWalk, t.cx.id, op, spans⟩] } }
         (waiting = false → exec i s = .next (retired i u)) ∧
         (waiting = true → exec i s = .next (u.upd fun c => { c with stall := .walk t.dev.nextWalk })))) ∧
     (∀ w, s.cx.stall = .walk w →
       (s.walksOut s.cx.id = false → exec i s = .next (retired i s)) ∧ (s.walksOut s.cx.id = true → waits i s))) ∧
  ((∀ (d a : Reg) (s : State), issues (.cavecfg d a) s →
     let w := s.cx.readX a
     (w ∉ ([0, 2, 4, 8, 12] : List Word) → exec (.cavecfg d a) s = .next (trapped (.cavecfg d a) .illOperand w s)) ∧
     (w ∈ ([0, 2, 4, 8, 12] : List Word) → s.cx.cavepart < w.toNat → s.caveRefuses s.cx.cavepart w.toNat = true →
       exec (.cavecfg d a) s = .next (trapped (.cavecfg d a) .cavePool w s)) ∧
     (w ∈ ([0, 2, 4, 8, 12] : List Word) → (s.cx.cavepart < w.toNat → s.caveRefuses s.cx.cavepart w.toNat = false) →
       s.caveBusy s.cx = true → waits (.cavecfg d a) s) ∧
     (w ∈ ([0, 2, 4, 8, 12] : List Word) → (s.cx.cavepart < w.toNat → s.caveRefuses s.cx.cavepart w.toNat = false) →
       s.caveBusy s.cx = false →
       ∃ n : BitVec 32, (w.toNat ≤ s.cx.cavepart → n = 0) ∧ n.toNat ≤ (w.toNat - s.cx.cavepart) * 98304 ∧
         exec (.cavecfg d a) s = .next (retired (.cavecfg d a) (State.upd { s with free := s.free + 1 } fun c =>
           { c with
             cavepart := w.toNat, caveWb := n, caveLost := false, cave := c.cave.filter fun b => b.1 < w.toNat * 12582912,
             caveTags := c.caveTags.filter fun b => 128 * b.1 < w.toNat * 12582912 }.writeX d (n.setWidth 64))))) ∧
   (∀ (d a : Reg) (s : State), issues (.cavewb d a) s →
     let w := s.cx.readX a
     (w ∉ ([0, 2, 4, 8, 12] : List Word) → exec (.cavewb d a) s = .next (trapped (.cavewb d a) .illOperand w s)) ∧
     (w ∈ ([0, 2, 4, 8, 12] : List Word) →
       ∃ n : BitVec 32, (w.toNat ≤ s.cx.cavepart → n = 0) ∧ n.toNat ≤ (w.toNat - s.cx.cavepart) * 98304 ∧
         exec (.cavewb d a) s =
           .next (retired (.cavewb d a) (State.upd { s with free := s.free + 1 } fun c => c.writeX d (n.setWidth 64))))))

/-! ### Vectors (R4, R110 to R186) -/

/-- R117, R118, R121, R131: vtype sets the image, vl = CAP and vstart = 0 and writes CAP to x(d), or raises ILL_OPERAND when the shape
holds more than a brick; vlset makes vl the smaller of x(a) and CAP; quire writes its descriptor, base and, in the S form,
strides, after its checks; and sscale copies between a scale register and the first 128 bytes of a brick.
R131: the memory forms of sscale load and store the 128 bytes at x(a) plus 128 times the displacement, an address that is no
multiple of 128 raising ALIGN.
R4, R71, R115, R153: an element is active when it lies from START to vl − 1, its bit of the guard predicate is set, or clear under
gn, and its bit of the mask stack's top is set; the active elements are processed in ascending order, each once.
That the memory forms of sscale are performed at their issue is the model's choice (log 1, log 16). -/
def Obligations.VectorConfigurationIsSet : Prop :=
  ((∀ (m : Mods) (d : Reg) (img : BitVec 24) (s : State), issues (.vtype m d img) s →
     let vt : Word := img.setWidth 64
     let cap := 2 ^ fld vt 4 3 * 2 ^ fld vt 7 3 * 2 ^ fld vt 10 3
     let sew := (Fmt.ofCode (img.extractLsb' 0 4)).sew
     (cap * sew ≤ 16384 → exec (.vtype m d img) s = .next (retired (.vtype m d img)
       (s.upd fun c => { c with vtype := vt, vl := BitVec.ofNat 64 cap, vstart := 0 }.writeX d (BitVec.ofNat 64 cap)))) ∧
     (16384 < cap * sew → exec (.vtype m d img) s = .next (trapped (.vtype m d img) .illOperand (Instr.vtype m d img).tval s))) ∧
   (∀ (m : Mods) (d a : Reg) (s : State), issues (.vlset m d a) s →
     let cap := 2 ^ fld s.cx.vtype 4 3 * 2 ^ fld s.cx.vtype 7 3 * 2 ^ fld s.cx.vtype 10 3
     let vl : Word := BitVec.ofNat 64 (min (s.cx.readX a).toNat cap)
     exec (.vlset m d a) s = .next (retired (.vlset m d a) (s.upd fun c => { c with vl := vl }.writeX d vl))) ∧
   (∀ w0 w1 w2 : BitVec 32, w0.extractLsb' 2 8 = 0x41 → w0.extractLsb' 0 2 ≠ 3 →
     ((w0.extractLsb' 0 2 = 2 ∨ w0.extractLsb' 28 4 ≠ 0) → decode w0 w1 w2 = .error .illOp) ∧
     (∀ i, decode w0 w1 w2 = .ok i → w0.extractLsb' 0 2 ≠ 2 ∧ w0.extractLsb' 28 4 = 0 ∧ w0.extractLsb' 22 6 = 0 ∧
       ∃ m, i = .vlset m (w0.extractLsb' 10 6) (w0.extractLsb' 16 6)) ∧
     (w0.extractLsb' 0 2 = 0 → w0.extractLsb' 28 4 = 0 → w0.extractLsb' 22 6 = 0 →
       decode w0 w1 w2 = .ok (.vlset {} (w0.extractLsb' 10 6) (w0.extractLsb' 16 6)))) ∧
   (∀ (m : Mods) (n a b c : Reg) (s : State), issues (.quire m n a b c) s →
     let q : Fin 4 := Fin.ofNat 4 n.toNat
     let D := s.cx.readX a
     (fld D 33 31 = 0 → (m.form = .s → bitOf (s.cx.readX c) 63 = false) → s.cx.qdescTrap q D = none →
       exec (.quire m n a b c) s = .next (retired (.quire m n a b c) (s.upd fun y => { y with
         qdesc := y.qdesc.set q D, qbase := y.qbase.set q (s.cx.readX b),
         qstride := if m.form = .s then y.qstride.set q (s.cx.readX c) else y.qstride }))) ∧
     (fld D 33 31 ≠ 0 → exec (.quire m n a b c) s = .next (trapped (.quire m n a b c) .illEnc D s)) ∧
     (fld D 33 31 = 0 → (m.form = .s → bitOf (s.cx.readX c) 63 = false) → ∀ e, s.cx.qdescTrap q D = some e →
       exec (.quire m n a b c) s = .next (trapped (.quire m n a b c) e D s))) ∧
   (∀ (m : Mods) (d a : Reg) (s : State), issues (.sscaleFromBrick m d a) s →
     ∃ v : Scale, exec (.sscaleFromBrick m d a) s = .next (retired (.sscaleFromBrick m d a)
         (s.upd fun c => { c with sc := c.sc.set (Fin.ofNat 8 d.toNat) v })) ∧
       ∀ k < 1024, v.getLsbD k = (s.cx.v[a.toNat]).getLsbD k) ∧
   (∀ (m : Mods) (d a : Reg) (s : State), issues (.sscaleToBrick m d a) s →
     ∃ v : Brick, exec (.sscaleToBrick m d a) s = .next (retired (.sscaleToBrick m d a)
         (s.upd fun c => { c with v := c.v.set d.toNat v })) ∧
       ∀ k < 16384, v.getLsbD k =
         if k < 1024 then (s.cx.sc[Fin.ofNat 8 a.toNat]).getLsbD k else (s.cx.v[d.toNat]).getLsbD k)) ∧
  ((∀ (m : Mods) (d a : Reg) (sp : Space) (disp : BitVec 8) (s t : State) (v : Nat), issues (.sscaleLoad m d a sp disp) s →
     let va := s.cx.readX a + BitVec.ofInt 64 (128 * disp.toInt)
     (va.toNat % 128 ≠ 0 → exec (.sscaleLoad m d a sp disp) s = .next (trapped (.sscaleLoad m d a sp disp) .align va s)) ∧
     (va.toNat % 128 = 0 → loads s .l1 .sector sp va 128 t v →
       exec (.sscaleLoad m d a sp disp) s = .next (retired (.sscaleLoad m d a sp disp)
         (t.upd fun c => { c with sc := c.sc.set (Fin.ofNat 8 d.toNat) (BitVec.ofNat 1024 v) })))) ∧
   (∀ (m : Mods) (d a : Reg) (sp : Space) (disp : BitVec 8) (s t : State) (p : Place), issues (.sscaleStore m d a sp disp) s →
     let va := s.cx.readX a + BitVec.ofInt 64 (128 * disp.toInt)
     (va.toNat % 128 ≠ 0 → exec (.sscaleStore m d a sp disp) s = .next (trapped (.sscaleStore m d a sp disp) .align va s)) ∧
     (va.toNat % 128 = 0 → canonical t → stores s { num := some s.cx.stores } sp va 128 t p →
       ∃ u, exec (.sscaleStore m d a sp disp) s =
           .next (retired (.sscaleStore m d a sp disp) (u.upd fun c => { c with stores := c.stores + 1 })) ∧
         storesBytes t u p 128 (s.cx.sc[Fin.ofNat 8 d.toNat]).toNat))) ∧
  (∀ (c : Ctx) (m : Mods),
     (∀ e, e ∈ c.elems m ↔ fld c.vstart 0 12 ≤ e ∧ e < c.vl.toNat ∧ ((c.readP m.g).getLsbD e != m.gn) = true ∧
       (∀ T, c.mask.head? = some T → T.getLsbD e = true) ∧ (c.mask = [] → e < 4096)) ∧
     (c.elems m).Pairwise (· < ·))

/-- R120 to R125: what a source operand reads at an offset. With no offset, its own element. A register in no quire is a quire of one
whose faces give 0. In a quire the coordinates run through its bricks, and beyond a face the policy decides: 0 zero, 1 the
nearest element, 2 the element round the other side, 3 the element in memory, 4 the constant, 5 HALO unless a substitute is armed, which is then read once. -/
def Obligations.OffsetReadsFollowTheQuire : Prop :=
  (∀ (s : State) (i : Instr) (k : Nat) (r : Reg) (e : Nat), s.opnd i k r {} e = .ok (s.cx.el r e, s)) ∧
  (∀ (s : State) (i : Instr) (k : Nat) (r : Reg) (o : Off) (e : Nat), o ≠ {} →
    let c := s.cx
    let q := c.quireOf r.toNat
    let D : Word := match q with | some n => c.qdesc[n] | none => 0
    let base := match q with | some _ => fld D 0 6 | none => r.toNat
    let nx := 2 ^ fld D 6 2
    let ny := 2 ^ fld D 8 2
    let nz := 2 ^ fld D 10 2
    let bx := 2 ^ fld c.vtype 4 3
    let by_ := 2 ^ fld c.vtype 7 3
    let bz := 2 ^ fld c.vtype 10 3
    let at_ := r.toNat - base
    let X : Int := (at_ % nx * bx + e % bx : Nat) + o.x.toInt
    let Y : Int := (at_ / nx % ny * by_ + e / bx % by_ : Nat) + o.y.toInt
    let Z : Int := (at_ / (nx * ny) * bz + e / (bx * by_) : Nat) + o.z.toInt
    let cell (x y z : Nat) : Nat :=
      elemAt (c.v.toList.getD (base + x / bx + nx * (y / by_ + ny * (z / bz))) 0) c.fmt.sew
        (x % bx + bx * (y % by_ + by_ * (z % bz)))
    let insideX := 0 ≤ X ∧ X < (nx * bx : Nat)
    let insideY := 0 ≤ Y ∧ Y < (ny * by_ : Nat)
    let insideZ := 0 ≤ Z ∧ Z < (nz * bz : Nat)
    (insideX → insideY → insideZ → s.opnd i k r o e = .ok (cell X.toNat Y.toNat Z.toNat, s)) ∧
    (q = none → ¬ (insideX ∧ insideY ∧ insideZ) → s.opnd i k r o e = .ok (0, s)) ∧
    let exits (f : Nat) : Prop :=
      (¬ insideX ∧ (X < 0 ∧ f = 0 ∨ 0 ≤ X ∧ f = 1)) ∨ (insideX ∧ ¬ insideY ∧ (Y < 0 ∧ f = 2 ∨ 0 ≤ Y ∧ f = 3)) ∨
      (insideX ∧ insideY ∧ ¬ insideZ ∧ (Z < 0 ∧ f = 4 ∨ 0 ≤ Z ∧ f = 5))
    (∀ n face, q = some n → exits face →
      let policy := fld D (12 + 3 * face) 3
      let lim (v : Int) (len : Nat) : Nat := (max 0 (min v (len - 1))).toNat
      let va := c.qbase[n] + BitVec.ofInt 64 (X * strideOf c.qstride[n] 0 + Y * strideOf c.qstride[n] 1 + Z * strideOf c.qstride[n] 2)
      (policy = 0 → s.opnd i k r o e = .ok (0, s)) ∧
      (policy = 1 → s.opnd i k r o e = .ok (cell (lim X (nx * bx)) (lim Y (ny * by_)) (lim Z (nz * bz)), s)) ∧
      (policy = 2 → s.opnd i k r o e =
        .ok (cell (X % (nx * bx : Nat)).toNat (Y % (ny * by_ : Nat)).toNat (Z % (nz * bz : Nat)).toNat, s)) ∧
      (policy = 3 → c.fmt.sew ≠ 4 →
        (va.toNat % (c.fmt.sew / 8) ≠ 0 → s.opnd i k r o e = .error (.trap .align va s)) ∧
        (∀ t v, va.toNat % (c.fmt.sew / 8) = 0 → loads s .l1 .sector ((Space.of (D.extractLsb' 30 2)).getD .g) va (c.fmt.sew / 8) t v →
          s.opnd i k r o e = .ok (v, t))) ∧
      (policy = 4 → s.opnd i k r o e = .ok (c.qbase[n].toNat % 2 ^ c.fmt.sew, s)) ∧
      (policy = 5 → c.harm = true → bitOf c.vstart 63 = true →
        ∃ t, s.opnd i k r o e = .ok (c.vhalo.toNat % 2 ^ c.fmt.sew, t) ∧ bitOf t.cx.vstart 63 = false) ∧
      (policy = 5 → (c.harm = false ∨ bitOf c.vstart 63 = false) →
        ∃ v, s.opnd i k r o e = .error (.trap .halo v s) ∧ fld v 0 6 = face ∧ fld v 14 2 = n.val ∧
          (k < 3 → fld v 6 8 = k))))

/-- R157 to R161: what the vector integer instructions write to each active element of v(d), on the integer formats, and and, or, xor
and the logical shifts on every format; results wrap at the element's width, vsadd and vssub saturate.
R162 to R166: vdot adds the products of sew/ssew neighbouring elements and the old element and saturates; vcmp writes a bit for
each active element; vsel takes a or b by p(c); vbcast writes the low bits of x(a) or the literal; vid the element's index or
coordinate.
R129, R357: a vector instruction may stand still between two elements, and an instruction that is to stand still before element `k` does
so when an active element lies there: vadd has written every active element below, none from there on, START names where it goes
on, and the pc stays.
Where an instruction stands still is the model's choice (log 14). -/
def Obligations.VectorIntegerLanes : Prop :=
  (lane2 .vadd Fmt.isInt (fun f x y v => v = (x + y) % 2 ^ f.sew) ∧
   lane2 .vsub Fmt.isInt (fun f x y v => (v : Int) = ((x : Int) - y) % 2 ^ f.sew) ∧
   lane2 .vand (fun _ => true) (fun _ x y v => ∀ k, v.testBit k = (x.testBit k && y.testBit k)) ∧
   lane2 .vor (fun _ => true) (fun _ x y v => ∀ k, v.testBit k = (x.testBit k || y.testBit k)) ∧
   lane2 .vxor (fun _ => true) (fun _ x y v => ∀ k, v.testBit k = (x.testBit k != y.testBit k)) ∧
   lane2 .vshl (fun _ => true) (fun f x y v => v = x * 2 ^ (y % f.sew) % 2 ^ f.sew) ∧
   lane2 .vshr (fun _ => true) (fun f x y v => v = x / 2 ^ (y % f.sew)) ∧
   lane2 .vsra Fmt.isInt (fun f x y v => intOf true f.sew v = intOf true f.sew x / 2 ^ (y % f.sew)) ∧
   lane2 .vmin Fmt.isInt (fun f x y v => intOf f.signed f.sew v = min (intOf f.signed f.sew x) (intOf f.signed f.sew y)) ∧
   lane2 .vmax Fmt.isInt (fun f x y v => intOf f.signed f.sew v = max (intOf f.signed f.sew x) (intOf f.signed f.sew y)) ∧
   lane2 .vmul Fmt.isInt (fun f x y v => v = x * y % 2 ^ f.sew) ∧
   lane2 .vmulh Fmt.isInt (fun f x y v =>
     intOf f.signed f.sew v = intOf f.signed f.sew x * intOf f.signed f.sew y / 2 ^ f.sew) ∧
   lane2 .vsadd Fmt.isInt (fun f x y v => intOf f.signed f.sew v =
     max (if f.signed then -2 ^ (f.sew - 1) else 0) (min (if f.signed then 2 ^ (f.sew - 1) - 1 else 2 ^ f.sew - 1)
       (intOf f.signed f.sew x + intOf f.signed f.sew y))) ∧
   lane2 .vssub Fmt.isInt (fun f x y v => intOf f.signed f.sew v =
     max (if f.signed then -2 ^ (f.sew - 1) else 0) (min (if f.signed then 2 ^ (f.sew - 1) - 1 else 2 ^ f.sew - 1)
       (intOf f.signed f.sew x - intOf f.signed f.sew y)))) ∧
  ((∀ (m : Mods) (d a b : Reg) (sf : Fmt) (s : State), issues (.vdot m d a b sf) s →
     (s.cx.fmt.isInt = true → sf.isInt = true → 16 ≤ s.cx.fmt.sew → sf.sew < s.cx.fmt.sew →
       lanes (.vdot m d a b sf) s m d fun e v =>
         let f := s.cx.fmt
         let n := f.sew / sf.sew
         let term (j : Nat) : Int := intOf sf.signed sf.sew (elemAt s.cx.v[a.toNat] sf.sew (n * e + j)) *
           intOf sf.signed sf.sew (elemAt s.cx.v[b.toNat] sf.sew (n * e + j))
         intOf f.signed f.sew v =
           max (if f.signed then -2 ^ (f.sew - 1) else 0) (min (if f.signed then 2 ^ (f.sew - 1) - 1 else 2 ^ f.sew - 1)
             (intOf f.signed f.sew (s.cx.el d e) + ((List.range n).map term).sum))) ∧
     ((s.cx.fmt.isInt = false ∨ sf.isInt = false ∨ s.cx.fmt.sew < 16 ∨ s.cx.fmt.sew ≤ sf.sew) →
       exec (.vdot m d a b sf) s = .next (trapped (.vdot m d a b sf) .illOperand (Instr.vdot m d a b sf).tval s))) ∧
   (∀ (m : Mods) (d a b : Reg) (cc : ICc) (s : State) (x y : Nat → Nat), issues (.vcmp m d a b cc) s → s.cx.fmt.isInt = true →
     reads s (.vcmp m d a b cc) m 0 a m.oa x → reads s (.vcmp m d a b cc) m 1 b m.ob y →
     lanesP (.vcmp m d a b cc) s m d (fun e =>
       let A := intOf s.cx.fmt.signed s.cx.fmt.sew (x e)
       let B := intOf s.cx.fmt.signed s.cx.fmt.sew (y e)
       match cc with
       | .eq => decide (A = B)
       | .ne => decide (A ≠ B)
       | .lt => decide (A < B)
       | .le => decide (A ≤ B)
       | .gt => decide (A > B)
       | .ge => decide (A ≥ B)) (fun _ => 0)) ∧
   (∀ (m : Mods) (d a b c : Reg) (s : State) (x y : Nat → Nat), issues (.vsel m d a b c) s →
     s.cx.offsetClash d [(a, m.oa), (b, m.ob)] = false →
     reads s (.vsel m d a b c) m 0 a m.oa x → reads s (.vsel m d a b c) m 1 b m.ob y →
     lanes (.vsel m d a b c) s m d fun e v => v = if (s.cx.readP c).getLsbD e then x e else y e) ∧
   (∀ (m : Mods) (d : Reg) (a : Src) (s : State), issues (.vbcast m d a) s →
     lanes (.vbcast m d a) s m d fun _ v => v = (s.cx.src a).toNat % 2 ^ s.cx.fmt.sew) ∧
   (∀ (m : Mods) (d : Reg) (ax : Axis) (s : State), issues (.vid m d ax) s →
     lanes (.vid m d ax) s m d fun e v =>
       let bx := 2 ^ fld s.cx.vtype 4 3
       let by_ := 2 ^ fld s.cx.vtype 7 3
       v = (match ax with
         | .e => e
         | .x => e % bx
         | .y => e / bx % by_
         | .z => e / (bx * by_)) % 2 ^ s.cx.fmt.sew)) ∧
  (∀ (m : Mods) (d a b : Reg) (s t : State) (k : Nat), issues (.vadd m d a b) s → s.cx.fmt.isInt = true → m.oa = {} → m.ob = {} →
     (∃ e ∈ s.cx.elems m, k ≤ e) → exec (.vadd m d a b) { s with cut := some k } = .next t →
     t.cx.pc = s.cx.pc ∧ t.cx.start = max (fld s.cx.vstart 0 12) k ∧ t.cx.stall ≠ .none ∧
     (∀ e ∈ s.cx.elems m, e < k → e < vlmax s.cx.fmt.sew →
       t.cx.el d e = (s.cx.el a e + s.cx.el b e) % 2 ^ s.cx.fmt.sew) ∧
     (∀ e, (e ∉ s.cx.elems m ∨ k ≤ e) → t.cx.el d e = s.cx.el d e) ∧
     ∀ r : Fin 64, r.val ≠ d.toNat → t.cx.v[r] = s.cx.v[r])

/-- R167, R168: mpush puts the AND of the top and p(a) on the stack, mpop takes the top away, minv replaces it by what the entry below
has and it lacks, and mtop reads it, all ones when the stack is empty; a push on 16 entries is MASK_OVF and a pop or an
inversion of none MASK_UNF, with the depth. -/
def Obligations.MaskStackPushesAndPops : Prop :=
  (∀ (m : Mods) (a : Reg) (s : State), issues (.mpush m a) s →
    (s.cx.mask.length < 16 → exec (.mpush m a) s = .next (retired (.mpush m a)
      (s.upd fun c => { c with mask := (s.cx.mask.headD (BitVec.allOnes 4096) &&& s.cx.readP a) :: c.mask }))) ∧
    (16 ≤ s.cx.mask.length →
      exec (.mpush m a) s = .next (trapped (.mpush m a) .maskOvf (BitVec.ofNat 64 s.cx.mask.length) s))) ∧
  (∀ (m : Mods) (T : Pred) (rest : List Pred) (s : State), s.cx.mask = T :: rest →
    (issues (.mpop m) s → exec (.mpop m) s = .next (retired (.mpop m) (s.upd fun c => { c with mask := rest }))) ∧
    (issues (.minv m) s → exec (.minv m) s = .next (retired (.minv m)
      (s.upd fun c => { c with mask := (rest.headD (BitVec.allOnes 4096) &&& ~~~T) :: rest })))) ∧
  (∀ (m : Mods) (s : State), s.cx.mask = [] →
    (issues (.mpop m) s → exec (.mpop m) s = .next (trapped (.mpop m) .maskUnf 0 s)) ∧
    (issues (.minv m) s → exec (.minv m) s = .next (trapped (.minv m) .maskUnf 0 s))) ∧
  (∀ (m : Mods) (d : Reg) (s : State), issues (.mtop m d) s →
    exec (.mtop m d) s =
      .next (retired (.mtop m d) (s.upd fun c => c.writeP d (s.cx.mask.headD (BitVec.allOnes 4096)))))

/-- R179 to R181: vfetch opens a block of one VP for each active element, whose vend must lie at its target, ahead of it; with no active
element the pc goes past the vend; the vend ends the VP that runs, the next one starts at the first instruction, and after the
last one vstart is 0 and lock-step code goes on after the vend. A block that a trap holds while a handler opens one of its own is put
aside and comes back when that one ends (R182, R353). A target that is not ahead, or holds no vend, is
ILL_OPERAND.
That VPs run one after the other, and that the vend is looked at when vfetch issues, are the model's choices (log 7, log
27). -/
def Obligations.VpBlocksRunEachElement : Prop :=
  (∀ (m : Mods) (disp : BitVec 32) (ordered : Bool) (s t : State) (i : Instr), issues i s →
    (i = .vfetch m disp ∧ ordered = false ∨ i = .vfetchOrd m disp ∧ ordered = true) →
    let last := s.cx.pc + BitVec.ofInt 64 (4 * disp.toInt)
    let first := s.cx.pc + BitVec.ofNat 64 (4 * m.form.words)
    (disp.toInt ≤ 0 → exec i s = .next (trapped i .illOperand last s)) ∧
    (∀ w, 0 < disp.toInt → s.wordMeets last = none → s.fetchWord last = .ok (t, w) → w ≠ 0x154 → exec i s = .next (trapped i .illOperand last t)) ∧
    (0 < disp.toInt → s.wordMeets last = none → s.fetchWord last = .ok (t, 0x154) →
      (s.cx.elems m = [] → ∃ u, exec i s = .next u ∧ u.cx.pc = last + 4 ∧ u.cx.vstart = 0 ∧ u.cx.vp = t.cx.vp ∧
        u.cx.x = s.cx.x ∧ u.cx.v = s.cx.v ∧ u.mem = t.mem) ∧
      (∀ e es, s.cx.elems m = e :: es → ∃ u b, exec i s = .next u ∧ u.cx.pc = first ∧ u.cx.vp = some b ∧ b.first = first ∧
        b.last = last ∧ b.ordered = ordered ∧ b.vps = e :: es ∧ b.cur = e ∧ b.todo = es ∧ b.count = 0 ∧ b.held = 0 ∧
        u.cx.vpOut = s.cx.vp.toList ++ s.cx.vpOut ∧
        u.cx.x = s.cx.x ∧ u.cx.v = s.cx.v ∧ u.mem = t.mem))) ∧
  (∀ (s : State) (b : VpBlock), issues .vend s → s.cx.vp = some b → b.held = 0 → s.cx.harm = false →
    (∀ e es, b.todo = e :: es → exec .vend s = .next (s.upd fun c => { c with
      vp := some { b with cur := e, todo := es, count := 0 }, pc := b.first, prev := c.pc, stall := .none })) ∧
    (b.todo = [] → exec .vend s = .next (s.upd fun c => { c with
      vp := c.vpOut.head?, vpOut := c.vpOut.tail, vstart := 0, pc := b.last + 4, prev := c.pc, stall := .none }))) ∧
  (∀ s : State, issues .vend s → s.cx.vp = none → ∃ v, exec .vend s = .next (trapped .vend .illOperand v s))

/-- R169 to R171, R174: the floating-point instructions round the exact sum, difference, product, quotient, fused product and root
once, in the mode of the instruction or, for code 7, of frm, and gather the flags of every element in fflags. On the integer
formats, and where d lies in the quire of a source read at an offset, they raise ILL_OPERAND with their words, and so do vfsgn
and, on the integer formats, vfcmp.
R172, R173: vfsgn takes the magnitude of a with the sign of b, its opposite, or the product of the signs; vfcmp compares the values
and writes a bit, NV for a signalling NaN, and for lt, le, gt and ge for any NaN. -/
def Obligations.VectorFloatLanes : Prop :=
  ((∀ rm, float2 (fun m d a b => .vfadd m d a b rm) rm true addVal) ∧
   (∀ rm, float2 (fun m d a b => .vfsub m d a b rm) rm true (fun r x y => addVal r x y.negate)) ∧
   (∀ rm, float2 (fun m d a b => .vfmul m d a b rm) rm true (fun _ x y => mulVal x y)) ∧
   (∀ rm, float2 (fun m d a b => .vfdiv m d a b rm) rm true (fun _ x y => divVal x y)) ∧
   float2 .vfmin .rne false (fun _ x y => minVal x y) ∧
   float2 .vfmax .rne false (fun _ x y => maxVal x y) ∧
   (∀ (m : Mods) (d a b c : Reg) (rm : Rm) (s : State) (neg : Bool) (i : Instr) (x y z : Nat → Nat) (X Y Z : Nat → Val), issues i s →
     (i = .vfma m d a b c rm ∧ neg = false ∨ i = .vfnma m d a b c rm ∧ neg = true) → s.cx.fmt.isInt = false →
     s.cx.offsetClash d [(a, m.oa), (b, m.ob), (c, m.oc)] = false →
     reads s i m 0 a m.oa x → reads s i m 1 b m.ob y → reads s i m 2 c m.oc z →
     values s m 0 x true X → values s m 1 y true Y → values s m 2 z false Z →
     lanesF i s m d fun e =>
       rounded s.cx rm (fmaVal (rmPlain s.cx.frm rm) (if neg then (X e).negate else X e) (Y e) (Z e))) ∧
   (∀ (m : Mods) (d a : Reg) (rm : Rm) (s : State) (x : Nat → Nat) (X : Nat → Val), issues (.vfsqrt m d a rm) s →
     s.cx.fmt.isInt = false → s.cx.offsetClash d [(a, m.oa)] = false → reads s (.vfsqrt m d a rm) m 0 a m.oa x →
     values s m 0 x true X → lanesF (.vfsqrt m d a rm) s m d fun e => rounded s.cx rm (sqrtVal (X e))) ∧
   (∀ (m : Mods) (d a b c : Reg) (rm : Rm) (v : SgnOp) (cc : FCc) (i : Instr) (srcs : List (Reg × Off)) (s : State), issues i s →
     (((i = .vfma m d a b c rm ∨ i = .vfnma m d a b c rm) ∧ srcs = [(a, m.oa), (b, m.ob), (c, m.oc)]) ∨
       (i = .vfsqrt m d a rm ∧ srcs = [(a, m.oa)]) ∨ (i = .vfsgn m d a b v ∧ srcs = [(a, m.oa), (b, m.ob)]) ∨
       (i = .vfcmp m d a b cc ∧ srcs = [])) →
     (s.cx.fmt.isInt = true ∨ s.cx.offsetClash d srcs = true) → exec i s = .next (trapped i .illOperand i.tval s))) ∧
  ((∀ (m : Mods) (d a b : Reg) (v : SgnOp) (s : State) (x y : Nat → Nat) (X Y : Nat → Val), issues (.vfsgn m d a b v) s →
     s.cx.fmt.isInt = false → s.cx.offsetClash d [(a, m.oa), (b, m.ob)] = false →
     reads s (.vfsgn m d a b v) m 0 a m.oa x → reads s (.vfsgn m d a b v) m 1 b m.ob y →
     values s m 0 x false X → values s m 1 y false Y →
     lanes (.vfsgn m d a b v) s m d fun e z =>
       let w := s.cx.fmt.sew - 1
       z % 2 ^ w = x e % 2 ^ w ∧
       (z.testBit w = true ↔
         (match v with
           | .cp => (y e).testBit w
           | .neg => !(y e).testBit w
           | .xor => (x e).testBit w != (y e).testBit w) = true ∧
         ¬ (x e % 2 ^ w = 0 ∧ (s.cx.fmt = .m8 ∨ s.cx.fmt = .m4)))) ∧
   (∀ (m : Mods) (d a b : Reg) (cc : FCc) (s : State) (x y : Nat → Nat) (X Y : Nat → Val), issues (.vfcmp m d a b cc) s →
     s.cx.fmt.isInt = false → reads s (.vfcmp m d a b cc) m 0 a m.oa x → reads s (.vfcmp m d a b cc) m 1 b m.ob y →
     values s m 0 x false X → values s m 1 y false Y →
     lanesP (.vfcmp m d a b cc) s m d
       (fun e =>
         let o := cmpVal (X e) (Y e)
         match cc with
         | .eq => o == some .eq
         | .ne => o != some .eq
         | .lt => o == some .lt
         | .le => o == some .lt || o == some .eq
         | .gt => o == some .gt
         | .ge => o == some .gt || o == some .eq
         | .un => o == none
         | .or => o != none)
       (fun e =>
         let loud := decide (cc = .lt ∨ cc = .le ∨ cc = .gt ∨ cc = .ge)
         if (X e).sig || (Y e).sig || (loud && cmpVal (X e) (Y e) == none) then flNV else 0)) ∧
   (∀ (s t : Bool) (p q : Frac), p.den ≠ 0 → q.den ≠ 0 →
     cmpVal (.num s p) (.num t q) =
       some (if ratOf p < ratOf q then .lt else if ratOf q < ratOf p then .gt else .eq)))

/-- R133 to R137: the exact values behind the rounding. The code of a number, a zero or an infinity is what its value rounds to, in
every mode and with no flag, in every floating-point format; and sums, products, quotients and fused products of numbers are
the exact rationals; a square root compares with every multiple of 2^−k as the exact one does, for a k far below the formats' steps
(R174); and the minimum and the maximum take one of the two values, −0 below +0, the other operand for one NaN (R170). A sum of two zeros of negative sign is −0, and any other sum that is exactly zero is −0 under RDN and +0
otherwise (R136).
That the third rule of R136 holds for two zeros of positive sign too is the model's reading (log 24). -/
def Obligations.ExactValuesBehindRounding : Prop :=
  (∀ (f : Fmt) (rm : Rm) (r v : Nat), f.isInt = false → v < 2 ^ f.sew → (fmtVal f v).isNan = false → fmtVal f v ≠ .nar →
    encodeVal f rm r (fmtVal f v) = (v, 0)) ∧
  (∀ (rm : Rm) (s t : Bool) (p q : Frac), p.den ≠ 0 → q.den ≠ 0 →
    (∃ n u, addVal rm (.num s p) (.num t q) = (.num n u, 0) ∧ ratOf u = ratOf p + ratOf q ∧
      (ratOf p + ratOf q ≠ 0 → n = decide (ratOf p + ratOf q < 0)) ∧
      (ratOf p + ratOf q = 0 → n = (if p.num = 0 ∧ q.num = 0 ∧ s = true ∧ t = true then true else decide (rm = .rdn)))) ∧
    (∃ u, mulVal (.num s p) (.num t q) = (.num (s != t) u, 0) ∧ ratOf u = ratOf p * ratOf q) ∧
    (q.num ≠ 0 → ∃ u, divVal (.num s p) (.num t q) = (.num (s != t) u, 0) ∧ ratOf u = ratOf p / ratOf q) ∧
    (q.num = 0 → p.num ≠ 0 → divVal (.num s p) (.num t q) = (.inf (s != t), flDZ)) ∧
    (q.num = 0 → p.num = 0 → divVal (.num s p) (.num t q) = (.nan false, flNV))) ∧
  (∀ (rm : Rm) (a b c : Bool) (p q w : Frac), p.den ≠ 0 → q.den ≠ 0 → w.den ≠ 0 →
    ∃ n u, fmaVal rm (.num a p) (.num b q) (.num c w) = (.num n u, 0) ∧ ratOf u = ratOf p * ratOf q + ratOf w) ∧
  (∀ (s : Bool) (p : Frac), p.den ≠ 0 →
    (p.num = 0 → ∃ u, sqrtVal (.num s p) = (.num s u, 0) ∧ ratOf u = 0) ∧
    (p.num ≠ 0 → s = true → sqrtVal (.num s p) = (.nan false, flNV)) ∧
    (0 < p.num → s = false → ∃ (u : Frac) (k : Nat), sqrtVal (.num s p) = (.num false u, 0) ∧ u.den ≠ 0 ∧ 400 + Nat.log2 p.den ≤ k ∧
      ∀ j : Nat, (ratOf u < (j : ℚ) / 2 ^ k ↔ ratOf p < ((j : ℚ) / 2 ^ k) ^ 2) ∧
        ((j : ℚ) / 2 ^ k < ratOf u ↔ ((j : ℚ) / 2 ^ k) ^ 2 < ratOf p))) ∧
  (∀ (s t : Bool) (p q : Frac), p.den ≠ 0 → q.den ≠ 0 →
    minVal (.num s p) (.num t q) =
      (if ratOf p < ratOf q ∨ ratOf p = ratOf q ∧ s = true then .num s p else .num t q, 0) ∧
    maxVal (.num s p) (.num t q) =
      (if ratOf q < ratOf p ∨ ratOf p = ratOf q ∧ s = false then .num s p else .num t q, 0)) ∧
  (∀ v : Val, v.isNan = false → v ≠ .nar →
    minVal (.inf true) v = (.inf true, 0) ∧ minVal v (.inf true) = (.inf true, 0) ∧
    minVal (.inf false) v = (v, 0) ∧ minVal v (.inf false) = (v, 0) ∧
    maxVal (.inf false) v = (.inf false, 0) ∧ maxVal v (.inf false) = (.inf false, 0) ∧
    maxVal (.inf true) v = (v, 0) ∧ maxVal v (.inf true) = (v, 0)) ∧
  (∀ (x y : Bool) (v : Val), v.isNan = false →
    minVal (.nan x) v = (v, if x then flNV else 0) ∧ minVal v (.nan x) = (v, if x then flNV else 0) ∧
    maxVal (.nan x) v = (v, if x then flNV else 0) ∧ maxVal v (.nan x) = (v, if x then flNV else 0) ∧
    minVal (.nan x) (.nan y) = (.nan false, if x || y then flNV else 0) ∧
    maxVal (.nan x) (.nan y) = (.nan false, if x || y then flNV else 0))

/-- R140, R143: what a number that is not zero rounds to in a floating-point format. Where the format reaches its magnitude: a value of
the format with no other between the two, itself without a flag, else inexact; towards zero, −∞ or +∞ as the mode says; under RNE the
nearest, on a tie the one with the even fraction field and, where both are even, the smaller magnitude; under RSR, into bf16, f16, M8
and M4, the upper neighbour exactly when r/2^32 lies below its share of the way. UF comes with code 0 of an M format, and of an IEEE
format never at or above the smallest normal magnitude. Beyond the format: the largest magnitude with OF and NX for an M format; for an
IEEE format, infinity or the largest magnitude as the mode has it, RSR as RNE. And which mode a field names (R76, R132). -/
def Obligations.RoundingChoosesANeighbour : Prop :=
  (∀ (f : Fmt) (rm : Rm) (r : Nat) (q : Frac), f.isInt = false → rm ≠ .dyn → q.den ≠ 0 → q.num ≠ 0 →
    let Q := ratOf q
    let out := encodeVal f rm r (.num (decide (q.num < 0)) q)
    ((∃ c y, finite f c y ∧ |Q| ≤ |y|) → ∃ x, finite f out.1 x ∧
      (∀ c y, finite f c y → ¬ (min Q x < y ∧ y < max Q x)) ∧ (x = Q → out.2 = 0) ∧
      (x ≠ Q → out.2 = flNX ∨ out.2 = flUF ||| flNX) ∧
      (x ≠ Q → ∀ k d, mKind f = some (k, d) → (out.2 = flUF ||| flNX ↔ x = 0)) ∧
      (x ≠ Q → ∀ p eb, ieee f = some (p, eb) → (2 : ℚ) ^ (2 - 2 ^ (eb - 1) : Int) ≤ |Q| → out.2 = flNX) ∧
      (rm = .rtz → |x| ≤ |Q|) ∧ (rm = .rdn → x ≤ Q) ∧ (rm = .rup → Q ≤ x) ∧
      (rm = .rne → ∀ c y, finite f c y → |Q - x| ≤ |Q - y| ∧
        (y ≠ x → |Q - x| = |Q - y| → evenField f out.1 ∧ (evenField f c → |x| < |y|))) ∧
      (rm = .rsr → (f = .bf16 ∨ f = .f16 ∨ f = .m8 ∨ f = .m4) → ∀ c c' lo hi, finite f c lo → finite f c' hi → lo < Q → Q < hi →
        (∀ e y, finite f e y → ¬ (lo < y ∧ y < hi)) → (x = hi ↔ (r : ℚ) / 2 ^ 32 < (Q - lo) / (hi - lo)))) ∧
    ((∀ c y, finite f c y → |y| < |Q|) →
      let largest : Prop := ∃ x, finite f out.1 x ∧ (0 < x ↔ 0 < Q) ∧ ∀ c y, finite f c y → |y| ≤ |x|
      (∀ k d, mKind f = some (k, d) → largest ∧ out.2 = flOF ||| flNX) ∧
      (∀ p eb, ieee f = some (p, eb) →
        let top : ℚ := 2 ^ 2 ^ (eb - 1)
        let away : Prop := (rm = .rup ∧ 0 < Q) ∨ (rm = .rdn ∧ Q < 0) ∨ ((rm = .rne ∨ rm = .rsr) ∧ top * (1 - 1 / 2 ^ (p + 2)) ≤ |Q|)
        (away → fmtVal f out.1 = .inf (decide (q.num < 0)) ∧ out.2 = flOF ||| flNX) ∧
        (¬ away → largest ∧ out.2 = if top ≤ |Q| then flOF ||| flNX else flNX)))) ∧
  (∀ (frm : Word) (m : Rm), (m ≠ .dyn → rmOf frm m = m) ∧
    (fld frm 0 3 = 0 → rmOf frm .dyn = .rne) ∧ (fld frm 0 3 = 1 → rmOf frm .dyn = .rup) ∧ (fld frm 0 3 = 2 → rmOf frm .dyn = .rdn) ∧
    (fld frm 0 3 = 3 → rmOf frm .dyn = .rtz) ∧ (fld frm 0 3 = 4 → rmOf frm .dyn = .rsr) ∧
    rmPlain frm m = if rmOf frm m = .rsr then .rne else rmOf frm m)

/-- R175, R176: vcvt converts each active element from the source format, read from a group of bricks; vpack takes the lower half of
CAP from a and the upper from b, and vunpack one half of a; each value is rounded once, saturated or marked as the formats
say.
R146, R177, R178: the special functions round their value RNE on f32 and bf16 and raise ILL_OPERAND elsewhere; vrand writes the
random word of key x(a) and counter x(b) + K + e, and its uniform form the top 24 bits as a fraction of 2^24.
The element order of a conversion in place, vunpack into f16 and the evaluation of the special functions are the model's
reading (log 12, log 28, log 42). -/
def Obligations.ConversionsAndSpecialFunctions : Prop :=
  ((∀ (m : Mods) (d a : Reg) (sf : Fmt) (rm : Rm) (s : State) (X : Nat → Val), issues (.vcvt m d a sf rm) s →
     let src (e : Nat) : Nat := elemAt (s.cx.v.toList.getD (a.toNat + e * sf.sew / 16384) 0) sf.sew (e % vlmax sf.sew)
     let g := (s.cx.cap - 1) * sf.sew / 16384 + 1
     (a.toNat + g ≤ 64 →
       (d.toNat < a.toNat ∨ a.toNat + g ≤ d.toNat ∨ (d = a ∧ g = 1 ∧ s.cx.fmt.sew ≤ sf.sew)) →
       (∀ e ∈ s.cx.elems m, s.numeric 0 sf (src e) e (s.cx.scaleOf 0) = .ok (X e) ∧ e < s.cx.cap) →
       lanesF (.vcvt m d a sf rm) s m d fun e =>
         convVal sf s.cx.fmt (s.cx.scaleOf 0).isSome (rmOf s.cx.frm rm)
           ((rndG s.cx.srkey (s.cx.srbase + BitVec.ofNat 64 e)).toNat / 2 ^ 32) (X e)) ∧
     ((64 < a.toNat + g ∨ (a.toNat ≤ d.toNat ∧ d.toNat < a.toNat + g ∧ ¬ (d = a ∧ g = 1))) →
       ∃ v, exec (.vcvt m d a sf rm) s = .next (trapped (.vcvt m d a sf rm) .illOperand v s))) ∧
   (∀ (m : Mods) (d a b : Reg) (rm : Rm) (s : State) (sf : Fmt) (X : Nat → Val), issues (.vpack m d a b rm) s →
     packPartner s.cx.fmt = some sf → d ≠ a → d ≠ b →
     (∀ e ∈ s.cx.elems m,
       (e < s.cx.cap / 2 → s.numeric 0 sf (elemAt s.cx.v[a.toNat] sf.sew e) e none = .ok (X e)) ∧
       (s.cx.cap / 2 ≤ e → s.numeric 1 sf (elemAt s.cx.v[b.toNat] sf.sew (e - s.cx.cap / 2)) e none = .ok (X e))) →
     lanesF (.vpack m d a b rm) s m d fun e =>
       convVal sf s.cx.fmt false (rmOf s.cx.frm rm) ((rndG s.cx.srkey (s.cx.srbase + BitVec.ofNat 64 e)).toNat / 2 ^ 32) (X e)) ∧
   (∀ (m : Mods) (d a : Reg) (half bf : Bool) (rm : Rm) (s : State) (sf : Fmt) (X : Nat → Val),
     issues (.vunpack m d a half bf rm) s → (bf = true → s.cx.fmt = .f32) → unpackPartner bf s.cx.fmt = some sf → d ≠ a →
     (∀ e ∈ s.cx.elems m,
       s.numeric 0 sf (elemAt s.cx.v[a.toNat] sf.sew (e + if half then s.cx.cap / 2 else 0)) e none = .ok (X e)) →
     lanesF (.vunpack m d a half bf rm) s m d fun e =>
       convVal sf s.cx.fmt false (rmOf s.cx.frm rm) ((rndG s.cx.srkey (s.cx.srbase + BitVec.ofNat 64 e)).toNat / 2 ^ 32) (X e))) ∧
  (special1 .vexp2 .exp2 ∧ special1 .vlog2 .log2 ∧ special1 .vrcp .rcp ∧ special1 .vrsqrt .rsqrt ∧
   special1 .vsinpi .sinpi ∧ special1 .vcospi .cospi ∧ special1 .vtanh .tanh ∧ special1 .vsigm .sigm ∧
   (∀ (m : Mods) (d a b : Reg) (k : BitVec 32) (s : State), issues (.vrand m d a b k) s →
     lanes (.vrand m d a b k) s m d fun e v =>
       v = (rndG (s.cx.readX a) (s.cx.readX b + k.signExtend 64 + BitVec.ofNat 64 e)).toNat % 2 ^ s.cx.fmt.sew) ∧
   (∀ (m : Mods) (d a b : Reg) (k : BitVec 32) (s : State), issues (.vrandU m d a b k) s →
     (s.cx.fmt = .f16 ∨ s.cx.fmt = .bf16 ∨ s.cx.fmt = .f32 ∨ s.cx.fmt = .f64) →
     lanesF (.vrandU m d a b k) s m d fun e => encodeVal s.cx.fmt .rne 0 (.of
       ⟨(rndG (s.cx.readX a) (s.cx.readX b + k.signExtend 64 + BitVec.ofNat 64 e)).toNat / 2 ^ 40, 2 ^ 24⟩)))

/-- R216 to R220: vld, vldro, vlds and vldx load each active element in ascending order from its address: contiguous, by the strides
of x(b), or by the index group of v(b). Under a watermark an element waits for its index (R287): the instruction then stands still
before it, with what came before done, and goes on when the index is there; the element acquires at device scope, and the rest of its
16-byte chunk is read as it is (R300). A size other than the element's, an index group that reaches beyond v63 or holds d, and a
stride register with bit 63 set are ILL_OPERAND.
That a load is performed at its issue, that QUEUE_UNBOUND comes before the elements, and what the rind path returns are the
model's choices (log 1, log 16, log 35, log 69). -/
def Obligations.VectorLoadsFillEachElement : Prop :=
  (∀ (m : Mods) (d a : Reg) (sz : VSize) (sp : Space) (disp : BitVec 32) (s t : State), issues (.vld m d a sz sp none disp) s →
    (vsizeBits sz = s.cx.fmt.sew → along (fun u e w => loadsElem .l1 (chunkOf s m (contiguousAddr s m a disp) u e) sp (contiguousAddr s m a disp) d u e w)
        (s.cx.elems m) s t →
      exec (.vld m d a sz sp none disp) s =
        .next (retired (.vld m d a sz sp none disp) (t.upd fun c => { c with vstart := 0 }))) ∧
    (vsizeBits sz ≠ s.cx.fmt.sew →
      exec (.vld m d a sz sp none disp) s = .next (trapped (.vld m d a sz sp none disp) .illOperand
        (Instr.tval (.vld m d a sz sp none disp)) s))) ∧
  (∀ (m : Mods) (d a b k : Reg) (sz : VSize) (sp : Space) (w64 : Bool) (sh : BitVec 3) (disp : BitVec 32) (s : State) (i : Instr),
    (i = .vld m d a sz sp (some k) disp ∨ i = .vldro m d a sz disp ∨ i = .vlds m d a b sz sp disp ∨ i = .vldx m d a b sz sp w64 sh) →
    issues i s → vsizeBits sz ≠ s.cx.fmt.sew → exec i s = .next (trapped i .illOperand i.tval s)) ∧
  (∀ (m : Mods) (d a k : Reg) (sz : VSize) (sp : Space) (disp : BitVec 32) (s t : State),
    issues (.vld m d a sz sp (some k) disp) s → vsizeBits sz = s.cx.fmt.sew →
    (s.wmAllowed k.toNat false = true →
      along (loadsUnder s m a k sp disp d) (s.cx.elems m) s t →
      exec (.vld m d a sz sp (some k) disp) s =
        .next (retired (.vld m d a sz sp (some k) disp) (t.upd fun c => { c with vstart := 0 }))) ∧
    (s.wmAllowed k.toNat false = true → ∀ l e r, s.cx.elems m = l ++ e :: r → along (loadsUnder s m a k sp disp d) l s t →
      (t.wm k.toNat).waits (contiguousAddr s m a disp e) = true →
      ∃ u, exec (.vld m d a sz sp (some k) disp) s = .next u ∧ u.cx.pc = s.cx.pc ∧ u.cx.stall ≠ .none ∧
        s.cx.start ≤ u.cx.start ∧ u.cx.start ≤ e) ∧
    (s.wmAllowed k.toNat false = false → exec (.vld m d a sz sp (some k) disp) s =
      .next (trapped (.vld m d a sz sp (some k) disp) .queueUnbound (k.setWidth 64) s))) ∧
  (∀ (m : Mods) (d a : Reg) (sz : VSize) (disp : BitVec 32) (s t : State), issues (.vldro m d a sz disp) s →
    vsizeBits sz = s.cx.fmt.sew → along (fun u e w => loadsElem .rind (chunkOf s m (contiguousAddr s m a disp) u e) .g (contiguousAddr s m a disp) d u e w)
      (s.cx.elems m) s t →
    exec (.vldro m d a sz disp) s = .next (retired (.vldro m d a sz disp) (t.upd fun c => { c with vstart := 0 }))) ∧
  (∀ (m : Mods) (d a b : Reg) (sz : VSize) (sp : Space) (disp : BitVec 32) (s t : State), issues (.vlds m d a b sz sp disp) s →
    vsizeBits sz = s.cx.fmt.sew →
    (bitOf (s.cx.readX b) 63 = false → along (loadsElem .l1 .sector sp (stridedAddr s m a b disp) d) (s.cx.elems m) s t →
      exec (.vlds m d a b sz sp disp) s =
        .next (retired (.vlds m d a b sz sp disp) (t.upd fun c => { c with vstart := 0 }))) ∧
    (bitOf (s.cx.readX b) 63 = true → exec (.vlds m d a b sz sp disp) s =
      .next (trapped (.vlds m d a b sz sp disp) .illOperand (s.cx.readX b) s))) ∧
  (∀ (m : Mods) (d a b : Reg) (sz : VSize) (sp : Space) (w64 : Bool) (sh : BitVec 3) (s t : State),
    let i : Instr := .vldx m d a b sz sp w64 sh
    let apart := d.toNat < b.toNat ∨ b.toNat + ((s.cx.cap - 1) * (if w64 then 64 else 32) / 16384 + 1) ≤ d.toNat
    issues i s → vsizeBits sz = s.cx.fmt.sew →
    (groupFits s b w64 → apart → along (loadsElem .l1 .sector sp (indexedAddr s a b w64 sh) d) (s.cx.elems m) s t →
      exec i s = .next (retired i (t.upd fun c => { c with vstart := 0 }))) ∧
    (¬ groupFits s b w64 ∨ ¬ apart → exec i s = .next (trapped i .illOperand i.tval s)))

/-- R216 to R220: vst, vstu, vsts and vstx store each active element of v(d) in ascending order to its address. A size other than the
element's, an index group that reaches beyond v63, and a stride register with bit 63 set are ILL_OPERAND.
R218, R219, R296, R299: a write of vst or vsts that follows a waiting one of the same instruction waits too, and no waiting write is
performed before one that leads it: an earlier one of its issuer on one of its bytes, or an earlier one of its ordered vector store.
What a write of bytes at a place, and a vector store, leave alone: the written bytes read as written and every byte outside the
places of the elements reads as before, but for what the translations of the elements set in page tables.
R221: vscadd checks each active element's address in order and sends one update for each address, the sum of the elements that
name it in ascending order, each step rounded on a floating-point format; the update stays out until the home slice performs it. A rounding field on an integer format is
ILL_ENC, and a format it does not take, and an index group that reaches beyond v63, ILL_OPERAND.
That a store that nothing holds back is performed at its issue is the model's choice (log 1, log 16). -/
def Obligations.VectorStoresWriteEachElement : Prop :=
  ((∀ (m : Mods) (d a : Reg) (sz : VSize) (sp : Space) (disp : BitVec 32) (s t : State) (i : Instr),
     (i = .vst m d a sz sp disp ∨ i = .vstu m d a sz sp disp) → issues i s →
     (vsizeBits sz = s.cx.fmt.sew →
       along (storesElem s.cx.stores (decide (i = .vst m d a sz sp disp)) true sp (contiguousAddr s m a disp) d) (s.cx.elems m) s t →
       exec i s = .next (retired i (t.upd fun c => { c with vstart := 0, stores := c.stores + 1 }))) ∧
     (vsizeBits sz ≠ s.cx.fmt.sew → exec i s = .next (trapped i .illOperand i.tval s))) ∧
   (∀ (m : Mods) (d a b : Reg) (sz : VSize) (sp : Space) (w64 : Bool) (sh : BitVec 3) (disp : BitVec 32) (s : State) (i : Instr),
     (i = .vsts m d a b sz sp disp ∨ i = .vstx m d a b sz sp w64 sh) → issues i s →
     (vsizeBits sz ≠ s.cx.fmt.sew → exec i s = .next (trapped i .illOperand i.tval s)) ∧
     (vsizeBits sz = s.cx.fmt.sew → i = .vsts m d a b sz sp disp → bitOf (s.cx.readX b) 63 = true →
       exec i s = .next (trapped i .illOperand (s.cx.readX b) s)) ∧
     (vsizeBits sz = s.cx.fmt.sew → i = .vstx m d a b sz sp w64 sh → ¬ groupFits s b w64 →
       exec i s = .next (trapped i .illOperand i.tval s))) ∧
   (∀ (m : Mods) (d a b : Reg) (sz : VSize) (sp : Space) (disp : BitVec 32) (s t : State), issues (.vsts m d a b sz sp disp) s →
     vsizeBits sz = s.cx.fmt.sew → bitOf (s.cx.readX b) 63 = false →
     along (storesElem s.cx.stores true false sp (stridedAddr s m a b disp) d) (s.cx.elems m) s t →
     exec (.vsts m d a b sz sp disp) s =
       .next (retired (.vsts m d a b sz sp disp) (t.upd fun c => { c with vstart := 0, stores := c.stores + 1 }))) ∧
   (∀ (m : Mods) (d a b : Reg) (sz : VSize) (sp : Space) (w64 : Bool) (sh : BitVec 3) (s t : State),
     issues (.vstx m d a b sz sp w64 sh) s → vsizeBits sz = s.cx.fmt.sew → groupFits s b w64 →
     along (storesElem s.cx.stores false false sp (indexedAddr s a b w64 sh) d) (s.cx.elems m) s t →
     exec (.vstx m d a b sz sp w64 sh) s =
       .next (retired (.vstx m d a b sz sp w64 sh) (t.upd fun c => { c with vstart := 0, stores := c.stores + 1 })))) ∧
  ((∀ (s : State) (k : Nat) (chunk : Bool) (va : Word) (ls : List Loc) (bs : List (Byte × Byte)) (e : Pend),
     let w : Parts := { num := some k, ordered := true, chunk := chunk }
     e ∈ s.pend → e.part = some (s.cx.id, k) → s.writeBlocked w (.g ls) bs.length = false → s.rowMeets (some s.cx) (.g ls) = .free →
     ∃ l, s.issueWrite w va (.g ls) bs = .ok { s with pend := l } ∧ (l.map Pend.locs).flatten =
       (s.pend.map Pend.locs).flatten ++ ls.map fun l => (l.pa, l.pos)) ∧
   (∀ (s : State) (n k : Nat) (e f : Pend), k < n → s.pend[k]? = some f → s.pend[n]? = some e → f.leads e = true →
     exec (.storePerform n) s = .next s ∧ exec (.vscaddUpdate n) s = .next s ∧ exec (.mflushAddition n) s = .next s) ∧
   (∀ e f : Pend, (e.ordered = true → e.part ≠ none → f.part = e.part → f.leads e = true) ∧
     (f.owner = e.owner → f.space = e.space → (∃ a, a ∈ f.locs.map Prod.snd ∧ a ∈ e.locs.map Prod.snd) → f.leads e = true))) ∧
  ((∀ (t : State) (p : Place) (n v : Nat), canonical t → (∀ ls, p = .g ls → ls.length = n ∧ (ls.map Loc.pos).Nodup) →
     storesBytes t (t.putPlace p (whole n v)) p n v) ∧
   (∀ (s t : State) (k : Nat) (ordered chunk : Bool) (sp : Space) (addr : Nat → Word) (d : Reg) (es : List Nat) (a : Nat), canonical s →
     along (fun u e w => ∃ x p, storesElem k ordered chunk sp addr d u e w ∧
       u.resolve u.cx sp .store (addr e) (max 1 (u.cx.fmt.sew / 8)) = .ok (x, p) ∧ x.mem.byte a = u.mem.byte a ∧
       ∀ ls, p = .g ls → a ∉ ls.map Loc.pos) es s t →
     t.mem.byte a = s.mem.byte a ∧ t.cx.x = s.cx.x ∧ t.cx.p = s.cx.p ∧ t.cx.v = s.cx.v)) ∧
  (∀ (m : Mods) (d a b : Reg) (rm : Rm) (sp : Space) (w64 : Bool) (sh : BitVec 3) (s : State),
     let i : Instr := .vscadd m d a b rm sp w64 sh
     let f := s.cx.fmt
     let taken := f = .i32 ∨ f = .n32 ∨ f = .i64 ∨ f = .n64 ∨ f = .f16 ∨ f = .bf16 ∨ f = .f32 ∨ f = .f64
     issues i s →
     (¬ taken → exec i s = .next (trapped i .illOperand i.tval s)) ∧
     (taken → f.isInt = true → rm ≠ .rne → exec i s = .next (trapped i .illEnc i.tval s)) ∧
     (taken → (f.isInt = true → rm = .rne) → ¬ groupFits s b w64 → exec i s = .next (trapped i .illOperand i.tval s)) ∧
     (taken → (f.isInt = true → rm = .rne) → groupFits s b w64 →
       ∀ places : Nat → Place, (∀ e ∈ s.cx.elems m, s.scaddPlace sp (indexedAddr s a b w64 sh e) (f.sew / 8) = .ok (places e, s)) →
         ∃ us : List Pend, exec i s = .next (retired i (State.upd { s with pend := s.pend ++ us } fun c => { c with vstart := 0 })) ∧
           us.length = ((s.cx.elems m).map (indexedAddr s a b w64 sh)).dedup.length ∧
           (∀ u ∈ us, ∃ e ∈ s.cx.elems m, ∃ v, u = .update s.cx.id sp ((places e).updatePairs (f.sew / 8)) f (rmPlain s.cx.frm rm) v) ∧
           (f.isInt = true → ∀ e ∈ s.cx.elems m, ∃ e' ∈ s.cx.elems m, ∃ v,
             indexedAddr s a b w64 sh e' = indexedAddr s a b w64 sh e ∧
             .update s.cx.id sp ((places e').updatePairs (f.sew / 8)) f (rmPlain s.cx.frm rm) v ∈ us ∧
             v.toNat = (((s.cx.elems m).filter fun j => indexedAddr s a b w64 sh j = indexedAddr s a b w64 sh e).map
               fun j => s.cx.el d j).sum % 2 ^ f.sew) ∧
           (f.isInt = false → ∀ e ∈ s.cx.elems m, ∃ e' ∈ s.cx.elems m,
             let xs := ((s.cx.elems m).filter fun j => indexedAddr s a b w64 sh j = indexedAddr s a b w64 sh e).map fun j => s.cx.el d j
             let mode := rmPlain s.cx.frm rm
             let sum := xs.tail.foldl (fun acc y => (encodeVal f mode 0 (addVal mode (fmtVal f acc) (fmtVal f y)).1).1) (xs.headD 0)
             indexedAddr s a b w64 sh e' = indexedAddr s a b w64 sh e ∧
             .update s.cx.id sp ((places e').updatePairs (f.sew / 8)) f mode (BitVec.ofNat 64 sum) ∈ us)))

/-- R184, R186: vperm takes element v(b)[e] of a, 0 beyond vl; vrot rotates by x(b); vxget and vxput move one element; vcompress packs
the active elements of a upwards from element 0 and vexpand spreads them, vred counting; with vl = 0 nothing is written (R130). A d that is a source is ILL_OPERAND.
That R130 keeps vred as it is where vl = 0 is the model's reading (log 44). -/
def Obligations.SpineMovesElements : Prop :=
  (∀ (m : Mods) (d a b : Reg) (s : State), issues (.vperm m d a b) s →
    (d ≠ a → d ≠ b → lanes (.vperm m d a b) s m d fun e v =>
      v = if s.cx.el b e < s.cx.vl.toNat then s.cx.el a (s.cx.el b e) else 0) ∧
    ((d = a ∨ d = b) → ∃ v, exec (.vperm m d a b) s = .next (trapped (.vperm m d a b) .illOperand v s))) ∧
  (∀ (m : Mods) (d a b : Reg) (s : State), issues (.vrot m d a b) s →
    (d ≠ a → lanes (.vrot m d a b) s m d fun e v => v = s.cx.el a ((e + (s.cx.readX b).toNat) % s.cx.vl.toNat)) ∧
    (d = a → ∃ v, exec (.vrot m d a b) s = .next (trapped (.vrot m d a b) .illOperand v s))) ∧
  (∀ (m : Mods) (d a b : Reg) (s : State), issues (.vxget m d a b) s → writesX (.vxget m d a b) s d fun v =>
    let k := (s.cx.readX b).toNat
    v.toInt = if s.cx.fmt.signed then intOf true s.cx.fmt.sew (if k < s.cx.vl.toNat then s.cx.el a k else 0)
      else (BitVec.ofNat 64 (if k < s.cx.vl.toNat then s.cx.el a k else 0)).toInt) ∧
  (∀ (m : Mods) (d a b : Reg) (s : State), issues (.vxput m d a b) s →
    ∃ u, exec (.vxput m d a b) s = .next (retired (.vxput m d a b) u) ∧ u = { s with cx := { s.cx with v := u.cx.v } } ∧
      (∀ k, k < vlmax s.cx.fmt.sew → u.cx.el d k = if k = (s.cx.readX b).toNat ∧ k < s.cx.vl.toNat
        then (s.cx.readX a).toNat % 2 ^ s.cx.fmt.sew else s.cx.el d k) ∧
      ∀ r : Fin 64, r.val ≠ d.toNat → u.cx.v[r] = s.cx.v[r]) ∧
  (∀ (m : Mods) (d a : Reg) (s : State), issues (.vcompress m d a) s → s.cx.start = 0 →
    let count : Word := if s.cx.vl.toNat = 0 then s.cx.vred else BitVec.ofNat 64 (s.cx.elems m).length
    (d ≠ a → ∃ u, exec (.vcompress m d a) s = .next (retired (.vcompress m d a) u) ∧
      u = { s with cx := { s.cx with v := u.cx.v, vred := count, vstart := 0 } } ∧
      (∀ k, k < vlmax s.cx.fmt.sew →
        u.cx.el d k = ((s.cx.elems m).map fun e => s.cx.el a e).getD k (s.cx.el d k)) ∧
      ∀ r : Fin 64, r.val ≠ d.toNat → u.cx.v[r] = s.cx.v[r]) ∧
    (d = a → ∃ v, exec (.vcompress m d a) s = .next (trapped (.vcompress m d a) .illOperand v s))) ∧
  (∀ (m : Mods) (d a : Reg) (s : State), issues (.vexpand m d a) s → s.cx.start = 0 →
    let count : Word := if s.cx.vl.toNat = 0 then s.cx.vred else BitVec.ofNat 64 (s.cx.elems m).length
    (d ≠ a → ∃ u, exec (.vexpand m d a) s = .next (retired (.vexpand m d a) u) ∧
      u = { s with cx := { s.cx with v := u.cx.v, vred := count, vstart := 0 } } ∧
      (∀ k e, (s.cx.elems m)[k]? = some e → e < vlmax s.cx.fmt.sew → u.cx.el d e = s.cx.el a k) ∧
      (∀ e, e ∉ s.cx.elems m → u.cx.el d e = s.cx.el d e) ∧
      ∀ r : Fin 64, r.val ≠ d.toNat → u.cx.v[r] = s.cx.v[r]) ∧
    (d = a → ∃ v, exec (.vexpand m d a) s = .next (trapped (.vexpand m d a) .illOperand v s)))

/-- R148, R149, R185, R130: the reductions fold the active elements in ascending order from element 0 of v(b), or, going on at a START
above 0, from vred, and leave the result in vred and element 0 of v(d); vscan writes each partial result. On an integer format the sum
wraps and min and max order as the format does; on a floating-point format each step is rounded once, min and max are exact, and the
flags of every step are gathered; vredsumu adds along some binary tree over the elements. With START 0 and no element to process, d
takes element 0 of b. With START at or above vl nothing is written. A rounding field on an integer format is ILL_ENC.
The initial value as operand b, what is left at START 0 with no element, and the tree of the unordered sum are the model's
choices (log 8, log 29, log 44). -/
def Obligations.ReductionsFoldTheElements : Prop :=
  (∀ (m : Mods) (d a b : Reg) (s : State), s.cx.start < s.cx.vl.toNat →
    let f := s.cx.fmt
    let A := (s.cx.elems m).map fun e => s.cx.el a e
    let b0 := if s.cx.start = 0 then s.cx.el b 0 else s.cx.vred.toNat % 2 ^ f.sew
    let ends (i : Instr) (r : Nat) (fl : Fl) : Prop := ∃ u, exec i s = .next (retired i u) ∧
      u = { s with
        cx := { s.cx with v := u.cx.v, vred := BitVec.ofNat 64 r, vstart := 0, fflags := s.cx.fflags ||| fl.setWidth 64 }
        free := u.free } ∧
      u.cx.el d 0 = r ∧ (∀ k, k ≠ 0 → u.cx.el d k = s.cx.el d k) ∧
      ∀ q : Fin 64, q.val ≠ d.toNat → u.cx.v[q] = s.cx.v[q]
    let scans (i : Instr) (part : Nat → Nat) (fl : Fl) : Prop := ∃ u, exec i s = .next (retired i u) ∧
      u.cx.vstart = 0 ∧ u.cx.vred = BitVec.ofNat 64 (part A.length) ∧ u.cx.fflags = s.cx.fflags ||| fl.setWidth 64 ∧
      (∀ k e, (s.cx.elems m)[k]? = some e → e < vlmax f.sew → u.cx.el d e = part (k + 1)) ∧
      ∀ e, e ∉ s.cx.elems m → u.cx.el d e = s.cx.el d e
    (f.isInt = true →
      (issues (.vredsum m d a b .rne) s → ends (.vredsum m d a b .rne) ((b0 + A.sum) % 2 ^ f.sew) 0) ∧
      (issues (.vredsumu m d a b .rne) s → ends (.vredsumu m d a b .rne) ((b0 + A.sum) % 2 ^ f.sew) 0) ∧
      (issues (.vredmax m d a b) s → ∃ r, ends (.vredmax m d a b) r 0 ∧ r ∈ b0 :: A ∧
        ∀ x ∈ b0 :: A, intOf f.signed f.sew x ≤ intOf f.signed f.sew r) ∧
      (issues (.vredmin m d a b) s → ∃ r, ends (.vredmin m d a b) r 0 ∧ r ∈ b0 :: A ∧
        ∀ x ∈ b0 :: A, intOf f.signed f.sew r ≤ intOf f.signed f.sew x) ∧
      (issues (.vscan m d a b .rne) s → scans (.vscan m d a b .rne) (fun k => (b0 + (A.take k).sum) % 2 ^ f.sew) 0) ∧
      (∀ (rm : Rm) (i : Instr), rm ≠ .rne → (i = .vredsum m d a b rm ∨ i = .vredsumu m d a b rm ∨ i = .vscan m d a b rm) →
        issues i s → exec i s = .next (trapped i .illEnc i.tval s))) ∧
    (f.isInt = false → ∀ rm : Rm,
      let sum (l : List Nat) : Nat × Fl := folded s.cx rm addVal b0 l
      let top (l : List Nat) : Nat × Fl := folded s.cx .rne (fun _ => maxVal) b0 l
      let low (l : List Nat) : Nat × Fl := folded s.cx .rne (fun _ => minVal) b0 l
      let fair (part : List Nat → Nat × Fl) : Prop :=
        ∀ k < A.length, fmtVal f (A.getD k 0) ≠ .nar ∧ fmtVal f (part (A.take k)).1 ≠ .nar
      (issues (.vredsum m d a b rm) s → fair sum → ends (.vredsum m d a b rm) (sum A).1 (sum A).2) ∧
      (issues (.vscan m d a b rm) s → fair sum → scans (.vscan m d a b rm) (fun k => (sum (A.take k)).1) (sum A).2) ∧
      (issues (.vredmax m d a b) s → fair top → ends (.vredmax m d a b) (top A).1 (top A).2) ∧
      (issues (.vredmin m d a b) s → fair low → ends (.vredmin m d a b) (low A).1 (low A).2) ∧
      (issues (.vredsumu m d a b rm) s → fmtVal f b0 ≠ .nar → (∀ x ∈ A, fmtVal f x ≠ .nar) →
        ∃ r fl, SumTree s.cx rm (b0 :: A) r fl ∧ ends (.vredsumu m d a b rm) r fl))) ∧
  (∀ (m : Mods) (d a b : Reg) (rm : Rm) (s : State) (i : Instr), s.cx.vl.toNat ≤ s.cx.start → (s.cx.fmt.isInt = true → rm = .rne) →
    (i = .vredsum m d a b rm ∨ i = .vredsumu m d a b rm ∨ i = .vscan m d a b rm ∨ i = .vredmax m d a b ∨ i = .vredmin m d a b) →
    issues i s → exec i s = .next (retired i (s.upd fun c => { c with vstart := 0 })))

/-! ### Rows and folios (R225 to R246) -/

/-- R239 to R244: fbind binds a handle to the folio that a token names, with the entry that the table of the tower holds; frel gives
it up and fseek moves it; rowact claims the layer of its group and opens it, after the waiting stores to the row, or waits
while the layer is not idle; rowclose closes it; rowstat and rowstat of a handle say where the layers and the handle stand.
A rowact that stalled after its claim makes no check again. The traps are those of R238 to R242; the entry is read as an
ordinary load reads it.
Which group a ROW_BUSY names, that fbind succeeds over a LOST group, and the order of the checks, are the model's reading
(log 45, log 46). -/
def Obligations.HandlesBindOpenAndClose : Prop :=
  (∀ (s : State) (m : Mods) (d a : Reg),
    let i : Instr := .fbind m d a
    let tok := s.cx.readX a
    let at_ := s.tw.foliotab.toNat + 64 * fld tok 0 12
    issues i s →
    ((fld tok 12 3 ≠ (towerOf s.cx.coreid).toNat ∨ fld tok 15 33 ≠ 0 ∨ s.tw.foliotab = 0) →
      exec i s = .next (trapped i .folioRange tok s)) ∧
    (fld tok 12 3 = (towerOf s.cx.coreid).toNat → fld tok 15 33 = 0 → s.tw.foliotab ≠ 0 →
      (s.physical at_ 64 = none → exec i s = .next (trapped i .dataAccess (BitVec.ofNat 64 at_) s)) ∧
      (∀ ls, s.physical at_ 64 = some ls → s.poisoned (.g ls) = true →
        exec i s = .next (trapped i .dataLost (BitVec.ofNat 64 at_) s)) ∧
      (∀ ls, s.physical at_ 64 = some ls → s.poisoned (.g ls) = false → s.peerFails (.g ls) = true →
        exec i s = .next (trapped i .dataAccess (BitVec.ofNat 64 at_) s)) ∧
      (at_ + 64 ≤ 2 ^ 39 → s.physical at_ 64 = some ((List.range 64).map fun k => ⟨at_ + k, at_ + k, false⟩)) ∧
      (∀ ls, s.physical at_ 64 = some ls → s.poisoned (.g ls) = false → s.peerFails (.g ls) = false →
        s.blocked s.cx (.g ls) 64 = false → s.layerWaits (some s.cx.coreid) (.g ls) = false →
        ∃ e : BitVec 512, (∀ k < 64, e.extractLsb' (8 * k) 8 = seenByte (settled s .l1 .sector (.g ls)) .l1 (.g ls) k) ∧
          let u := (s.loadPlace s.cx .l1 .sector (.g ls) 64).2
          (entryOk e tok (fld s.cx.ptbase 48 16) = false → exec i s = .next (trapped i .folioRange tok u)) ∧
          (entryOk e tok (fld s.cx.ptbase 48 16) = true → (s.cx.handle d).group.claim = none →
            exec i s = .next (retired i (u.upd fun c => c.setHandle d
              ⟨true, towerOf s.cx.coreid, BitVec.ofNat 12 (fld tok 0 12), e, 0, .none, none⟩))) ∧
          (entryOk e tok (fld s.cx.ptbase 48 16) = true → (s.cx.handle d).group.claim.isSome = true →
            ∃ v, exec i s = .next (trapped i .rowBusy v u))))) ∧
  (∀ (s : State) (m : Mods) (d : Reg), issues (.frel m d) s →
    ∃ t, exec (.frel m d) s = .next (retired (.frel m d) t) ∧ (t.cx.handle d).bound = false ∧ (t.cx.handle d).group.claim =
        (if (s.cx.handle d).bound then none else (s.cx.handle d).group.claim) ∧
      (∀ k : Fin 16, k ≠ hIdx d → t.cx.h[k] = s.cx.h[k]) ∧ t.cx.x = s.cx.x ∧ t.mem = s.mem) ∧
  (∀ (s : State) (m : Mods) (d a : Reg),
    let i : Instr := .fseek m d a
    let v := s.cx.readX a
    i.enc.op = 0xa4 ∧ i.enc.d = d ∧ i.enc.a = a ∧ (issues i s →
    (v.toNat % 2048 ≠ 0 → exec i s = .next (trapped i .align v s)) ∧
    (v.toNat % 2048 = 0 → (s.cx.handle d).bound = false → exec i s = .next (trapped i .folioRange (BitVec.allOnes 64) s)) ∧
    (v.toNat % 2048 = 0 → (s.cx.handle d).bound = true → entGroups (s.cx.handle d).entry * 16384 < v.toNat →
      exec i s = .next (trapped i .folioRange v s)) ∧
    (v.toNat % 2048 = 0 → (s.cx.handle d).bound = true → v.toNat ≤ entGroups (s.cx.handle d).entry * 16384 →
      exec i s = .next (retired i (s.upd fun c => c.setHandle d { s.cx.handle d with pos := v.toNat }))))) ∧
  (∀ (s : State) (m : Mods) (d a : Reg),
    let i : Instr := .rowact m d a
    let g := (s.cx.readX a).toNat
    let h := s.cx.handle d
    let y := layerOf h.entry g
    let row := rowIn h.entry g
    issues i s →
    (h.issuing = some (s.cx.pc, 0) →
      (∀ g', h.group = .claimed g' → ∃ t, exec i s = .next t ∧ t.cx.stall = .rowact ∧ t.cx.handle d = h) ∧
      ((∀ g', h.group ≠ .claimed g') →
        exec i s = .next (retired i (s.upd fun c => c.setHandle d { h with issuing := none })))) ∧
    (h.issuing ≠ some (s.cx.pc, 0) →
    (h.bound = false → exec i s = .next (trapped i .folioRange (BitVec.allOnes 64) s)) ∧
    (h.bound = true → (entCore h.entry ≠ columnOf s.cx.coreid ∨ entGroups h.entry ≤ g) →
      ∃ v, exec i s = .next (trapped i .folioRange v s)) ∧
    (h.bound = true → entCore h.entry = columnOf s.cx.coreid → g < entGroups h.entry →
      (h.group.claim.isSome = true ∨ (∃ x ∈ s.claims s.cx.coreid, x.layer = y) →
        ∃ v, exec i s = .next (trapped i .rowBusy v s)) ∧
      (h.group.claim = none → (∀ x ∈ s.claims s.cx.coreid, x.layer ≠ y) →
        (s.layer s.cx.coreid y = .idle →
          ∃ t, exec i s = .next (retired i t) ∧ t.cx.handle d = { h with group := .opening g, issuing := none } ∧
            (∀ k : Fin 16, k ≠ hIdx d → t.cx.h[k] = s.cx.h[k]) ∧ t.cx.x = s.cx.x ∧ t.cx.v = s.cx.v ∧
            (∀ e ∈ t.pend, (∃ l ∈ e.locs, onRow s.cx.coreid y row l = true) →
              e.space ≠ .g ∨ (∃ w leaf locs uc, e = .load w leaf locs uc) ∨ ∃ f ∈ t.pend, f.leads e = true) ∧
            (∀ e ∈ s.pend, (∀ l ∈ e.locs, onRow s.cx.coreid y row l = false) → e ∈ t.pend) ∧
            (∀ id va locs bs num o, s.pend = [.store id va locs bs num o] → locs.length = bs.length → locs ≠ [] →
              (∀ l ∈ locs, onRow s.cx.coreid y row l = true) →
              t.pend = [] ∧ t.mem = (s.writeLocs id locs bs).mem ∧ t.tags = (s.writeLocs id locs bs).tags)) ∧
        (s.layer s.cx.coreid y ≠ .idle →
          ∃ t, exec i s = .next t ∧ t.cx.stall = .rowact ∧ t.cx.pc = s.cx.pc ∧
            t.cx.handle d = { h with group := .claimed g, issuing := some (s.cx.pc, 0) }))))) ∧
  (∀ (s : State) (m : Mods) (d : Reg), issues (.rowclose m d) s →
    ∃ t, exec (.rowclose m d) s = .next (retired (.rowclose m d) t) ∧
      t.cx.handle d = { s.cx.handle d with group := .none, issuing := none } ∧ (∀ k : Fin 16, k ≠ hIdx d → t.cx.h[k] = s.cx.h[k]) ∧
      (∀ g, ((s.cx.handle d).group = .opening g ∨ (s.cx.handle d).group = .held g) →
        t.layer s.cx.coreid (layerOf (s.cx.handle d).entry g) = .pending) ∧ t.cx.x = s.cx.x ∧ t.mem = s.mem) ∧
  (∀ (s : State) (m : Mods) (d : Reg), issues (.rowstat m d) s → writesX (.rowstat m d) s d fun v =>
    ∀ k < 32, fld v (2 * k) 2 =
      match (s.claims s.cx.coreid).find? fun x => x.layer == k / 4 with
      | some x => if x.id = s.cx.id then 1 else 2
      | none => if s.layer s.cx.coreid (k / 4) = .idle then 0 else 3) ∧
  (∀ (s : State) (m : Mods) (d a : Reg), issues (.rowstatH m d a) s → writesX (.rowstatH m d a) s d fun v =>
    let h := s.cx.handle a
    (h.bound = false → v = 0) ∧
    (∀ g, h.bound = true → h.pos < 2 ^ 28 → g < 8192 →
      (bitOf v 3 = entWrite h.entry ∧ fld v 33 14 = entGroups h.entry ∧ fld v 47 17 = h.pos / 2048 ∧
        ((h.group = .none ∧ fld v 0 3 = 1) ∨ fld v 20 13 = g ∧
          ((h.group = .claimed g ∨ h.group = .opening g) ∧ fld v 0 3 = 2 ∨ h.group = .held g ∧ fld v 0 3 = 3 ∨
            h.group = .lost g ∧ fld v 0 3 = 4))) ∨
      (h.group ≠ .none ∧ h.group ≠ .claimed g ∧ h.group ≠ .opening g ∧ h.group ≠ .held g ∧ h.group ≠ .lost g)))

/-- R245: sld reads and sst writes the 2,048 bytes of the folio at the handle's position and moves it on; sst needs W of the entry;
a layer that another row holds is ROW_BUSY, the row of a claim is ROW_SELF for sst and read by sld, and the end of the folio
or another core's column is FOLIO_RANGE.
That sst and sld are performed at their issue is the model's choice (log 1); tval of DATA_LOST and ROW_BUSY are its reading
(log 45, log 64). -/
def Obligations.StreamsMoveABrick : Prop :=
  ∀ (s : State) (m : Mods) (d r : Reg) (base : Nat),
    let h := s.cx.handle r
    let g := h.pos / 16384
    let y := layerOf h.entry g
    let p := BitVec.ofNat 64 h.pos
    let claim := (s.claims s.cx.coreid).find? fun x => x.layer == y
    (∀ i : Instr, (i = .sld m d r ∨ i = .sst m d r) → issues i s →
      (h.bound = false → exec i s = .next (trapped i .folioRange (BitVec.allOnes 64) s)) ∧
      (h.bound = true → (entCore h.entry ≠ columnOf s.cx.coreid ∨ h.pos = entGroups h.entry * 16384) →
        exec i s = .next (trapped i .folioRange p s))) ∧
    (h.bound = true → entCore h.entry = columnOf s.cx.coreid → h.pos ≠ entGroups h.entry * 16384 →
      folioAddr h.tower.toNat h.entry h.pos = some base →
      (issues (.sld m d r) s →
        (∀ x, claim = some x → x.row ≠ rowIn h.entry g → ∃ v, exec (.sld m d r) s = .next (trapped (.sld m d r) .rowBusy v s)) ∧
        (s.poisoned (.g h.stream) = false → s.blocked s.cx (.g h.stream) 2048 = false →
          ∃ b : Brick, (∀ k < 2048, b.extractLsb' (8 * k) 8 = s.mem.byte (base + k)) ∧
            (claim = none → (s.layer s.cx.coreid y = .idle ∨ s.layer s.cx.coreid y = .streaming) →
              let t := s.setLayer s.cx.coreid y .streaming
              exec (.sld m d r) s = .next (retired (.sld m d r) ((t.loadPlace t.cx .cave (.chunk []) (.g h.stream) 2048).2.upd fun c =>
                { c.setHandle r { h with pos := h.pos + 2048 } with v := c.v.set d.toNat b }))) ∧
            (∀ x c g', claim = some x → x.row = rowIn h.entry g → s.ctx? x.id = some c → c.h[Fin.ofNat 16 x.h].group = .held g' →
              exec (.sld m d r) s = .next (retired (.sld m d r) ((s.loadPlace s.cx .cave (.chunk []) (.g h.stream) 2048).2.upd fun c =>
                { c.setHandle r { h with pos := h.pos + 2048 } with v := c.v.set d.toNat b })))) ∧
        (claim = none → (s.layer s.cx.coreid y = .idle ∨ s.layer s.cx.coreid y = .streaming) → s.poisoned (.g h.stream) = true →
          ∃ l ∈ h.stream, lineOf l.pos ∈ s.poison ∧
            exec (.sld m d r) s = .next (trapped (.sld m d r) .dataLost (BitVec.ofNat 64 l.pa) s))) ∧
      (issues (.sst m d r) s →
        (entWrite h.entry = false → exec (.sst m d r) s = .next (trapped (.sst m d r) .dataAccess p s)) ∧
        (entWrite h.entry = true →
          (∀ x, claim = some x → x.row = rowIn h.entry g →
            ∃ v, exec (.sst m d r) s = .next (trapped (.sst m d r) .rowSelf v s)) ∧
          (∀ x, claim = some x → x.row ≠ rowIn h.entry g →
            ∃ v, exec (.sst m d r) s = .next (trapped (.sst m d r) .rowBusy v s)) ∧
          (claim = none → (s.layer s.cx.coreid y = .idle ∨ s.layer s.cx.coreid y = .streaming) →
            s.blocked s.cx (.g h.stream) 2048 = false → canonical s →
            ∃ t, exec (.sst m d r) s = .next (retired (.sst m d r) t) ∧
              (∀ k < 2048, t.mem.byte (base + k) = s.cx.v[d.toNat].extractLsb' (8 * k) 8) ∧
              (∀ a, (a < base ∨ base + 2048 ≤ a) → t.mem.byte a = s.mem.byte a) ∧
              t.cx.handle r = { h with pos := h.pos + 2048 } ∧ t.cx.v = s.cx.v ∧ t.cx.x = s.cx.x ∧ t.cx.p = s.cx.p))))

/-- R231 to R236, R243, R245: the row controller's events. An activation that waited starts when its layer is idle; an open window's
end makes the group HELD and the hold limit makes it LOST and its layer close; a close starts when no queued matrix instruction
reads the layer and, when it ends, the layer is idle and the stores that waited for it are performed; a streamed group closes.
A relocation swaps an extent with a spare of its length and moves its data, and waits for the accesses in flight to it and for the
range walks in flight.
That a relocation is one step that handles follow is the model's choice (log 36, log 87), and so is that what waits for a
row is performed in the order of issue (log 16). -/
def Obligations.RowControllerMovesGroupsOn : Prop :=
  (∀ (s : State) (id g : Nat) (k : BitVec 4) (c : Ctx) (h : Handle), s.rowHandle id k = some (c, h) →
    (h.group = .claimed g → s.layer c.coreid (layerOf h.entry g) = .idle →
      ∃ t d, exec (.rowActivation id k) s = .next t ∧ t.ctx? id = some d ∧ d.h[k.toNat] = { h with group := .opening g }) ∧
    (h.group = .claimed g → s.layer c.coreid (layerOf h.entry g) ≠ .idle → exec (.rowActivation id k) s = .next s) ∧
    (h.group = .opening g →
      ∃ t d, exec (.rowOpenDone id k) s = .next t ∧ t.ctx? id = some d ∧ d.h[k.toNat] = { h with group := .held g } ∧
        t.mem = s.mem ∧ t.cx.x = s.cx.x) ∧
    (h.group = .held g →
      ∃ t d, exec (.rowHoldExpiry id k) s = .next t ∧ t.ctx? id = some d ∧ d.h[k.toNat] = { h with group := .lost g } ∧
        t.layer c.coreid (layerOf h.entry g) = .pending ∧ t.mem = s.mem)) ∧
  (∀ (s : State) (core : BitVec 12) (y : BitVec 3),
    (s.layer core y.toNat = .pending → (∀ q ∈ (s.core core).queue, q.readsLayer y.toNat = false) →
      exec (.rowClose core y) s = .next (s.setLayer core y.toNat .closing)) ∧
    (∀ q ∈ (s.core core).queue, q.readsLayer y.toNat = true → exec (.rowClose core y) s = .next s) ∧
    (s.layer core y.toNat = .closing → s.pend = [] → s.cleaning = [] →
      exec (.rowCloseDone core y) s = .next (s.setLayer core y.toNat .idle)) ∧
    (∀ id va locs bs num o, s.layer core y.toNat = .closing → s.pend = [.store id va locs bs num o] → locs ≠ [] → s.cleaning = [] →
      (∀ l ∈ locs, isDram l.2 = true ∧ isPeer l.1 = false ∧ (rowOf l.2).1 = core ∧ (rowOf l.2).2.1 = y.toNat) →
      (s.setLayer core y.toNat .idle).rowsLet id true locs = true →
      exec (.rowCloseDone core y) s = .next ((({ s with pend := [] }).setLayer core y.toNat .idle).writeLocs id locs bs)) ∧
    (s.layer core y.toNat = .streaming → exec (.streamGroupClose core y) s = .next (s.setLayer core y.toNat .idle))) ∧
  (∀ (s : State) (t : BitVec 3) (i : BitVec 12) (k : BitVec 3),
    let ft := (s.tower t).foliotab
    let e := s.folioEntry t i.toNat
    let x := entExt e k.toNat
    let y := entSpare e
    let at_ := ft.toNat + 64 * i.toNat
    let touches (l : Nat × Nat) : Bool :=
      (isAperture l.1 && (l.1 - 2 ^ 51) / 2 ^ 27 == t.toNat * 2 ^ 13 + i.toNat) ||
        inExtent t.toNat (entCore e) x l.2 || inExtent t.toNat (entCore e) y l.2
    ft ≠ 0 → entValid e = true → k.toNat < min 8 (entNext e) → y ≠ 0 →
    (∀ j < min 8 (entNext e), extRows (entExt e j) ≤ extRows y) → extRows x = extRows y → s.folioQuiet t i = true →
    (s.inFlightAt touches = true ∨ s.dev.walks ≠ [] → exec (.extentRelocation t i k) s = .next s) ∧
    (s.inFlightAt touches = false → s.dev.walks = [] → s.mem.wf = true → ∃ u, exec (.extentRelocation t i k) s = .next u ∧
      entExt (u.folioEntry t i.toNat) k.toNat = y ∧ entSpare (u.folioEntry t i.toNat) = x ∧
      (extLayer x ≠ extLayer y →
        (∀ r < extRows x, ∀ o < 16384, ∀ j < 64, rowAddr t.toNat (entCore e) (extLayer y) (extRow0 y + r) o ≠ at_ + j) →
        ∀ r < extRows x, ∀ o < 16384, u.mem.byte (rowAddr t.toNat (entCore e) (extLayer y) (extRow0 y + r) o) =
          s.mem.byte (rowAddr t.toNat (entCore e) (extLayer x) (extRow0 x + r) o))))

/-! ### The matrix engine (R247 to R262) -/

/-- R248, R250 to R252, R258, R260: mopa, mopa from a held group, mzero and mflush check their operands and go into the core's queue
with the operands as they are, and stall while four are in it; mzero takes a tile name, and waits for an mflush in the queue that
gives the tile back, as every instruction on the tile does; the marked form of mopa from rows takes the handle along, whose group
closes when it retires; a tile that is not held is VAT_NOTILE, a group that is not open ROW_CLOSED or ROW_LOST, a reserved code its
trap. mrd and mwr enter the queue too, behind what is in it, wait there for their turn, leave it when they retire, and move a slab
of a tile element by element. A place in the queue that an mrd or mwr of the context has left counts no more.
The order of the reserved codes is the model's reading (log 63); mrd and mwr take effect when they retire (log 6). -/
def Obligations.MatrixInstructionsQueueTheirWork : Prop :=
  (∀ (s : State) (q : MOp), q ∈ s.ahead ↔ q ∈ s.co.queue ∧ ∀ pc, q ≠ .move s.cx.id pc) ∧
  (∀ (s : State) (d : Reg), issues (.mzero d) s →
    (s.tileLeaves false d.toNat = true → waits (.mzero d) s) ∧
    (s.tileLeaves false d.toNat = false → s.cx.vatmap.getLsbD d.toNat = true → 4 ≤ s.ahead.length → waits (.mzero d) s)) ∧
  (∀ (s : State) (d : Reg), issues (.mzero d) s → s.ahead.length < 4 → s.tileLeaves false d.toNat = false →
    (s.cx.vatmap.getLsbD d.toNat = true ∨ (d.toNat < s.cx.vatn ∧ s.vatFree s.cx.coreid ≠ 0 ∧ s.vatCapped s.cx = false) →
      exec (.mzero d) s = .next (retired (.mzero d) { s with
        cx := { s.cx with vatmap := s.cx.vatmap ||| BitVec.ofNat 4 (2 ^ d.toNat) }
        co := { s.co with queue := s.ahead ++ [.mzero s.cx.id (d.setWidth 2)] } })) ∧
    (s.cx.vatmap.getLsbD d.toNat = false → (s.cx.vatn ≤ d.toNat ∨ s.vatFree s.cx.coreid = 0 ∨ s.vatCapped s.cx = true) →
      exec (.mzero d) s = .next (trapped (.mzero d) .vatNotile (BitVec.ofNat 64 d.toNat) s))) ∧
  (∀ (s : State) (m : Mods) (d a b : Reg) (k : Nat) (i : Instr) (B : BitVec 131072) (layer : Option Nat), issues i s →
    let f := s.cx.fmt
    let pair := f == .f64
    let sa := (s.cx.scaleOf 0).map fun r => (r, s.cx.sc[r.toNat])
    let sb := (s.cx.scaleOf 1).map fun r => (r, s.cx.sc[r.toNat])
    let rows := (List.range 32).filter fun r => s.cx.active m (k * r)
    mopaK f = some k → mopaShape k s.cx.vtype = true → (f.intClass = true → bitOf s.cx.vtype 19 = false ∧ bitOf s.cx.vtype 23 = false) →
    (pair = true → d.toNat % 2 = 0) → s.tileLeaves pair d.toNat = false →
    (i = .mopa m d a b ∧ layer = none ∧ b.toNat ≤ 56 ∧ (∀ j < 8, B.extractLsb' (16384 * j) 16384 = s.cx.v.toList.getD (b.toNat + j) 0) ∨
      i = .mopaRows m d a b ∧ ∃ g pos, (s.cx.handle b).group = .held g ∧ layer = some (layerOf (s.cx.handle b).entry g) ∧
        folioAddr (s.cx.handle b).tower.toNat (s.cx.handle b).entry (g * 16384) = some pos ∧
        ∀ j < 16384, B.extractLsb' (8 * j) 8 = s.mem.byte (pos + j)) →
    (∀ t, s.cx.tileMissing pair d.toNat = some t → exec i s = .next (trapped i .vatNotile (BitVec.ofNat 64 t) s)) ∧
    (s.cx.tileMissing pair d.toNat = none → s.ahead.length < 4 →
      mopaReserved f k s.cx.v[a.toNat].toNat B.toNat sa sb rows = none →
      exec i s = .next (retired i { s with
        cx := { s.cx with vstart := 0 }
        co := { s.co with queue := s.ahead ++
          [.mopa s.cx.id (d.setWidth 2) f s.cx.v[a.toNat] B (sa.map Prod.snd) (sb.map Prod.snd) rows layer
            (if i = .mopaRows m d a b ∧ m.lb = true then some (b.setWidth 4) else none)] } })) ∧
    (∀ e v, s.cx.tileMissing pair d.toNat = none → mopaReserved f k s.cx.v[a.toNat].toNat B.toNat sa sb rows = some (e, v) →
      exec i s = .next (trapped i e v (s.upd fun c => { c with vstart := 0 })))) ∧
  (∀ (s : State) (m : Mods) (d a b : Reg) (k : Nat), issues (.mopaRows m d a b) s → mopaK s.cx.fmt = some k →
    mopaShape k s.cx.vtype = true → (s.cx.fmt.intClass = true → bitOf s.cx.vtype 19 = false ∧ bitOf s.cx.vtype 23 = false) →
    s.cx.fmt ≠ .f64 → s.cx.vatmap.getLsbD d.toNat = true → s.tileLeaves false d.toNat = false →
    ((s.cx.handle b).group = .none → ∃ v, exec (.mopaRows m d a b) s = .next (trapped (.mopaRows m d a b) .rowClosed v s)) ∧
    (∀ g, (s.cx.handle b).group = .lost g → ∃ v, exec (.mopaRows m d a b) s = .next (trapped (.mopaRows m d a b) .rowLost v s)) ∧
    (∀ g, ((s.cx.handle b).group = .opening g ∨ (s.cx.handle b).group = .claimed g) → waits (.mopaRows m d a b) s)) ∧
  (∀ (s t : State) (m : Mods) (kind : MKind) (sp : Space) (a b c : Reg) (disp : BitVec 32) (l : List (Nat × Nat)),
    let i : Instr := .mflush m kind sp a b c disp
    let pair := kind == .f64
    let width := if pair then 2048 else 1024
    let ea := s.cx.readX a + BitVec.ofInt 64 (disp.toInt * (if m.form = .s then 128 else 1))
    let stride : Word := if c = 0 then BitVec.ofNat 64 width else s.cx.readX c
    issues i s → (pair = true → b.toNat % 2 = 0) → s.tileLeaves pair b.toNat = false →
    (∀ k, s.cx.tileMissing pair b.toNat = some k → exec i s = .next (trapped i .vatNotile (BitVec.ofNat 64 k) s)) ∧
    (s.cx.tileMissing pair b.toNat = none →
      (ea.toNat % 128 ≠ 0 → exec i s = .next (trapped i .align ea s)) ∧
      (ea.toNat % 128 = 0 → stride.toNat % 128 ≠ 0 → exec i s = .next (trapped i .align stride s)) ∧
      (ea.toNat % 128 = 0 → stride.toNat % 128 = 0 → t.ahead.length < 4 →
        s.flushLines sp ((List.range 32).flatMap fun r => (List.range (width / 128)).map fun k =>
          ea + BitVec.ofNat 64 r * stride + BitVec.ofNat 64 (128 * k)) [] = .ok (l, t) →
        exec i s = .next (retired i { t with co := { t.co with
          queue := t.ahead ++ [.mflush s.cx.id kind (b.setWidth 2) sp l m.lb] } })))) ∧
  (∀ (s : State) (i : Instr) (m : Mods) (d a b t : Reg), (i = .mrd m d a b ∧ t = a ∨ i = .mwr m d a b ∧ t = d) → issues i s →
    let n := (s.cx.readX b).toNat
    let place : MOp := .move s.cx.id s.cx.pc
    (16 ≤ n → exec i s = .next (trapped i .illOperand (s.cx.readX b) s)) ∧
    (n < 16 → s.cx.fmt.sew ≠ 32 → s.cx.fmt.sew ≠ 64 → exec i s = .next (trapped i .illOperand i.tval s)) ∧
    (n < 16 → (s.cx.fmt.sew = 32 ∨ s.cx.fmt.sew = 64) →
      (s.tileLeaves false t.toNat = true → waits i s) ∧
      (s.tileLeaves false t.toNat = false → s.cx.vatmap.getLsbD t.toNat = false →
        exec i s = .next (trapped i .vatNotile (t.setWidth 64) s)) ∧
      (s.tileLeaves false t.toNat = false → s.cx.vatmap.getLsbD t.toNat = true →
        (place ∉ s.co.queue → 4 ≤ s.ahead.length → waits i s) ∧
        (place ∉ s.co.queue → s.ahead ≠ [] → s.ahead.length < 4 → ∃ st, st ≠ .none ∧ exec i s = .next { s with
          cx := { s.cx with stall := st }, co := { s.co with queue := s.ahead ++ [place] } }) ∧
        (place ∈ s.co.queue → s.co.queue.head? ≠ some place → waits i s) ∧
        (s.co.queue.head? = some place ∨ place ∉ s.co.queue ∧ s.ahead = [] →
          ∃ u, exec i s = .next (retired i (if i = .mrd m d a b ∧ m.la = true then u.upd fun c => c.freeTiles [a.toNat] else u)) ∧
            u = { s with cx := { s.cx with v := u.cx.v, a := u.cx.a, vstart := 0 }, co := { s.co with queue := s.ahead } } ∧
            (i = .mrd m d a b → u.cx.a = s.cx.a ∧
              (∀ e ∈ s.cx.elems m, e < vlmax s.cx.fmt.sew →
                u.cx.el d e = elemAt (s.cx.a[tIdx a].extractLsb' (16384 * n) 16384) s.cx.fmt.sew e) ∧
              (∀ e, e ∉ s.cx.elems m → u.cx.el d e = s.cx.el d e) ∧ ∀ r : Fin 64, r.val ≠ d.toNat → u.cx.v[r] = s.cx.v[r]) ∧
            (i = .mwr m d a b → u.cx.v = s.cx.v ∧
              (∀ e, e < vlmax s.cx.fmt.sew → elemAt (u.cx.a[tIdx d].extractLsb' (16384 * n) 16384) s.cx.fmt.sew e =
                if e ∈ s.cx.elems m then s.cx.el a e else elemAt (s.cx.a[tIdx d].extractLsb' (16384 * n) 16384) s.cx.fmt.sew e) ∧
              (∀ j < 16, j ≠ n → u.cx.a[tIdx d].extractLsb' (16384 * j) 16384 = s.cx.a[tIdx d].extractLsb' (16384 * j) 16384) ∧
              ∀ q : Fin 4, q ≠ tIdx d → u.cx.a[q] = s.cx.a[q])))))

/-- R151, R246, R254, R255, R258, R261: the engine takes the head of its queue: mzero clears the tile; mopa gives each element of the
rows its sum through its blocks of 32 products, saturated after each block for the integer formats, rounded once after each block,
with its flags, for the floating-point ones, under the scales if there are any, and leaves the other rows; a mark closes its
group; mflush sends one addition for each element, of which one counts for each line, and may release the tile; an addition is
performed by itself on memory.
That a queued instruction runs in one step, and which addition of a line counts for the tag, are the model's choices (log 6,
log 67). -/
def Obligations.TheMatrixEngineRunsItsQueue : Prop :=
  (∀ (s : State) (core : BitVec 12) (id : Nat) (t : BitVec 2) (qs : List MOp) (c : Ctx),
    (s.core core).queue = .mzero id t :: qs → s.ctx? id = some c →
    ∃ u d, exec (.matrixEngineStart core) s = .next u ∧ (u.core core).queue = qs ∧ u.ctx? id = some d ∧
      d = { c with a := c.a.set t.toNat 0 } ∧ u.mem = s.mem ∧ u.pend = s.pend) ∧
  (∀ (s : State) (core : BitVec 12) (id : Nat) (t : BitVec 2) (qs : List MOp) (c : Ctx) (f : Fmt) (k : Nat) (a : Brick)
      (b : BitVec 131072) (sa sb : Option Scale) (rows : List Nat) (layer : Option Nat) (close : Option (BitVec 4)),
    (s.core core).queue = .mopa id t f a b sa sb rows layer close :: qs → s.ctx? id = some c → mopaK f = some k →
    (f = .f64 → t.toNat % 2 = 0) →
    ∃ u d, exec (.matrixEngineStart core) s = .next u ∧ (u.core core).queue = qs ∧ u.ctx? id = some d ∧
      d = { c with a := d.a, fflags := d.fflags, h := d.h } ∧ u.mem = s.mem ∧ u.pend = s.pend ∧
      (close = none → d.h = c.h) ∧
      (∀ (q : BitVec 4) (g : Nat), close = some q → c.h[q.toNat].group = .held g → layer = some (layerOf c.h[q.toNat].entry g) →
        d.h = c.h.set q.toNat { c.h[q.toNat] with group := .none } ∧ u.layer c.coreid (layerOf c.h[q.toNat].entry g) = .pending) ∧
      (∀ q : Fin 4, q.val ≠ t.toNat → ¬ (f = .f64 ∧ q.val = t.toNat + 1) → d.a[q] = c.a[q]) ∧
      let w := if f = .f64 then 64 else 32
      let old (m n : Nat) : Nat := c.tileBits (f == .f64) t.toNat / 2 ^ (w * (256 * m + n)) % 2 ^ w
      let new (m n : Nat) : Nat := d.tileBits (f == .f64) t.toNat / 2 ^ (w * (256 * m + n)) % 2 ^ w
      let ea (m q : Nat) : Nat := a.toNat / 2 ^ (f.sew * (q + k * m)) % 2 ^ f.sew
      let eb (q n : Nat) : Nat := b.toNat / 2 ^ (f.sew * (256 * q + n)) % 2 ^ f.sew
      (∀ m < 32, ∀ n < 256, m ∉ rows → new m n = old m n) ∧
      (f.intClass = true → d.fflags = c.fflags ∧ ∀ m < 32, ∀ n < 256, m ∈ rows →
        (BitVec.ofNat 32 (new m n)).toInt = (List.range (k / 32)).foldl (fun acc j =>
          max (-2 ^ 31) (min (2 ^ 31 - 1) (acc + ((List.range 32).map fun q =>
            intOf f.signed f.sew (ea m (32 * j + q)) * intOf f.signed f.sew (eb (32 * j + q) n)).sum)))
          (BitVec.ofNat 32 (old m n)).toInt) ∧
      (f.intClass = false →
        let nb := (k + 31) / 32
        let under (sc : Option Scale) (byte x : Nat) : Val := match sc with
          | some y => (fmtVal f x).scaled (scaleByte y byte)
          | none => fmtVal f x
        let products (m n j : Nat) : List Val := (List.range (min 32 (k - 32 * j))).map fun q =>
          (mulVal (under sa (m * nb + j) (ea m (32 * j + q))) (under sb (32 * j + n / 8) (eb (32 * j + q) n))).1
        ∃ acc : Nat → Nat → Nat → Nat × Fl,
          (∀ m < 32, ∀ n < 256, m ∈ rows → acc m n 0 = (old m n, 0) ∧ (acc m n nb).1 = new m n ∧
            ∀ j < nb, addsBlock (if f = .f64 then .f64 else .f32) (products m n j) (acc m n j).1 (acc m n (j + 1))) ∧
          ∀ i, d.fflags.getLsbD i = true ↔ c.fflags.getLsbD i = true ∨
            ∃ m < 32, ∃ n < 256, m ∈ rows ∧ ∃ j < nb, (acc m n (j + 1)).2.getLsbD i = true)) ∧
  (∀ (s : State) (core : BitVec 12) (id : Nat) (kind : MKind) (t : BitVec 2) (sp : Space) (lines : List (Nat × Nat)) (free : Bool)
      (qs : List MOp) (c : Ctx),
    (s.core core).queue = .mflush id kind t sp lines free :: qs → s.ctx? id = some c → kind ≠ .f64 →
    ∃ u d, ∃ us : List Pend, exec (.matrixEngineStart core) s = .next u ∧ (u.core core).queue = qs ∧ u.pend = s.pend ++ us ∧
      u.ctx? id = some d ∧ d = (if free then { c with vatmap := c.vatmap &&& ~~~(BitVec.ofNat 4 (2 ^ t.toNat)) } else c) ∧
      u.mem = s.mem ∧ us.length = 8192 ∧
      ∀ j < 8192, ∃ locs cnt v, us[j]? = some (.flush id sp locs kind cnt v) ∧
        v = (c.a[t.toNat].extractLsb' (32 * j) 32).setWidth 64 ∧
        cnt = decide (j % 32 = 0 ∧ lines.getD (j / 32) (0, 0) ∉ lines.take (j / 32)) ∧
        locs = (List.range 4).map fun k => ((lines.getD (j / 32) (0, 0)).1 + 4 * (j % 32) + k, (lines.getD (j / 32) (0, 0)).2 + 4 * (j % 32) + k)) ∧
  (∀ (s : State) (core : BitVec 12) (id : Nat) (t : BitVec 2) (sp : Space) (lines : List (Nat × Nat)) (free : Bool) (qs : List MOp)
      (c : Ctx), (s.core core).queue = .mflush id .f64 t sp lines free :: qs → s.ctx? id = some c →
    ∃ u d, ∃ us : List Pend, exec (.matrixEngineStart core) s = .next u ∧ (u.core core).queue = qs ∧ u.pend = s.pend ++ us ∧
      u.ctx? id = some d ∧ d = { c with vatmap := d.vatmap } ∧
      (∀ k < 4, d.vatmap.getLsbD k = (c.vatmap.getLsbD k && !(free && decide (k = t.toNat ∨ k = t.toNat + 1)))) ∧
      u.mem = s.mem ∧ us.length = 8192 ∧
      ∀ j < 8192, ∃ locs cnt v, us[j]? = some (.flush id sp locs .f64 cnt v) ∧
        v = BitVec.ofNat 64 (c.tileBits true t.toNat / 2 ^ (64 * j)) ∧
        cnt = decide (j % 16 = 0 ∧ lines.getD (j / 16) (0, 0) ∉ lines.take (j / 16)) ∧
        locs = (List.range 8).map fun k => ((lines.getD (j / 16) (0, 0)).1 + 8 * (j % 16) + k, (lines.getD (j / 16) (0, 0)).2 + 8 * (j % 16) + k)) ∧
  (∀ (s : State) (n id : Nat) (locs : List (Nat × Nat)) (kind : MKind) (cnt : Bool) (v : BitVec 64), canonical s →
    s.pend[n]? = some (.flush id .g locs kind cnt v) → s.earlier n (.flush id .g locs kind cnt v) = false →
    s.rowsLet (some id) true locs = true → (locs.map Prod.snd).Nodup → locs.length = (if kind = .f64 then 8 else 4) →
    ∃ u old new, exec (.mflushAddition n) s = .next u ∧ u.pend = s.pend.eraseIdx n ∧ numberOf s (locs.map Prod.snd) old ∧
      numberOf u (locs.map Prod.snd) new ∧ (∀ x, x ∉ locs.map Prod.snd → u.mem.byte x = s.mem.byte x) ∧
      (cnt = false → u.tags = s.tags) ∧ (cnt = true → u.tags = (s.bumps (linesOf locs)).tags) ∧
      (kind = .i32 → (BitVec.ofNat 32 new).toInt =
        max (-2 ^ 31) (min (2 ^ 31 - 1) ((BitVec.ofNat 32 old).toInt + (BitVec.ofNat 32 v.toNat).toInt))) ∧
      (kind = .f32 → new = (encodeVal .f32 .rne 0 (addVal .rne (fmtVal .f32 old) (fmtVal .f32 v.toNat)).1).1) ∧
      (kind = .f64 → new = (encodeVal .f64 .rne 0 (addVal .rne (fmtVal .f64 old) (fmtVal .f64 v.toNat)).1).1))

/-! ### Engines, graphs, pipes and watermarks (R264 to R287) -/

/-- R264, R270 to R275: enq pushes a record and answers its sequence number; enqb pushes the active records while there is room and
says which are in; epop takes the oldest result and acquires at its command's scope, stalls for one that is under way and raises ILL_OPERAND when none is; estat
counts; a record that is not valid is ILL_OPERAND with the offset of its lowest wrong byte.
The cases of epop.sus are the model's reading (log 50). -/
def Obligations.EngineChannelsQueueAndAnswer : Prop :=
  (∀ (s : State) (m : Mods) (d a b : Reg) (gt : Bool),
    let i : Instr := .enq m d a b gt
    let j := (s.cx.readX b).toNat
    let h := s.cx.chan gt
    let r : BitVec 1024 := s.cx.v[a.toNat].extractLsb' (1024 * j) 1024
    issues i s →
    (16 ≤ j → exec i s = .next (trapped i .illOperand (s.cx.readX b) s)) ∧
    (j < 16 →
      (∀ o, recordBad gt r = some o → exec i s = .next (trapped i .illOperand (BitVec.ofNat 64 o) s)) ∧
      (recordBad gt r = none → h.fifo.length < 16 → s.cx.lostStore = none →
        exec i s = .next (retired i (s.upd fun c =>
          (c.setChan gt { h with fifo := h.fifo ++ [⟨r, h.seq⟩], seq := h.seq + 1 }).writeX d (h.seq.setWidth 64)))) ∧
      (recordBad gt r = none → 16 ≤ h.fifo.length → waits i s))) ∧
  (∀ (s : State) (m : Mods) (d a b : Reg) (gt : Bool),
    let i : Instr := .enqb m d a b gt
    let n := (s.cx.readX b).toNat
    let h := s.cx.chan gt
    let r (j : Nat) : BitVec 1024 := (s.cx.v.toList.getD (a.toNat + j / 16) 0).extractLsb' (1024 * (j % 16)) 1024
    let on (j : Nat) : Bool := ((s.cx.readP m.g).getLsbD j != m.gn) && (s.cx.mask.headD (BitVec.allOnes 4096)).getLsbD j
    let live := (List.range n).filter on
    let taken := live.take (16 - h.fifo.length)
    issues i s →
    ((n = 0 ∨ 64 < n ∨ 64 < a.toNat + (n + 15) / 16) → exec i s = .next (trapped i .illOperand (s.cx.readX b) s)) ∧
    (1 ≤ n → n ≤ 64 → a.toNat + (n + 15) / 16 ≤ 64 → (∀ j ∈ live, recordBad gt (r j) = none) → s.cx.lostStore = none →
      ∃ v : Pred, exec i s = .next (retired i (s.upd fun c => (c.setChan gt { h with
          fifo := h.fifo ++ taken.mapIdx fun k j => ⟨r j, h.seq + BitVec.ofNat 32 k⟩
          seq := h.seq + BitVec.ofNat 32 taken.length }).writeP d v)) ∧
        ∀ j < 4096, v.getLsbD j =
          if j < 64 then decide (j ∈ taken) else (s.cx.readP d).getLsbD j)) ∧
  (∀ (s : State) (m : Mods) (d : Reg) (gt : Bool), issues (.epop m d gt) s →
    let h := s.cx.chan gt
    (∀ e es c cs, h.ring = e :: es → h.scopes = c :: cs → exec (.epop m d gt) s = .next (retired (.epop m d gt)
      (State.acquire (s.upd fun x => ((x.setChan gt { h with ring := es, scopes := cs }).writeX d (e.extractLsb' 0 64)).writeX (d + 1)
        (e.extractLsb' 64 64)) c))) ∧
    (h.ring = [] → h.fifo = [] → h.running = [] → ∃ v, exec (.epop m d gt) s = .next (trapped (.epop m d gt) .illOperand v s)) ∧
    (h.ring = [] → (h.fifo ≠ [] ∨ h.running ≠ []) → waits (.epop m d gt) s)) ∧
  (∀ (s : State) (m : Mods) (d : Reg) (gt : Bool), issues (.estat m d gt) s →
    let h := s.cx.chan gt
    h.ring.length ≤ 64 → h.fifo.length ≤ 16 → h.running.length ≤ 4 →
    writesX (.estat m d gt) s d fun v => fld v 32 32 = h.seq.toNat ∧ fld v 16 16 = h.fifo.length + h.running.length ∧
      fld v 8 8 = h.ring.length ∧ fld v 0 8 = 16 - h.fifo.length) ∧
  (∀ (s : State) (m : Mods) (d a : Reg), issues (.estatN m d a) s →
    let k := (s.cx.readX a).toNat
    (64 ≤ k → ∃ v, exec (.estatN m d a) s = .next (trapped (.estatN m d a) .illOperand v s)) ∧
    (k < 64 → ∀ e, e = s.co.graph[Fin.ofNat 64 k] → e.pred < 256 →
      writesX (.estatN m d a) s d fun v =>
        (e.st = .free → v = 0) ∧
        (e.st ≠ .free → fld v 16 8 = e.pred ∧ fld v 8 6 = e.cause.toNat % 64 ∧
          bitOf v 3 = decide (e.owner = some (.ctx s.cx.id)) ∧
          fld v 0 3 = match e.st with | .free => 0 | .waiting => 1 | .running => 2 | .done => 3 | .failed => 4)))

/-- R264 to R268, R270, R271, R308, R384: an engine starts the oldest command, at most four at once, after the context's writes, and
acquires for it, so that no copy of a peer line serves its tower any more; its
iterations run in order up to the one that faults; an iteration takes its offset from the gather index, if there is one, reads its
element past the L1 and writes it where the strides say, in each of the spaces, converted if the record says so; a misaligned
element is ALIGN; a network element goes to a queue pair in service; a result element with the next phase goes into the ring with
its command's scope.
That a command runs whole in one step, when it starts, and that it waits at a held row, are the model's choices (log 16, log
79); which access a missing completion strikes is free (log 77). -/
def Obligations.EnginesRunTheirCommands : Prop :=
  (∀ (s u : State) (id : Nat) (gt : Bool) (c : Ctx) (q : Cmd) (qs : List Cmd) (n : Nat) (f : Option (Cause × Word)),
    s.ctx? id = some c → (c.chan gt).fifo = q :: qs → (c.chan gt).running.length < 4 → s.writesOut id = false →
    c.hostSave = .no → c.resident = true → (s.leavePeers (towerOf c.coreid) fun _ => true).engRunAll (s.engineCtx c) gt (c.chan gt).lost q.image = some (u, n, f) →
    ∃ t d e, exec (.engineCommandStart id gt) s = .next t ∧ t.mem = u.mem ∧ t.ctx? id = some d ∧ (d.chan gt).fifo = qs ∧
      (d.chan gt).running = (c.chan gt).running ++ [(q.image, e)] ∧ (d.chan gt).ring = (c.chan gt).ring ∧
      e.extractLsb' 32 32 = q.seq ∧ (e.extractLsb' 0 8 = if f.isSome then 1 else 0) ∧
      e.extractLsb' 8 8 = (match f with | some (x, _) => x.code | none => 0) ∧ e.extractLsb' 64 32 = BitVec.ofNat 32 n) ∧
  (∀ (s u : State) (c : Ctx) (gt : Bool) (r : BitVec 1024) (k : Nat) (e : Cause) (v : Word),
    let one (s : State) (j : Nat) (t : State) : Prop := s.engIter c false gt r j = .ok t
    (along one (List.range (recTotal r)) s u → s.engRunAll c gt false r = some (u, recTotal r, none)) ∧
    (k < recTotal r → along one (List.range k) s u → u.engIter c false gt r k = .error (.fault e v) →
      s.engRunAll c gt false r = some (u, k, some (e, v)))) ∧
  (∀ (s s1 t u w : State) (c : Ctx) (gt : Bool) (r : BitVec 1024) (k v : Nat) (off : Word) (p q : Place),
    let at_ (x : Nat) (y : Nat) : Word := recAddr (BitVec.ofNat 64 (rb r x 8)) (digits (recCounts r) k) (recStrides r y)
    let src := at_ 0 0 + if recDir r then 0 else off
    let dst := at_ 8 1 + if recDir r then off else 0
    let space (x : Nat) : Space := if x = 0 then .g else if x = 1 then .s else .c
    let iw := recIndexSize r
    let ia := BitVec.ofNat 64 (rb r 0x60 8 + iw * k)
    (gt = false → off = 0 ∧ s1 = s) →
    (gt = true → ∃ s0 pi, s.resolve c .g .load ia iw = .ok (s0, pi) ∧ pi.inReg = false ∧ s.poisoned pi = false ∧
      s.walkMeets { c with stall := .none } .g .load ia iw = .free ∧ s.layerWaits none pi = false ∧
      s1 = (s0.loadPlace c .cave .sector pi iw).2 ∧ off = sextN (8 * iw) (s0.loadPlace c .cave .sector pi iw).1 <<< recShift r) →
    recSrcSpace r < 3 → recDstSpace r < 3 →
    (src.toNat % recSize r ≠ 0 → s.engIter c false gt r k = .error (.fault .align src)) ∧
    (src.toNat % recSize r = 0 → dst.toNat % recDstSize r ≠ 0 → s.engIter c false gt r k = .error (.fault .align dst)) ∧
    (src.toNat % recSize r = 0 → dst.toNat % recDstSize r = 0 →
      s1.resolve c (space (recSrcSpace r)) .load src (recSize r) = .ok (t, p) → p.inReg = false → s1.poisoned p = false →
      s1.walkMeets { c with stall := .none } (space (recSrcSpace r)) .load src (recSize r) = .free →
      s1.layerWaits none p = false → t.loadPlace c .cave .sector p (recSize r) = (v, u) →
      u.resolve c (space (recDstSpace r)) .store dst (recDstSize r) = .ok (w, q) → q.inReg = false → u.poisoned q = false →
      u.walkMeets { c with stall := .none } (space (recDstSpace r)) .store dst (recDstSize r) = .free → u.rowMeets none q = .free →
      s.engIter c false gt r k = .ok (w.engWrite c q (whole (recDstSize r)
        (if recConv r then (convVal (recSfmt r) (recDfmt r) false (recRm r) 0 (fmtVal (recSfmt r) v)).1 else v))))) ∧
  (∀ (s : State) (c : Ctx) (ls : List Loc) (n v : Nat), canonical s → (ls.map Loc.pos).Nodup → ls.length = n →
    (∀ k < n, (s.engWrite c (.g ls) (whole n v)).mem.byte ((ls.map Loc.pos).getD k 0) = BitVec.ofNat 8 (v / 256 ^ k)) ∧
    ∀ a, a ∉ ls.map Loc.pos → (s.engWrite c (.g ls) (whole n v)).mem.byte a = s.mem.byte a) ∧
  (∀ (s : State) (c : Ctx) (r : BitVec 1024) (gt : Bool) (va : Word) (v : Nat), recDstSpace r = 3 →
    (va.extractLsb' 44 16 ∉ s.dev.qps → ∀ k, s.engSink c false r gt k va v = .error (.fault .dataAccess va)) ∧
    (va.extractLsb' 44 16 ∈ s.dev.qps → ∀ j, ∃ u l, s.engSink c false r gt j va v = .ok u ∧
      u = { s with dev := { s.dev with rdma := s.dev.rdma ++ l } } ∧ l.length = recDstSize r ∧
      ∀ k < recDstSize r, l[k]? = some (va + BitVec.ofNat 64 k, BitVec.ofNat 8 (v / 256 ^ k)))) ∧
  (∀ (s : State) (id : Nat) (gt : Bool) (c : Ctx) (r : BitVec 1024) (e : BitVec 128) (rest : List (BitVec 1024 × BitVec 128)),
    s.ctx? id = some c → (c.chan gt).running = (r, e) :: rest →
    ((c.chan gt).ring.length < 64 →
      ∃ t d, exec (.engineResultPost id gt) s = .next t ∧ t.ctx? id = some d ∧ t.mem = s.mem ∧
        d = c.setChan gt { c.chan gt with
          running := rest, prod := (c.chan gt).prod + 1
          ring := (c.chan gt).ring ++
            [e ||| BitVec.ofNat 128 ((if (c.chan gt).prod.getLsbD 6 then 2 else 1) * 2 ^ 24)]
          scopes := (c.chan gt).scopes ++
            [if recSrcSpace r = 0 ∨ recSrcSpace r = 3 ∨ recDstSpace r = 0 ∨ recDstSpace r = 3 then .sys
              else if recSrcSpace r = 2 ∨ recDstSpace r = 2 then .tow else .cor] } ∧
        t.graph c.coreid = (s.graph c.coreid).after (some (.ctx id)) (e.extractLsb' 0 8 == 0) (recSucc r)) ∧
    (64 ≤ (c.chan gt).ring.length → exec (.engineResultPost id gt) s = .next s))

/-- R39, R269, R277 to R281: gload checks its records, the lowest offending byte of the first record that is not valid being reported,
and puts them into their entries, WAITING, or RUNNING at once with no predecessor, or DONE for an event node, which completes for its
own successors; a completing predecessor takes one off the count and the last one starts the node, and a failing one fails it; gwait goes on and acquires when the entry is DONE, waits
while it is pending and raises ENGINE_FAULT when it has FAILED; a node that completes is DONE, or FAILED with its cause, and waits
while it reaches the scratch block of a context that is out; a graph
leaf's nodes are loaded into free entries of its core.
That nodes start at once, and what a failure does, are the model's reading (log 57, log 80, log 81); a node runs in one step
(log 16). -/
def Obligations.GraphNodesStartAndEnd : Prop :=
  (∀ (s t : State) (m : Mods) (a b : Reg) (v : Nat),
    let i : Instr := .gload m a b
    let va := s.cx.readX a
    let n := (s.cx.readX b).toNat
    let r (k : Nat) : BitVec 1024 := BitVec.ofNat 1024 (v / 2 ^ (1024 * k))
    let ids := (List.range n).map fun k => rb (r k) 0x70 1
    issues i s →
    ((n = 0 ∨ 64 < n) → exec i s = .next (trapped i .illOperand (s.cx.readX b) s)) ∧
    (1 ≤ n → n ≤ 64 → va.toNat % 128 ≠ 0 → exec i s = .next (trapped i .align va s)) ∧
    (1 ≤ n → n ≤ 64 → va.toNat % 128 = 0 → loads s .l1 .sector .g va (128 * n) t v →
      (∀ k < n, gloadBad ids (t.table.owned t.cx.id) k (r k) = none) →
      (∀ o, n = 1 → rb (r 0) 0x72 1 = 2 → (t.table.at (rb (r 0) 0x70 1)).isPending = false → o = Owner.ctx t.cx.id →
        let g (st : NodeSt) : Graph :=
          t.table.put (rb (r 0) 0x70 1) { st := st, owner := some o, pred := rb (r 0) 0x71 1, image := r 0 }
        exec i s = .next (retired i (t.setTable
          (if rb (r 0) 0x71 1 = 0 then (g .done).after (some o) true (recSucc (r 0)) else g .waiting)))) ∧
      ((∃ k ∈ ids, (t.table.at k).isPending = true) → ∃ k ∈ ids, exec i s = .next (trapped i .nodeBusy (BitVec.ofNat 64 k) s)) ∧
      ((∀ k ∈ ids, (t.table.at k).isPending = false) → (∀ k < n, rb (r k) 0x72 1 ≠ 2) →
        ∃ u, exec i s = .next (retired i u) ∧ u = { t with co := { t.co with graph := u.co.graph } } ∧
          (∀ k < n, u.table.at (rb (r k) 0x70 1) =
            { st := if rb (r k) 0x71 1 = 0 then .running else .waiting, owner := some (.ctx s.cx.id)
              pred := rb (r k) 0x71 1, image := r k }) ∧
          ∀ j < 64, j ∉ ids → u.table.at j = t.table.at j)) ∧
    (∀ k o, 1 ≤ n → n ≤ 64 → va.toNat % 128 = 0 → loads s .l1 .sector .g va (128 * n) t v → k < n →
      (∀ j < k, gloadBad ids (t.table.owned t.cx.id) j (r j) = none) → gloadBad ids (t.table.owned t.cx.id) k (r k) = some o →
      exec i s = .next (trapped i .illOperand (va + BitVec.ofNat 64 (128 * k + o)) s))) ∧
  (∀ (ids : List Nat) (owned : Nat → Bool) (k : Nat) (r : BitVec 1024),
    (gloadBad ids owned k r = none ↔ ∀ o, ¬ offends ids owned k r o) ∧
    ∀ o, gloadBad ids owned k r = some o ↔ offends ids owned k r o ∧ ∀ o', offends ids owned k r o' → o ≤ o') ∧
  (∀ (g : Graph) (o : Option Owner) (k : Nat) (ok : Bool), k < 64 →
    let e := g.at k
    g.after o ok [] = g ∧
    ((e.st ≠ .waiting ∨ e.owner ≠ o) → g.after o ok [k] = g) ∧
    (e.st = .waiting → e.owner = o →
      (rb e.image 0x72 1 ≠ 2 ∨ 1 < e.pred →
        g.after o true [k] = g.put k { e with pred := e.pred - 1, st := if e.pred ≤ 1 then .running else .waiting }) ∧
      (rb e.image 0x72 1 = 2 → e.pred ≤ 1 →
        let g' := g.put k { e with pred := e.pred - 1, st := .done }
        (recSucc e.image = [] → g.after o true [k] = g') ∧
        (∀ j, recSucc e.image = [j] → rb (g'.at j).image 0x72 1 ≠ 2 → g.after o true [k] = g'.after o true [j])) ∧
      (recSucc e.image = [] → g.after o false [k] = g.put k { e with st := .failed }) ∧
      (∀ j, recSucc e.image = [j] → recSucc (g.at j).image = [] →
        g.after o false [k] = (g.put k { e with st := .failed }).after o false [j]))) ∧
  (∀ (s : State) (m : Mods) (a : Reg), issues (.gsig m a) s →
    let k := (s.cx.readX a).toNat
    let e := s.table.at k
    ((64 ≤ k ∨ e.st ≠ .waiting ∨ e.owner ≠ some (.ctx s.cx.id)) →
      exec (.gsig m a) s = .next (trapped (.gsig m a) .illOperand (s.cx.readX a) s)) ∧
    (k < 64 → e.st = .waiting → e.owner = some (.ctx s.cx.id) → rb e.image 0x72 1 ≠ 2 → released s →
      exec (.gsig m a) s = .next (retired (.gsig m a) (s.setTable (s.table.put k
        { e with pred := e.pred - 1, st := if e.pred ≤ 1 then .running else .waiting })))) ∧
    (k < 64 → e.st = .waiting → e.owner = some (.ctx s.cx.id) → released s →
      exec (.gsig m a) s = .next (retired (.gsig m a) (s.setTable (s.table.after e.owner true [k]))))) ∧
  (∀ (s : State) (m : Mods) (a : Reg), issues (.gwait m a) s →
    let k := (s.cx.readX a).toNat
    let e := s.table.at k
    (s.table.owned s.cx.id k = false → ∃ v, exec (.gwait m a) s = .next (trapped (.gwait m a) .illOperand v s)) ∧
    (s.table.owned s.cx.id k = true →
      (e.st = .done → exec (.gwait m a) s = .next (retired (.gwait m a) (s.acquire .sys))) ∧
      (e.isPending = true → waits (.gwait m a) s) ∧
      (e.st = .failed → ∃ v, exec (.gwait m a) s = .next (trapped (.gwait m a) .engineFault v s) ∧ fld v 56 6 = k ∧
        fld v 62 2 = (if e.ownFault then rb e.image 0x72 1 % 4 else 3) ∧ (e.ownFault = true → fld v 0 56 = fld e.addr 0 56)))) ∧
  (∀ (s : State) (core : BitVec 12) (n : Reg) (o : Owner), let e := (s.graph core).at n.toNat
    e.owner = some o → s.ownerStopped o = false →
    (e.st = .waiting → e.pred = 0 → rb e.image 0x72 1 = 2 → exec (.graphNodeStart core n) s = .next (s.setGraph core
      (((s.graph core).put n.toNat { e with st := .done }).after (some o) true (recSucc e.image)))) ∧
    (e.st = .waiting → e.pred = 0 → rb e.image 0x72 1 ≠ 2 → exec (.graphNodeStart core n) s =
      .next (s.setGraph core ((s.graph core).put n.toNat { e with st := .running }))) ∧
    (e.st = .waiting → e.pred ≠ 0 → exec (.graphNodeStart core n) s = .next s)) ∧
  (∀ (s t : State) (core : BitVec 12) (n : Reg) (id : Nat) (c : Ctx) (k : Nat), let e := (s.graph core).at n.toNat
    e.st = .running → e.owner = some (.ctx id) → s.ctx? id = some c → s.writesOut id = false →
    let s' := s.leavePeers (towerOf core) fun _ => true
    let away := (recSrcSpace e.image = 1 ∨ recDstSpace e.image = 1) ∧ (c.phase = .switchedOut ∨ c.hostSave ≠ .no)
    (away → exec (.graphNodeComplete core n) s = .next s) ∧
    (¬ away → s'.engRunAll (s.engineCtx c) (rb e.image 0x72 1 == 1) e.lost e.image = some (t, k, none) → t.graph core = s.graph core →
      ∃ u, exec (.graphNodeComplete core n) s = .next u ∧ u.mem = t.mem ∧ ((u.graph core).at n.toNat).st = .done ∧
        u.graph core = ((s.graph core).put n.toNat { e with st := .done, lost := false }).after (some (.ctx id)) true
          (recSucc e.image)) ∧
    (∀ cause va, ¬ away → s'.engRunAll (s.engineCtx c) (rb e.image 0x72 1 == 1) e.lost e.image = some (t, k, some (cause, va)) →
      ∃ u, exec (.graphNodeComplete core n) s = .next u ∧ u.mem = t.mem ∧ ((u.graph core).at n.toNat).st = .failed ∧
        ((u.graph core).at n.toNat).cause = cause.code ∧ ((u.graph core).at n.toNat).addr = va)) ∧
  (∀ (s : State) (l n : Nat) (x : Node), s.node? l n = some x → x.kind = .graph → x.placed ≠ 0 → x.loaded = false →
    x.stopped = false → x.count ≤ (s.graph (auxCore x.aux)).freeEntries.length → x.records.length ≤ x.count →
    ∃ t y, exec (.graphLeafLoad l n) s = .next t ∧ t.node? l n = some y ∧ y = { x with loaded := true } ∧ t.mem = s.mem ∧
      (∀ (k : Nat) (r : BitVec 1024), x.records[k]? = some r → ∃ j e, ((s.graph (auxCore x.aux)).freeEntries)[k]? = some j ∧
        (t.graph (auxCore x.aux)).at j = e ∧ e.st = .waiting ∧ e.owner = some (.leaf l n) ∧ e.pred = rb r 0x71 1) ∧
      ∀ j < 64, ((s.graph (auxCore x.aux)).at j).st ≠ .free → (t.graph (auxCore x.aux)).at j = (s.graph (auxCore x.aux)).at j)

/-- R283 to R287: a push appends to the pipe of the context's gang copy and a pop takes the oldest entry; each waits while the pipe is
full or empty; a context that is not the pipe's producer or consumer, or in no gang, gets QUEUE_UNBOUND, and a pipe of the other
kind ILL_OPERAND; every member of a copy whose members all stand stalled at pipes, with no engine command or node
pending, gets GANG_DEADLOCK, and none does otherwise. wmpub raises a watermark up to its bound,
wmpub.init sets its descriptor from memory, and wmrd reads it; a pop and wmrd acquire. -/
def Obligations.PipesAndWatermarksCarryData : Prop :=
  (∀ (s : State) (m : Mods) (d a : Reg) (i : Instr) (l n copy me : Nat) (x : Node) (b : PipeBind) (brick push : Bool) (q : Reg),
    (i = .qpush m d a ∧ brick = false ∧ push = true ∧ q = d ∨ i = .qpushBrick m d a ∧ brick = true ∧ push = true ∧ q = d ∨
      i = .qpop m d a ∧ brick = false ∧ push = false ∧ q = a ∨ i = .qpopBrick m d a ∧ brick = true ∧ push = false ∧ q = a) →
    issues i s →
    (s.cx.gang = none → exec i s = .next (trapped i .queueUnbound (q.setWidth 64) s)) ∧
    (s.cx.gang = some (copy, me) → s.cx.leaf = some (l, n) → s.node? l n = some x →
      x.pipes.find? (fun b => b.q == q.toNat) = some b →
      let items := s.pipeItems l n copy b.q
      (b.brick ≠ brick → ∃ v, exec i s = .next (trapped i .illOperand v s)) ∧
      (b.brick = brick →
        (me ≠ (if push then b.prod else b.cons) → exec i s = .next (trapped i .queueUnbound (q.setWidth 64) s)) ∧
        (me = b.prod → push = true → (if brick then 8 else 64) ≤ items.length → waits i s) ∧
        (me = b.cons → push = false → items = [] → waits i s) ∧
        (me = b.prod → i = .qpush m d a → items.length < 64 → released s →
          exec i s = .next (retired i (s.setPipe l n copy b (items ++ [(s.cx.readX a).setWidth 16384])))) ∧
        (me = b.prod → i = .qpushBrick m d a → items.length < 8 → released s →
          exec i s = .next (retired i (s.setPipe l n copy b (items ++ [s.cx.v[a.toNat]])))) ∧
        (∀ v rest, me = b.cons → items = v :: rest →
          (i = .qpop m d a →
            exec i s = .next (retired i (((s.setPipe l n copy b rest).acquire .clu).upd fun c => c.writeX d (v.setWidth 64)))) ∧
          (i = .qpopBrick m d a →
            exec i s = .next (retired i (((s.setPipe l n copy b rest).acquire .clu).upd fun c =>
              { c with v := c.v.set d.toNat v }))))))) ∧
  (∀ (s : State) (l n copy : Nat) (b : PipeBind) (items : List Brick),
    (s.setPipe l n copy b items).pipeItems l n copy b.q = items ∧
    ∀ l' n' copy' q', ¬ (l' = l ∧ n' = n ∧ copy' = copy ∧ q' = b.q) →
      (s.setPipe l n copy b items).pipeItems l' n' copy' q' = s.pipeItems l' n' copy' q') ∧
  (∀ (s : State) (l n copy : Nat),
    (∀ v, s.copyOf l n copy = [s.cx] → s.pipeStall = some v → s.engineBusy s.cx = false → s.trapWaits s.cx = false →
      exec (.gangDeadlock l n copy) s = .next (s.enterTrap .gangDeadlock v false false 4 s.cx.pc s.cx.prev)) ∧
    let cs := s.copyOf l n copy
    ((cs = [] ∨ ∃ c ∈ cs, (s.focusOn c.id).pipeStall = none ∨ s.engineBusy c = true ∨ s.trapWaits c = true) →
      exec (.gangDeadlock l n copy) s = .next s) ∧
    (cs ≠ [] → (s.ctxs.map Ctx.id).Nodup →
      (∀ c ∈ cs, ∃ v, (s.focusOn c.id).pipeStall = some v ∧ s.engineBusy c = false ∧ s.trapWaits c = false ∧
        bitOf c.status 2 = false ∧ bitOf c.tvec 0 = true ∧ c.replay = none) →
      ∃ t, exec (.gangDeadlock l n copy) s = .next t ∧
        ∀ c ∈ cs, ∃ v d, (s.focusOn c.id).pipeStall = some v ∧ t.ctx? c.id = some d ∧ d.cause = 0x22 ∧ d.tval = v ∧ d.epc = c.pc ∧
          d.fromReg = c.prev ∧ d.pc = BitVec.ofNat 64 (fld c.tvec 2 54 * 4) ∧ bitOf d.status 2 = true ∧ d.stall = .none)) ∧
  (∀ (s : State) (m : Mods) (d a : Reg), issues (.wmpub m d a) s →
    (s.wmAllowed d.toNat true = false → exec (.wmpub m d a) s = .next (trapped (.wmpub m d a) .queueUnbound (d.setWidth 64) s)) ∧
    (s.wmAllowed d.toNat true = true → released s → exec (.wmpub m d a) s = .next (retired (.wmpub m d a)
      (s.setWm d.toNat { s.wm d.toNat with
        w := BitVec.ofNat 64 (min (max (s.wm d.toNat).w.toNat (s.cx.readX a).toNat) (s.wm d.toNat).bound.toNat) })))) ∧
  (∀ (s t : State) (m : Mods) (d a : Reg) (v : Nat), issues (.wmpubInit m d a) s → s.wmAllowed d.toNat true = true →
    let va := s.cx.readX a
    let es := v / 2 ^ 64 % 2 ^ 32
    (va.toNat % 32 ≠ 0 → exec (.wmpubInit m d a) s = .next (trapped (.wmpubInit m d a) .align va s)) ∧
    (va.toNat % 32 = 0 → loads s .l1 .sector .g va 32 t v →
      (v / 2 ^ 96 % 2 ^ 32 = 0 → v / 2 ^ 192 = 0 → 1 ≤ es → es ≤ 65536 →
        exec (.wmpubInit m d a) s = .next (retired (.wmpubInit m d a) (t.setWm d.toNat { t.wm d.toNat with
          base := BitVec.ofNat 64 v, esize := es, bound := BitVec.ofNat 64 (v / 2 ^ 128), w := 0, init := true }))) ∧
      ((v / 2 ^ 96 % 2 ^ 32 ≠ 0 ∨ v / 2 ^ 192 ≠ 0 ∨ es = 0 ∨ 65536 < es) →
        exec (.wmpubInit m d a) s = .next (trapped (.wmpubInit m d a) .illOperand va s)))) ∧
  (∀ (s u : State) (m : Mods) (d a : Reg) (i : Instr) (v : Word),
    (i = .wmrd m d a ∧ v = (s.wm a.toNat).w ∧ u = s.acquire .dev ∨ i = .wmrdBound m d a ∧ v = (s.wm a.toNat).bound ∧ u = s) →
    issues i s →
    (s.wmAllowed a.toNat false = false → exec i s = .next (trapped i .queueUnbound (a.setWidth 64) s)) ∧
    (s.wmAllowed a.toNat false = true → exec i s = .next (retired i (u.upd fun c => c.writeX d v))))

/-! ### Control registers and tasks (R36 to R38, R109, R320 to R341, R367, R370) -/

/-- R367, R348, R370: ctlr reads the register that its number names, ctlw replaces it by x(a), or sets or clears the bits of x(a), and
returns the old value; afterwards that register reads what was written (status only in its writable bits), and every other
register reads as before but those that the rules couple to it; fflags and vatmap wait for the context's queued matrix instructions. A number that names no register, a register of supervisor
mode in user mode, a read-only register, and a value that the register does not take are the traps of R367. snap triggers a
snapshot and answers its sequence number, or all ones while one is held; the snapshot latches epc, PC, status, cause and cycle of
every core.
How the snapshot lies in its window is free (log 18). -/
def Obligations.ControlRegistersReadAndWrite : Prop :=
  (∀ (m : Mods) (d : Reg) (n : BitVec 12) (s : State),
    let i : Instr := .ctlr m d n
    issues i s →
    (s.ctlRead s.cx n.toNat = none → exec i s = .next (trapped i .illOperand (n.setWidth 64) s)) ∧
    (∀ v, s.ctlRead s.cx n.toNat = some v →
      (supervisorOnly n.toNat → s.cx.sup = false → exec i s = .next (trapped i .priv i.tval s)) ∧
      ((supervisorOnly n.toNat → s.cx.sup = true) → (n = 0x005 ∨ n = 0x00c → s.queued s.cx = false) →
        exec i s = .next (retired i (s.upd fun c => c.writeX d v))) ∧
      ((n = 0x005 ∨ n = 0x00c) → s.queued s.cx = true → waits i s))) ∧
  (∀ (m : Mods) (d a : Reg) (n : BitVec 12) (s : State) (i : Instr) (v old : Word), issues i s →
    (i = .ctlw m d a n ∧ v = s.cx.readX a ∨ i = .ctlwSet m d a n ∧ v = old ||| s.cx.readX a ∨
      i = .ctlwClr m d a n ∧ v = old &&& ~~~(s.cx.readX a)) →
    s.ctlRead s.cx n.toNat = some old →
    (supervisorOnly n.toNat → s.cx.sup = false → exec i s = .next (trapped i .priv i.tval s)) ∧
    ((n = 0x005 ∨ n = 0x00c) → s.queued s.cx = true → waits i s) ∧
    ((supervisorOnly n.toNat → s.cx.sup = true) → (n = 0x005 ∨ n = 0x00c → s.queued s.cx = false) →
      (n.toNat ∈ readOnlyRegisters → exec i s = .next (trapped i .illOperand v s)) ∧
      (n.toNat ∉ readOnlyRegisters →
        (∀ e, s.ctlTrap n.toNat v = some e → exec i s = .next (trapped i e v s)) ∧
        (s.ctlTrap n.toNat v = none →
          ∃ t : State, exec i s = .next (retired i (t.upd fun c => c.writeX d old)) ∧
            t.ctlRead t.cx n.toNat = some (if n = 0x305 then (v &&& 0x66) ||| (old &&& 0x81) else v) ∧
            (∀ k, k ≠ n.toNat → ¬ (k = 0x020 ∧ n = 0x021) → ¬ (k = 0x022 ∧ n = 0x023) →
              ¬ ((k = 0x205 ∨ k = 0x206) ∧ (n = 0x204 ∨ n = 0x102)) → t.ctlRead t.cx k = s.ctlRead s.cx k) ∧
            t.cx.x = s.cx.x ∧ t.cx.v = s.cx.v ∧ t.cx.p = s.cx.p ∧ t.cx.pc = s.cx.pc ∧ t.others = s.others ∧ t.mem = s.mem)))) ∧
  (∀ (d : Reg) (s : State), issues (.snap d) s →
    (s.dev.snapHeld = true →
      exec (.snap d) s = .next (retired (.snap d) (s.upd fun c => c.writeX d (BitVec.allOnes 64)))) ∧
    (s.dev.snapHeld = false →
      ∃ shown, exec (.snap d) s = .next (retired (.snap d)
        (State.upd { s with dev := { s.dev with snapSeq := s.dev.snapSeq + 1, snapHeld := true, snap := shown } } fun c =>
          c.writeX d ((s.dev.snapSeq + 1).setWidth 64))) ∧
        ∀ core slot c, s.inSlot core slot = some c → ∃ w, (core, w) ∈ shown ∧ [c.epc, c.pc, c.status] <:+: w ∧ c.cause ∈ w ∧
          Config.cycleAt s.ticks ∈ w))

/-- R109, R326, R332, R334, R338, R375 to R377: exit retires its instance once everything it issued is done, and counts it, and leaves its
registers; a gang member goes alone while others of its copy are left, and the last one of the copy counts it and takes its pipes
along; exit and tdone in a task end the task and give its slot back to the draw, which leaves what the slot holds to a task of the
same leaf and zeros to another; tdone outside a task is ILL_OPERAND; kpt ends a task that cannot improve on the incumbent and
otherwise does nothing; all three wait until everything is done, and report a peer store that was lost; bnd keeps the worse of two bounds, where an f32 NaN is the worst of all; spawn puts a record into its pool's ring, or
writes 0 to p(d) when the ring is full, or raises POOL_INVALID.
What a task keeps of the one before it is the model's reading (log 51). -/
def Obligations.TasksEndBoundAndSpawn : Prop :=
  (∀ (s : State) (r : Nat × Nat), issues .exit s → drainedNow s → s.cx.inTask = false → s.cx.leaf = some r → s.cx.gang = none →
    (s.ancestors r).Nodup →
    ∃ t, exec .exit s = .next t ∧ t.cx.phase = .absent ∧ t.cx.x = s.cx.x ∧ t.cx.v = s.cx.v ∧ t.cx.vhalo = s.cx.vhalo ∧
      t.others = s.others ∧ t.mem = s.mem ∧ t.tags = s.tags ∧
      ∀ q, t.node? q.1 q.2 = (s.node? q.1 q.2).map fun n =>
        if q ∈ s.ancestors r then { n with nret := min (2 ^ 32 - 1) (n.nret + 1) } else n) ∧
  (∀ (s : State) (r : Nat × Nat) (copy : Nat) (k : Nat), issues .exit s → drainedNow s → s.cx.inTask = false → s.cx.leaf = some r →
    s.cx.gang = some (copy, k) → (s.ancestors r).Nodup →
    ∃ t, exec .exit s = .next t ∧ t.cx.phase = .absent ∧ t.cx.x = s.cx.x ∧ t.cx.v = s.cx.v ∧ t.others = s.others ∧ t.mem = s.mem ∧
      ((∃ o ∈ s.copyOf r.1 r.2 copy, o.id ≠ s.cx.id) → t.dev.pipes = s.dev.pipes ∧ ∀ q : Nat × Nat, t.node? q.1 q.2 = s.node? q.1 q.2) ∧
      ((∀ o ∈ s.copyOf r.1 r.2 copy, o.id = s.cx.id) →
        t.dev.pipes = s.dev.pipes.filter (fun y => !(y.l == r.1 && y.n == r.2 && y.copy == copy)) ∧
        ∀ q, t.node? q.1 q.2 = (s.node? q.1 q.2).map fun n =>
          if q ∈ s.ancestors r then { n with nret := min (2 ^ 32 - 1) (n.nret + 1) } else n)) ∧
  (∀ (s : State) (i : Instr) (m : Mods),
    (i = .exit ∨ i = .tdone m ∧ s.cx.inTask = true ∨ i = .kpt m ∧ s.cx.inTask = true ∧ bitOf s.cx.task 28 = false ∧
      noBetter (s.dev.incmode.getLsbD (fld s.cx.task 0 4)) (fld s.cx.bound 0 32)
        (fld s.co.shadows[Fin.ofNat 16 (fld s.cx.task 0 4)] 32 32)) → issues i s →
    (s.drained s.cx = false → waits i s) ∧
    (∀ va, s.drained s.cx = true → s.cx.lostStore = some va → s.writesOut s.cx.id = false → lostStoreTraps i s va)) ∧
  (∀ (s : State) (i : Instr) (m : Mods), (i = .exit ∨ i = .tdone m) → issues i s → drainedNow s → s.cx.inTask = true →
    ∃ t, exec i s = .next t ∧ taskEnded s t) ∧
  (∀ (s : State) (m : Mods), issues (.tdone m) s → s.cx.inTask = false →
    ∃ v, exec (.tdone m) s = .next (trapped (.tdone m) .illOperand v s)) ∧
  (∀ (s : State) (m : Mods), issues (.kpt m) s →
    let k := fld s.cx.task 0 4
    let cut := s.cx.inTask = true ∧ bitOf s.cx.task 28 = false ∧
      noBetter (s.dev.incmode.getLsbD k) (fld s.cx.bound 0 32) (fld s.co.shadows[Fin.ofNat 16 k] 32 32)
    (¬ cut → exec (.kpt m) s = .next (retired (.kpt m) s)) ∧
    (cut → drainedNow s → ∃ t, exec (.kpt m) s = .next t ∧ taskEnded s t)) ∧
  (∀ (s : State) (m : Mods) (a : Reg), issues (.bnd m a) s →
    (s.cx.inTask = true → ∃ b : BitVec 32,
      exec (.bnd m a) s = .next (retired (.bnd m a) (s.upd fun c => { c with bound := b.setWidth 64 })) ∧
      (b = s.cx.bound.setWidth 32 ∨ b = (s.cx.readX a).setWidth 32) ∧
      (s.dev.incmode.getLsbD (fld s.cx.task 0 4) = false →
        b.toInt = max (s.cx.bound.setWidth 32).toInt ((s.cx.readX a).setWidth 32).toInt) ∧
      (s.dev.incmode.getLsbD (fld s.cx.task 0 4) = true →
        let old : BitVec 32 := s.cx.bound.setWidth 32
        let new : BitVec 32 := (s.cx.readX a).setWidth 32
        ((fmtVal .f32 old.toNat).isNan = true → b = old) ∧
        ((fmtVal .f32 old.toNat).isNan = false → (fmtVal .f32 new.toNat).isNan = true → b = new) ∧
        ((fmtVal .f32 old.toNat).isNan = false → (fmtVal .f32 new.toNat).isNan = false →
          b = if cmpVal (fmtVal .f32 old.toNat) (fmtVal .f32 new.toNat) = some .lt then new else old))) ∧
    (s.cx.inTask = false → ∃ v, exec (.bnd m a) s = .next (trapped (.bnd m a) .illOperand v s))) ∧
  (∀ (s : State) (m : Mods) (d a b c : Reg),
    let i : Instr := .spawn m d a b c
    let pc := s.cx.readX a
    let desc := s.cx.readX b
    let live := if m.form = .c then s.cx.readX (b + 1) else s.cx.readX c
    let regs := (List.range 64).filter fun j => bitOf live j
    issues i s → (m.form = .c → b.toNat % 2 = 0) →
    (fld desc 4 15 ≠ 0 → exec i s = .next (trapped i .illEnc desc s)) ∧
    (fld desc 4 15 = 0 → fld pc 0 2 = 0 → fld pc 56 8 = 0 → bitOf live 0 = false → regs.length ≤ 16 →
      (s.spawnPool (fld desc 20 12) = none →
        exec i s = .next (trapped i .poolInvalid (BitVec.ofNat 64 (fld desc 20 12)) s)) ∧
      (∀ l k n, s.spawnPool (fld desc 20 12) = some (l, k, n) →
        (n.count ≤ (n.prod - n.cons).toNat → exec i s = .next (retired i (s.upd fun y => y.writeP d 0))) ∧
        ((n.prod - n.cons).toNat < n.count → released s →
          ∃ r : BitVec 2048, exec i s = .next (retired i ((s.produce l k n r).upd fun y => y.writeP d (BitVec.allOnes 4096))) ∧
            rb2 r 0 8 = pc.toNat ∧ rb2 r 8 8 = live.toNat ∧ rb2 r 0x10 4 = fld desc 32 32 ∧ rb2 r 0x14 2 = fld desc 20 12 ∧
            rb2 r 0x16 1 = fld desc 0 4 + 128 * fld desc 19 1 ∧
            ∀ j < 16, rb2 r (0x40 + 8 * j) 8 = ((regs.map fun q => (s.cx.readX (BitVec.ofNat 6 q)).toNat).getD j 0)))))

/-- R274, R281, R335: a suspension takes the task off its context: the record of pc, tlive, bound and registers goes into the tower's
buffer with what it waits for, and the slot draws again; suspend.row starts its activation and a context of its own keeps the
handles. epop.sus stalls while more than one command is in flight, suspends until the last one's element is there, and with none in
flight, or outside a task, takes an element as epop does and acquires at its command's scope; gwait.sus on a finished entry does not
suspend. The load of suspend.ld reads what the caves show, and waits for a held layer. When the wait is over the record goes into
the ring of its pool.
The cases of epop.sus and gwait.sus are the model's reading (log 50, log 54). -/
def Obligations.SuspensionsLeaveARecord : Prop :=
  (∀ (s : State) (m : Mods), issues (.suspend m) s →
    (s.cx.inTask = false → ∃ v, exec (.suspend m) s = .next (trapped (.suspend m) .illOperand v s)) ∧
    (s.cx.inTask = true → drainedNow s → s.tw.susp.length < 4096 →
      ∃ t e, exec (.suspend m) s = .next t ∧ taskEnded s t ∧ t.tw.susp = s.tw.susp ++ [e] ∧
        suspends s (.suspend m) e ∧ e.wait = .ready ∧ e.deliver = .none ∧ e.parked = none)) ∧
  (∀ (s t : State) (m : Mods) (d a : Reg) (ls : List Loc) (l : Loc), issues (.suspendLd m d a) s → s.cx.inTask = true →
    ((s.cx.readX a).toNat % 64 ≠ 0 →
      exec (.suspendLd m d a) s = .next (trapped (.suspendLd m d a) .align (s.cx.readX a) s)) ∧
    ((s.cx.readX a).toNat % 64 = 0 → s.resolve s.cx .g .load (s.cx.readX a) 64 = .ok (t, .g (l :: ls)) →
      Place.inReg (.g (l :: ls)) = false → s.peerFails (.g (l :: ls)) = false → s.poisoned (.g (l :: ls)) = false →
      s.walkMeets s.cx .g .load (s.cx.readX a) 64 = .free →
      drainedNow s → s.tw.susp.length < 4096 →
      ∃ u e, exec (.suspendLd m d a) s = .next u ∧ u.tw.susp = s.tw.susp ++ [e] ∧ suspends s (.suspendLd m d a) e ∧
        e.wait = .load l.pa s.cx.pc (s.cx.readX a) ∧ e.deliver = .regs d 8 ∧ e.parked = none ∧
        u.pend = s.pend ++ [.load (towerOf s.cx.coreid) (s.cx.leaf.getD (0, 0)) (Place.pairs (.g (l :: ls)))
          ((l :: ls).any Loc.uc)]) ∧
    ((s.cx.readX a).toNat % 64 = 0 → s.resolve s.cx .g .load (s.cx.readX a) 64 = .ok (t, .g (l :: ls)) →
      s.peerFails (.g (l :: ls)) = true →
      exec (.suspendLd m d a) s = .next (trapped (.suspendLd m d a) .dataAccess (s.cx.readX a) s))) ∧
  (∀ (s : State) (m : Mods) (d a : Reg), issues (.suspendRow m d a) s → s.cx.inTask = true →
    (∀ c v, s.rowactTrap d (s.cx.readX a) = some (c, v) →
      exec (.suspendRow m d a) s = .next (trapped (.suspendRow m d a) c v s)) ∧
    (s.rowactTrap d (s.cx.readX a) = none → drainedNow s → s.tw.susp.length < 4096 →
      ∃ t e q, exec (.suspendRow m d a) s = .next t ∧ t.tw.susp = s.tw.susp ++ [e] ∧ suspends s (.suspendRow m d a) e ∧
        e.wait = .row (d.setWidth 4) ∧ e.deliver = .row ∧ e.parked = some s.cx.id ∧
        t.others = q :: s.others ∧ q.id = s.cx.id ∧ q.phase = .parked ∧
        ((q.handle d).group = .opening (s.cx.readX a).toNat ∨ (q.handle d).group = .claimed (s.cx.readX a).toNat))) ∧
  (∀ (s : State) (m : Mods) (d : Reg) (gt : Bool), issues (.epopSus m d gt) s →
    let h := s.cx.chan gt
    (∀ e es c cs, (s.cx.inTask = false ∨ h.infl = 0) → h.ring = e :: es → h.scopes = c :: cs →
      exec (.epopSus m d gt) s = .next (retired (.epopSus m d gt) (State.acquire (s.upd fun x =>
        ((x.setChan gt { h with ring := es, scopes := cs }).writeX d (e.extractLsb' 0 64)).writeX (d + 1)
          (e.extractLsb' 64 64)) c))) ∧
    (s.cx.inTask = true → 1 < h.infl → waits (.epopSus m d gt) s) ∧
    (s.cx.inTask = true → h.infl = 1 → s.drainBut (some gt) none = .ok s → s.tw.susp.length < 4096 →
      ∃ t e q, exec (.epopSus m d gt) s = .next t ∧ t.tw.susp = s.tw.susp ++ [e] ∧ suspends s (.epopSus m d gt) e ∧
        e.wait = .command gt ∧ e.deliver = .regs d 2 ∧ e.parked = some s.cx.id ∧ t.others = q :: s.others ∧ q.id = s.cx.id ∧
        q.phase = .parked ∧ q.chan gt = { h with ring := [], scopes := [] })) ∧
  (∀ (s : State) (m : Mods) (a : Reg), issues (.gwaitSus m a) s →
    let k := (s.cx.readX a).toNat
    s.table.owned s.cx.id k = true →
    ((s.table.at k).st = .done → exec (.gwaitSus m a) s = .next (retired (.gwaitSus m a) (s.acquire .sys))) ∧
    ((s.table.at k).isPending = true → s.cx.inTask = true → s.drainBut none (some k) = .ok s → s.tw.susp.length < 4096 →
      ∃ t e, exec (.gwaitSus m a) s = .next t ∧ t.tw.susp = s.tw.susp ++ [e] ∧ suspends s (.gwaitSus m a) e ∧
        e.wait = .node s.cx.coreid k ∧ e.parked = some s.cx.id ∧ t.table.at k = s.table.at k)) ∧
  (∀ (s : State) (t : BitVec 3) (n : Nat) (e : Susp) (l : Launch) (x : Node), (s.tower t).susp[n]? = some e → e.wait = .ready →
    e.parked = none → s.launch? e.leaf.1 = some l → s.node? e.leaf.1 e.leaf.2 = some x →
    (x.stopped = false → (x.prod - x.cons).toNat < x.count →
      exec (.suspendComplete t n) s = .next
        (((s.setTower t { s.tower t with susp := (s.tower t).susp.eraseIdx n }).mapNode e.leaf.1 e.leaf.2 fun y =>
          { y with resumes := y.resumes ++ [⟨y.prod, e.deliver, none, .tow⟩] }).produce l e.leaf.2 x e.image)) ∧
    (x.stopped = false → x.count ≤ (x.prod - x.cons).toNat → exec (.suspendComplete t n) s = .next s)) ∧
  (∀ (s : State) (n : Nat) (t : BitVec 3) (leaf : Nat × Nat) (l : Nat × Nat) (ls : List (Nat × Nat)) (uc : Bool) (k : Nat)
    (pc va : Word) (e : Susp), s.pend[n]? = some (.load t leaf (l :: ls) uc) →
    s.loadWaiter t leaf l.1 = some (k, pc, va) → (s.tower t).susp[k]? = some e →
    ((∃ b ∈ l :: ls, s.loadWaits none ⟨b.1, b.2, uc⟩ = true) → exec (.loadPerform n) s = .next s) ∧
    ((∀ b ∈ l :: ls, s.loadWaits none ⟨b.1, b.2, uc⟩ = false) → (∃ b ∈ l :: ls, lineOf b.2 ∈ s.poison) →
      ∃ u, exec (.loadPerform n) s = .next u ∧ u.pend = s.pend.eraseIdx n ∧
        (u.tower t).susp[k]? = some { e with wait := .ready, deliver := .fault .dataLost pc va }) ∧
    ((∀ b ∈ l :: ls, s.loadWaits none ⟨b.1, b.2, uc⟩ = false) → (∀ b ∈ l :: ls, lineOf b.2 ∉ s.poison) →
      ∃ u e', exec (.loadPerform n) s = .next u ∧ u.pend = s.pend.eraseIdx n ∧ (u.tower t).susp[k]? = some e' ∧
        e'.wait = .ready ∧ e'.leaf = e.leaf ∧ e'.deliver = e.deliver ∧ e'.image.setWidth 1536 = e.image.setWidth 1536 ∧
        (ls.length = 63 → ∀ j < 64, ∀ b, (l :: ls)[j]? = some b →
          e'.image.extractLsb' (1536 + 8 * j) 8 = s.caveByte t ⟨b.1, b.2, uc⟩)))

/-- R327 to R331, R339, R340: an incumbent takes a key that is better, smaller in its objective or equal and smaller in its payload,
and keeps what it holds otherwise; incupd answers the key from before, incupd.set stores whatever the key is, in supervisor
mode; an f32 NaN is GRADER_INVALID; incrd reads the incumbent or the core's shadow, which a refresh sets to it. -/
def Obligations.IncumbentsKeepTheBetterKey : Prop :=
  (∀ (s : State) (m : Mods) (d a b : Reg) (i : Instr) (set : Bool),
    (i = .incupd m d a b ∧ set = false ∨ i = .incupdSet m d a b ∧ set = true) → issues i s →
    let key := s.cx.readX a
    let f := s.dev.incmode.getLsbD b.toNat
    let old := s.dev.inc[Fin.ofNat 16 b.toNat]
    (set = true → s.cx.sup = false → exec i s = .next (trapped i .priv i.tval s)) ∧
    ((set = true → s.cx.sup = true) → f = true → (fmtVal .f32 (fld key 32 32)).isNan = true →
      exec i s = .next (trapped i .graderInvalid key s)) ∧
    ((set = true → s.cx.sup = true) → (f = true → (fmtVal .f32 (fld key 32 32)).isNan = false) → released s →
      ∃ new : Word, exec i s = .next (retired i
          (State.upd { s with dev := { s.dev with inc := s.dev.inc.set (Fin.ofNat 16 b.toNat) new } } fun c => c.writeX d old)) ∧
        ((set = true ∨ betterKey f (asKey f key) old) → new = asKey f key) ∧
        (set = false → ¬ betterKey f (asKey f key) old → new = old))) ∧
  (∀ (s : State) (m : Mods) (d a : Reg), issues (.incrd m d a) s → exec (.incrd m d a) s = .next (retired (.incrd m d a)
    ((s.acquire .dev).upd fun c => c.writeX d s.dev.inc[Fin.ofNat 16 a.toNat]))) ∧
  (∀ (s : State) (m : Mods) (d a : Reg), issues (.incrdSh m d a) s → exec (.incrdSh m d a) s = .next (retired (.incrdSh m d a)
    (s.upd fun c => c.writeX d s.co.shadows[Fin.ofNat 16 a.toNat]))) ∧
  (∀ (s : State) (k : BitVec 4) (key : Word),
    let f := s.dev.incmode.getLsbD k.toNat
    let old := s.dev.inc[Fin.ofNat 16 k.toNat]
    (f = true → (fmtVal .f32 (fld key 32 32)).isNan = false) →
    ∃ new : Word, exec (.graderUpdate k key) s =
        .next { s with dev := { s.dev with inc := s.dev.inc.set (Fin.ofNat 16 k.toNat) new } } ∧
      (betterKey f (asKey f key) old → new = asKey f key) ∧ (¬ betterKey f (asKey f key) old → new = old)) ∧
  (∀ (s : State) (core : BitVec 12) (k : BitVec 4),
    (∃ t, exec (.shadowRefresh false core k) s = .next t ∧ (t.core core).shadows[k.toNat] = s.dev.inc[k.toNat] ∧
      (∀ j : Fin 16, j.val ≠ k.toNat → (t.core core).shadows[j] = (s.core core).shadows[j]) ∧ t.cx = s.cx ∧ t.dev = s.dev) ∧
    (∃ t, exec (.shadowRefresh true core k) s = .next t ∧
      (t.tower (towerOf core)).shadows[k.toNat] = s.dev.inc[k.toNat] ∧ t.cx = s.cx ∧ t.dev = s.dev))

/-! ### Launching, placement and retirement (R25 to R64, R356 to R380) -/

/-- R43 to R46: the four launch registers of a page take what is written and mark it in WR; GO captures them and starts a check, or
sets DROP while one runs, and does nothing in recovery; a grant gives a page its check word, address space and right.
What CODE and LP.BAD read while STATE is 1 is the model's choice (log 93). -/
def Obligations.LaunchPortsTakeTheirRegisters : Prop :=
  ∀ (s : State) (page : BitVec 6) (v : Word),
    let p := s.port page
    exec (.lpAddr page v) s = .next (s.setPort page { p with addr := v, wr := p.wr ||| 1 }) ∧
    exec (.lpArg page v) s = .next (s.setPort page { p with arg := v, wr := p.wr ||| 2 }) ∧
    exec (.lpToken page v) s = .next (s.setPort page { p with token := v, wr := p.wr ||| 4 }) ∧
    exec (.lpFlags page v) s = .next (s.setPort page { p with flags := v, wr := p.wr ||| 8 }) ∧
    (s.dev.recov = false → p.st = 1 → exec (.lpGo page v) s = .next (s.setPort page { p with drop := true })) ∧
    (s.dev.recov = false → p.st ≠ 1 → exec (.lpGo page v) s = .next (s.setPort page { p with
      capWr := p.wr, capAddr := p.addr, capArg := p.arg, capToken := p.token, capFlags := p.flags
      wr := 0, drop := false, st := 1, code := 0, seq := v.setWidth 16, bad := 0 })) ∧
    (s.dev.recov = true → exec (.lpGo page v) s = .next s) ∧
    (∀ (check : BitVec 32) (asid : BitVec 16) (root : Word) (sup : Bool), s.dev.fwok = true →
      exec (.portPageGrant page check asid root sup) s = .next (s.setPort page { p with
        granted := true, check := check, asid := asid, root := root &&& 0x0000fffffffff800, sup := sup })) ∧
    (∀ q : Port, (s.setPort page q).port page = q ∧
      ∀ other, other ≠ page → (s.setPort page q).port other = s.port other)

/-- R42, R44, R45, R47 to R49, R51, R56, R81, R201: a check rejects a launch whose registers were not all written (0x10), whose page has no such
grant (0x11) or whose reserved bits are not 0 (0x13), then with the code and the block at which the tree fails, and otherwise
accepts it into the launch queue; regl does the same for the context's own tree and answers the code; both wait while a walk of the
tree waits to set ACC in a held row (R234); a launch that nothing holds
back goes live, seeds the towers that held none, and empties their instruction caches of its address space.
Which of several rejections is reported, a page that was never granted, and EXCL within one address space, are the model's
choices (log 15, log 93). -/
def Obligations.LaunchesAreCheckedAndQueued : Prop :=
  (∀ (s : State) (page : BitVec 6),
    let p := s.port page
    p.st = 1 → (∀ l ∈ s.dev.launches, ¬ (l.page = some page ∧ l.st = .validating)) →
    let grant := p.granted = true ∧ p.check = p.capToken.extractLsb' 32 32 ∧ p.asid = p.capToken.extractLsb' 16 16
    let clear := p.capAddr &&& 0xff0000000000007f = 0 ∧ p.capToken &&& 0xfffc = 0 ∧ p.capFlags &&& 0xfffffffffffffe00 = 0
    let rejects (t : State) (code : BitVec 8) (bad : Word) : Prop :=
      exec (.launchCheck page) s = .next (t.setPort page { t.port page with st := 3, code := code, bad := bad })
    (p.capWr ≠ 15 → rejects s 0x10 0) ∧
    (p.capWr = 15 → ¬ grant → rejects s 0x11 0) ∧
    (p.capWr = 15 → grant → ¬ clear → rejects s 0x13 0) ∧
    (p.capWr = 15 → grant → clear →
      (∀ t res, s.checkTree p.req p.capAddr = (t, res) → s.marksWait t = true → exec (.launchCheck page) s = .next s) ∧
      (∀ t code bad, s.checkTree p.req p.capAddr = (t, .error (code, bad)) → s.marksWait t = false → rejects t code bad) ∧
      (∀ t nodes, s.checkTree p.req p.capAddr = (t, .ok nodes) → s.marksWait t = false → t.assisted 5 = false →
        ∃ u l, exec (.launchCheck page) s = .next u ∧ u.dev.launches = t.dev.launches ++ [l] ∧ l.num = t.dev.nextLaunch ∧
          l.st = .queued ∧ l.page = some page ∧ l.nodes = nodes ∧ l.sup = p.sup ∧ (u.port page).st = 2 ∧ (u.port page).code = 0 ∧
          u.dev.nextLaunch = t.dev.nextLaunch + 1 ∧ u.mem = t.mem))) ∧
  (∀ (s t : State) (q : Req) (root : Word) (v : Nat),
    (root.toNat % 128 ≠ 0 → s.checkTree q root = (s, .error (0x06, root))) ∧
    (root.toNat % 128 = 0 → s.treeRead q root.toNat 128 = none → s.checkTree q root = (s, .error (0x09, root))) ∧
    (root.toNat % 128 = 0 → s.treeRead q root.toNat 128 = some (v, t) →
      (badShape (BitVec.ofNat 1024 v) = true → s.checkTree q root = (t, .error (0x01, root))) ∧
      (badShape (BitVec.ofNat 1024 v) = false → badReserved (BitVec.ofNat 1024 v) true = true →
        s.checkTree q root = (t, .error (0x02, root))) ∧
      (badShape (BitVec.ofNat 1024 v) = false → badReserved (BitVec.ofNat 1024 v) true = false →
        badRange q (BitVec.ofNat 1024 v) true = true → s.checkTree q root = (t, .error (0x03, root))))) ∧
  (∀ (s t : State) (m : Mods) (d a : Reg), issues (.regl m d a) s → released s → (∀ l ∈ s.dev.launches, l.issuer ≠ some s.cx.id) →
    (∀ res, s.checkTree s.reglReq (s.cx.readX a) = (t, res) → s.marksWait t = true → waits (.regl m d a) s) ∧
    (∀ code bad, s.checkTree s.reglReq (s.cx.readX a) = (t, .error (code, bad)) → s.marksWait t = false →
      exec (.regl m d a) s = .next (retired (.regl m d a) (t.upd fun c =>
        c.writeX d ((bad &&& 0xffffffffffffff80) ||| code.setWidth 64)))) ∧
    (∀ nodes, s.checkTree s.reglReq (s.cx.readX a) = (t, .ok nodes) → s.marksWait t = false → t.assisted 5 = false →
      ∃ (u : State) (l : Launch), exec (.regl m d a) s = .next (retired (.regl m d a) (u.upd fun c => c.writeX d 0)) ∧
        u.dev.launches = t.dev.launches ++ [l] ∧ l.num = t.dev.nextLaunch ∧ l.st = .queued ∧ l.page = none ∧
        l.parent = s.cx.leaf ∧ l.nodes = nodes ∧ l.ptbase = s.cx.ptbase ∧ u.cx = t.cx ∧ u.mem = t.mem)) ∧
  (∀ (s : State) (n : Nat) (l : Launch), s.launch? n = some l → l.st = .queued → s.excluded l = false → s.queuesFull l = false →
    (∀ y ∈ s.dev.launches.takeWhile fun y => y.num != n, y.st = .queued → s.excluded y = true) →
    ∃ t, exec (.launchDequeue n) s = .next t ∧ t.launch? n = some { l with st := .live } ∧
      (∀ k, k ≠ n → t.launch? k = s.launch? k) ∧ t.cx = s.cx ∧ t.mem = s.mem ∧
      (∀ n : BitVec 12, l.inTower (towerOf n) = true → ∀ e ∈ (t.core n).code, e.asid ≠ fld l.ptbase 48 16) ∧
      (∀ r ∈ t.dev.rind, r.copy.asid ≠ fld l.ptbase 48 16) ∧
      ∀ w : BitVec 3, (t.tower w).gen =
        if l.inTower w = true ∧ (∀ x ∈ s.dev.launches, x.st = .live → x.inTower w = false)
        then (let seed := ((l.nodes.head?).map Node.seed).getD 0; if seed = 0 then 0x2545f491 else seed)
        else (s.tower w).gen)

/-- R30, R34, R41, R53 to R59, R321, R324, R325, R331: a phase byte that no producer writes at a pool's head is reported at once; among
the eligible queues of the highest class the draw takes the first that lost 4096 times, else the one that the walk over the tickets
names, and counts losses; the work of the winner starts: an instance, the members of a gang copy, a slot that waits for a record,
or a graph leaf: code, arguments, identity and grants are as a context start has them; with none it does nothing; a slot takes the record at its pool's head and
starts the task, an acquire, with what the record holds, or counts it culled when its bound cannot improve.
The registers that no rule names, and the loss counters, start at 0 by the model's choice (log 3, log 51, log 71, log 93). -/
def Obligations.WorkIsPlacedAndDispatched : Prop :=
  (∀ (s : State) (t : BitVec 3) (q : Queue),
    (s.queuesOf t).find? (fun q => q.n.kind == .pool && s.poolServed q.l q.k q.n && s.headBad q.l q.n) = some q →
    s.node? q.l.num q.k = some q.n →
    ∃ u m, exec (.placementDraw t) s = .next u ∧ u.node? q.l.num q.k = some m ∧ m.cons = q.n.cons + 1 ∧
      m.faults = min 65535 (q.n.faults + 1)) ∧
  (∀ (s : State) (t : BitVec 3) (q : Queue) (core : BitVec 12),
    (∀ q ∈ s.queuesOf t, q.n.kind = .pool → s.poolServed q.l q.k q.n = true → s.headBad q.l q.n = false) →
    ((s.queuesOf t).filter fun q => (s.spotFor t q).isSome) = [q] → q.n.kind = .kernel → s.spotFor t q = some (.core core) →
    0 < q.n.tickets →
    ∃ u c, exec (.placementDraw t) s = .next u ∧ u.others = c :: s.others ∧ u.cx = s.cx ∧ u.mem = s.mem ∧
      c.phase = .running ∧ c.stall = .none ∧ c.leaf = some (q.l.num, q.k) ∧ c.coreid = core ∧ c.pc = q.n.code ∧ c.prev = 0 ∧
      c.inst = BitVec.ofNat 64 q.n.placed ∧ c.region = q.n.addr ∧ c.ptbase = q.l.ptbase ∧
      c.status = (if q.l.sup then 1 else 0) ∧ c.scrLog = q.n.scr ∧ c.cavepart = q.n.cave ∧ c.scratch = [] ∧ c.cave = [] ∧
      c.vatmap = BitVec.ofNat 4 (2 ^ q.n.vat - 1) ∧
      (∀ r : Fin 64, c.x[r] = if 1 ≤ r.val ∧ r.val ≤ 8 then q.n.args.getD (r.val - 1) 0 else 0) ∧
      (u.tower t).gen = nextGen (s.tower t).gen) ∧
  (∀ (s : State) (t : BitVec 3),
    (∀ q ∈ s.queuesOf t, q.n.kind = .pool → s.poolServed q.l q.k q.n = true → s.headBad q.l q.n = false) →
    (∀ q ∈ s.queuesOf t, (s.spotFor t q).isNone = true) → exec (.placementDraw t) s = .next s) ∧
  (∀ (s : State) (t : BitVec 3) (top : Nat) (pre post : List Queue) (q : Queue) (spot : Spot),
    let el := (s.queuesOf t).filter fun q => (s.spotFor t q).isSome
    let cs := el.filter fun q => q.n.cls == top
    let x := nextGen (s.tower t).gen
    let w := x.toNat * (cs.map fun q => q.n.tickets).sum / 2 ^ 32
    let before := (pre.map fun q => q.n.tickets).sum
    (∀ q ∈ s.queuesOf t, q.n.kind = .pool → s.poolServed q.l q.k q.n = true → s.headBad q.l q.n = false) →
    (∀ r ∈ el, r.n.cls ≤ top) → cs = pre ++ q :: post → s.spotFor t q = some spot →
    (s.dev.launches.map Launch.num).Nodup →
    ((4096 ≤ q.n.loss[t.toNat] ∧ ∀ r ∈ pre, r.n.loss[t.toNat] < 4096) ∨
      ((∀ r ∈ cs, r.n.loss[t.toNat] < 4096) ∧ before ≤ w ∧ w < before + q.n.tickets)) →
    ∃ u : State, exec (.placementDraw t) s = .next (u.placeAt t q spot) ∧ u.cx = s.cx ∧ u.others = s.others ∧ u.mem = s.mem ∧
      (u.tower t).gen = x ∧ u.node? q.l.num q.k = some { q.n with loss := q.n.loss.set t.toNat 0 } ∧
      (∀ r ∈ cs, (r.l.num, r.k) ≠ (q.l.num, q.k) →
        u.node? r.l.num r.k = some { r.n with loss := r.n.loss.set t.toNat (r.n.loss[t.toNat] + 1) }) ∧
      ∀ l k, (∀ r ∈ cs, (r.l.num, r.k) ≠ (l, k)) → u.node? l k = s.node? l k) ∧
  (∀ (s : State) (t : BitVec 3) (q : Queue) (n : Node), s.node? q.l.num q.k = some n →
    (∀ cluster, q.n.kind = .gang →
      let u := s.placeAt t q (.cluster cluster)
      u.cx = s.cx ∧ u.mem = s.mem ∧ u.others.length = s.others.length + q.n.members.length ∧ s.others <:+ u.others ∧
        u.node? q.l.num q.k = some { n with placed := q.n.placed + 1 } ∧
        ∀ (m : Nat) (x : Member), q.n.members[m]? = some x → ∃ c ∈ u.others, c.id = s.dev.nextCtx + m ∧ c.phase = .running ∧
          c.stall = .none ∧ c.leaf = some (q.l.num, q.k) ∧ c.gang = some (q.n.placed, m) ∧ c.coreid = coreIn t cluster m ∧
          c.inst = BitVec.ofNat 64 (4 * q.n.placed + m) ∧ c.pc = x.code ∧ c.prev = 0 ∧ c.region = q.n.addr ∧
          c.ptbase = q.l.ptbase ∧ c.status = (if q.l.sup then 1 else 0) ∧ c.scrLog = x.scr ∧ c.cavepart = x.cave ∧
          c.vatmap = BitVec.ofNat 4 (2 ^ x.vat - 1) ∧ c.scratch = [] ∧ c.cave = [] ∧
          ∀ r : Fin 64, c.x[r] = if 1 ≤ r.val ∧ r.val ≤ 8 then q.n.args.getD (r.val - 1) 0 else 0) ∧
    (∀ core, q.n.kind = .pool →
      let u := s.placeAt t q (.core core)
      ∃ c, u.others = c :: s.others ∧ u.cx = s.cx ∧ u.mem = s.mem ∧ u.dev.launches = s.dev.launches ∧ c.id = s.dev.nextCtx ∧
        c.phase = .awaitTask ∧ c.leaf = some (q.l.num, q.k) ∧ c.coreid = core ∧ c.region = q.n.addr ∧ c.ptbase = q.l.ptbase ∧
        c.scrLog = q.n.scr ∧ c.cavepart = q.n.cave ∧ c.vatmap = BitVec.ofNat 4 (2 ^ q.n.vat - 1) ∧ c.scratch = [] ∧ c.cave = []) ∧
    (let u := s.placeAt t q .table;
      u.ctxs = s.ctxs ∧ u.mem = s.mem ∧ u.node? q.l.num q.k = some { n with placed := 1 })) ∧
  (∀ (s t : State) (id : Nat) (c : Ctx) (leaf : Nat × Nat) (l : Launch) (n : Node) (v : Nat),
    let r : BitVec 2048 := BitVec.ofNat 2048 v
    let k := rb2 r 0x16 1 % 16
    let live := BitVec.ofNat 64 (rb2 r 8 8)
    let regs := (List.range 64).filter fun j => bitOf live j
    s.ctx? id = some c → c.phase = .awaitTask → c.leaf = some leaf → s.launch? leaf.1 = some l → s.node? leaf.1 leaf.2 = some n →
    s.poolReady l leaf.2 n c.coreid = true → s.deviceRead l.ptbase (n.slotAddr n.cons) 256 = some (v, t) → n.resumes = [] →
    recordInvalid r (auxPool n.aux) = false →
    let cut := rb2 r 0x16 1 < 128 ∧
      noBetter (s.dev.incmode.getLsbD k) (rb2 r 0x10 4) (fld (s.tower (towerOf c.coreid)).shadows[Fin.ofNat 16 k] 32 32)
    (¬ cut → ∃ u d, exec (.poolDispatch id) s = .next u ∧ u.ctx? id = some d ∧ d.phase = .running ∧
      d.pc = BitVec.ofNat 64 (rb2 r 0 8) ∧ d.tlive = live ∧ d.bound = BitVec.ofNat 64 (rb2 r 0x10 4) ∧ bitOf d.task 63 = true ∧
      fld d.task 0 4 = k ∧ fld d.task 16 12 = auxPool n.aux ∧ bitOf d.task 28 = decide (128 ≤ rb2 r 0x16 1) ∧
      d.status = (if l.sup then 1 else 0) ∧ d.v = c.v ∧ d.scratch = c.scratch ∧
      (∀ j q, regs[j]? = some q → d.readX (BitVec.ofNat 6 q) = BitVec.ofNat 64 (rb2 r (0x40 + 8 * j) 8)) ∧
      (∀ q < 64, q ∉ regs → d.readX (BitVec.ofNat 6 q) = 0) ∧
      u.node? leaf.1 leaf.2 = some { n with cons := n.cons + 1 } ∧ (u.core c.coreid).l1 = []) ∧
    (cut → ∃ u m, exec (.poolDispatch id) s = .next u ∧ u.node? leaf.1 leaf.2 = some m ∧ m.cons = n.cons + 1 ∧
      m.culled = n.culled + 1))

/-- R64, R356 to R361, R376 to R380: the victim of work that waits for room is saved into the lowest free slot of its leaf, its
registers each at its place of the slot, when nothing keeps a write of the slot from memory (log 30), and leaves its core, or is handed to the host, and comes back, on a core where it fits, with the bricks and predicates that its slot holds; a
node whose condition holds retires when its completion word can be performed: the word in memory at DONE, and for the root its
interrupt and the launch's end.
The free areas of a slot, when a context may be switched out, what of a slot's grants is taken, and what fits, are the
model's choices (log 30, log 32, log 33, log 39, log 75, log 93). -/
def Obligations.ContextsComeAndGoAndNodesRetire : Prop :=
  (∀ (s : State) (id k : Nat) (c : Ctx) (ks : List Nat), s.ctx? id = some c →
    (s.isVictim c = false → exec (.preemptSwitchOut id) s = .next s) ∧
    (s.isVictim c = true → c.gang = none → s.canSwitch c = true → s.assisted 2 = false → s.saveSlots c = k :: ks → c.id = id →
      ((s.switchAll [c] (s.saveSlots c)).pend.length ≠ s.pend.length → exec (.preemptSwitchOut id) s = .next s) ∧
      ((s.switchAll [c] (s.saveSlots c)).pend.length = s.pend.length →
        ∃ t d items, exec (.preemptSwitchOut id) s = .next t ∧ t.ctx? id = some d ∧ d.phase = .switchedOut ∧ d.saveSlot = some k ∧
          d.epc = c.pc ∧ d.cause = c.cause ∧ d.tval = c.tval ∧ d.v = c.v ∧ d.p = c.p ∧ d.cavepart = c.cavepart ∧
          d.sc = c.sc ∧ d.a = c.a ∧ d.mask = c.mask ∧ d.scratch = c.scratch ∧ d.vatmap = c.vatmap ∧ d.scrLog = c.scrLog ∧
          (c.replay = none → d.x = c.x ∧ d.vl = c.vl ∧ d.vtype = c.vtype) ∧
          (c.replay = none → c.stall = .none → fld d.inflight 61 3 = 0) ∧ slotOf s c d k items t)) ∧
    (s.isVictim c = true → c.gang = none → s.canSwitch c = true → s.assisted 2 = true → s.saving = false → c.id = id →
      ∃ t d, exec (.preemptSwitchOut id) s = .next t ∧ t.ctx? id = some d ∧ d.phase = .stopped ∧ d.hostSave = .asked ∧
        d.epc = c.pc ∧ d.v = c.v ∧ d.p = c.p ∧ t.dev.launches = s.dev.launches)) ∧
  (∀ (s : State) (id : Nat) (core : BitVec 12) (c : Ctx), s.ctx? id = some c → c.id = id → id ≠ 0 →
    (c.phase ≠ .switchedOut → ¬ (c.phase = .stopped ∧ c.hostSave = .answered) → exec (.contextResume id core) s = .next s) ∧
    (c.phase = .stopped → c.hostSave = .answered → c.gang = none → core = c.coreid →
      ((s.layersFree c core = false ∨ s.lowerOut c = true) → exec (.contextResume id core) s = .next s) ∧
      (s.layersFree c core = true → s.lowerOut c = false → ∃ t d, exec (.contextResume id core) s = .next t ∧ t.ctx? id = some d ∧ d.phase = .running ∧
        d.hostSave = .no ∧ d.saveSlot = none ∧ d.coreid = core ∧ (c.vp = none → d.v = c.v) ∧ d.p = c.p)) ∧
    (c.phase = .switchedOut → c.gang = none →
      (s.resumeFits c core = false ∨ s.lowerOut c = true ∨ s.slotWaits c = true ∨
        s.resumeCaps [c] [core] (towerOf core) = false) →
      exec (.contextResume id core) s = .next s) ∧
    (c.phase = .switchedOut → c.gang = none → s.resumeFits c core = true → s.lowerOut c = false → s.slotWaits c = false →
      s.resumeCaps [c] [core] (towerOf core) = true →
      ∃ t d, exec (.contextResume id core) s = .next t ∧ t.ctx? id = some d ∧ d.phase = .running ∧ d.saveSlot = none ∧
        d.coreid = core ∧ d.leaf = c.leaf ∧ d.cavepart ≤ c.cavepart ∧ popcount d.vatmap ≤ popcount c.vatmap ∧
        (s.cx.id ≠ id → core = c.coreid → c.vp = none →
          let va := ((s.leafOf c).map Node.save).getD 0 + BitVec.ofNat 64 (c.saveSlot.getD 0 * 2 ^ 20)
          (∀ (k : Fin 64) (w : Nat), s.slotAt c.ptbase va (0xd000 + 2048 * k.val) 2048 = some w → d.v[k] = BitVec.ofNat 16384 w) ∧
          (∀ (k : Fin 64) (w : Nat), s.slotAt c.ptbase va (0x3000 + 512 * k.val) 512 = some w → d.p[k] = BitVec.ofNat 4096 w)))) ∧
  (∀ (s u : State) (ptbase va : Word) (n v : Nat) (ls : List Loc),
    s.gLocs none ptbase true .store va n (n / 4096 + 2) = .ok (u, ls) → (∀ l ∈ ls, isReg l.pa = false) →
    let t := s.deviceWrite ptbase va n v
    (u.rowMeets none (.g ls) ≠ .free ∨ u.deviceOut = true → t.mem = u.mem ∧ ∃ e, t.pend = u.pend ++ [e] ∧ e.owner = none ∧
      e.locs = ls.map fun l => (l.pa, l.pos)) ∧
    (u.rowMeets none (.g ls) = .free → u.deviceOut = false → canonical u → ls.length = n → (ls.map Loc.pos).Nodup →
      t.pend = u.pend ∧ numberOf t (ls.map Loc.pos) (v % 256 ^ n) ∧ ∀ a, a ∉ ls.map Loc.pos → t.mem.byte a = u.mem.byte a)) ∧
  (∀ (s : State) (l n : Nat) (x : Launch) (y : Node), s.launch? l = some x → x.nodes[n]? = some y →
    (∀ t, s.mayRetire x n y = true → (s.retireNode x n y).pend = s.pend → exec (.regionRetire l n) s = .next t →
      let s1 := (s.freeLeaf l n y).mapNode l n fun z => { z with retired := true }
      s1.mem = s.mem ∧ (y.done = 0 → t.mem = s.mem) ∧
      ∀ u ls, y.done ≠ 0 → s1.gLocs none x.ptbase true .store y.done 8 2 = .ok (u, ls) → (∀ p ∈ ls, isReg p.pa = false) →
        canonical u → (ls.map Loc.pos).Nodup → ls.length = 8 →
        numberOf t (ls.map Loc.pos) y.word.toNat ∧ ∀ a, a ∉ ls.map Loc.pos → t.mem.byte a = u.mem.byte a) ∧
    ((s.mayRetire x n y = false ∨ (s.retireNode x n y).pend ≠ s.pend) → exec (.regionRetire l n) s = .next s) ∧
    (s.mayRetire x n y = true → (s.retireNode x n y).pend = s.pend → n ≠ 0 →
      ∃ t, exec (.regionRetire l n) s = .next t ∧ t.node? l n = some { y with retired := true } ∧ t.dev.sent = s.dev.sent) ∧
    (s.mayRetire x n y = true → (s.retireNode x n y).pend = s.pend → n = 0 → (∀ z ∈ s.dev.launches, z.num = l → z.issuer = none) →
      ∃ t, exec (.regionRetire l n) s = .next t ∧ t.launch? l = none ∧
        t.dev.sent = s.dev.sent ++ if y.irq = true ∧ x.quiet = false then [.irq (BitVec.ofNat 11 y.irqv)] else [])) ∧
  (∀ y : Node, bitOf y.word 63 = true ∧ fld y.word 32 16 = min 65535 y.nflt ∧ fld y.word 0 32 = min (2 ^ 32 - 1) y.nret ∧
    (y.flt = none → bitOf y.word 62 = false ∧ fld y.word 48 14 = 0) ∧
    (∀ p c, y.flt = some (p, c) → bitOf y.word 62 = true ∧ fld y.word 60 2 = p.toNat ∧ fld y.word 48 8 = c.toNat))

/-! ### Other agents and the device (R202, R305, R309 to R311, R363 to R365, R381 to R390) -/

/-- R202, R213, R221, R234, R305, R309 to R311, R382, R383: a waiting store is performed when its layer lets it, byte by byte under its
masks and after what has to come first; an update of vscadd is added in one step; a finished walk of inval or seal leaves no copy of
its range in the caches that it names; the atomics, reads and writes of the host and of peers
read and replace the bytes that memory holds, with the poison of their lines, and wait for a held layer; a peer that does not answer fails
the access, the command, the graph node or the suspended load.
Whether a store that got no answer was performed, and which access a missing completion strikes, are free (log 31, log 77). -/
def Obligations.OtherAgentsReadAndReplace : Prop :=
  (∀ (s : State) (n : Nat) (id num : Option Nat) (o : Bool) (va : Word) (locs : List (Nat × Nat)) (bs : List (Byte × Byte)),
    canonical s → s.pend[n]? = some (.store id va locs bs num o) →
    (s.earlier n (.store id va locs bs num o) = true → exec (.storePerform n) s = .next s) ∧
    (s.rowsLet id true locs = false → exec (.storePerform n) s = .next s) ∧
    (s.earlier n (.store id va locs bs num o) = false → s.rowsLet id true locs = true → locs.length = bs.length → (locs.map Prod.snd).Nodup →
      ∃ t, exec (.storePerform n) s = .next t ∧ t.pend = s.pend.eraseIdx n ∧ t.cx = s.cx ∧
        (∀ (k : Nat) (l : Nat × Nat) (b : Byte × Byte), locs[k]? = some l → bs[k]? = some b → t.mem.byte l.2 = (s.mem.byte l.2 &&& ~~~b.1) ||| (b.2 &&& b.1)) ∧
        ∀ a, a ∉ locs.map Prod.snd → t.mem.byte a = s.mem.byte a)) ∧
  (∀ (s : State) (n id : Nat) (locs : List (Nat × Nat)) (f : Fmt) (rm : Rm) (v : BitVec 64), canonical s →
    s.pend[n]? = some (.update id .g locs f rm v) → s.earlier n (.update id .g locs f rm v) = false →
    s.rowsLet (some id) true locs = true → (locs.map Prod.snd).Nodup → 8 * locs.length = f.sew →
    ∃ t old new, exec (.vscaddUpdate n) s = .next t ∧ t.pend = s.pend.eraseIdx n ∧ numberOf s (locs.map Prod.snd) old ∧
      numberOf t (locs.map Prod.snd) new ∧ (∀ a, a ∉ locs.map Prod.snd → t.mem.byte a = s.mem.byte a) ∧
      (f.isInt = true → new = (old + v.toNat) % 2 ^ f.sew) ∧
      (f.isInt = false → new = (encodeVal f rm 0 (addVal rm (fmtVal f old) (fmtVal f v.toNat)).1).1)) ∧
  (∀ (s : State) (w : Walk), s.dev.walks.find? (fun x => x.num == w.num) = some w →
    (s.writesOut w.id = true → exec (.rangeWalkDone w.num) s = .next s) ∧
    (s.writesOut w.id = false → ∃ t, exec (.rangeWalkDone w.num) s = .next t ∧
      t.dev.walks = s.dev.walks.filter (fun x => x.num != w.num) ∧ t.mem = s.mem ∧ t.cx = s.cx ∧ t.pend = s.pend ∧
      (w.op = .flush → t.co = s.co ∧ t.dev.peerLines = s.dev.peerLines ∧ t.dev.rind = s.dev.rind) ∧
      (w.op = .inval → (∀ e ∈ t.co.l1, inSpans w.spans (e.1 / 32) = false) ∧
        ∀ p ∈ t.dev.peerLines, inSpans w.spans p.line = false) ∧
      (w.op = .seal → ∀ r ∈ t.dev.rind, inSpans w.spans (r.copy.num / 32) = false))) ∧
  (∀ (s : State) (pa : Word) (sz : MSize) (v : BitVec 128),
    let at_ := (List.range (Machine.sizeOf sz)).map (pa.toNat + ·)
    let locs := at_.map fun a => (a, a)
    let held := s.layerWaits none (.g (at_.map fun a => ⟨a, a, false⟩))
    pa.toNat + Machine.sizeOf sz ≤ 2 ^ 39 →
    (held = true → exec (.cxlMemRead pa sz) s = .next s ∧ exec (.relebRequest (.read pa sz)) s = .next s) ∧
    (held = false → ∃ x : BitVec 128, numberOf s at_ x.toNat ∧
      exec (.cxlMemRead pa sz) s = .next (s.send (.data x (at_.any fun a => s.poison.contains (a / 128)))) ∧
      exec (.relebRequest (.read pa sz)) s = .next (s.send (.data x (at_.any fun a => s.poison.contains (a / 128))))) ∧
    (∀ i : Instr, (i = .cxlMemWrite pa sz v ∨ i = .relebRequest (.write pa sz v)) →
      (s.rowsLet none false locs = false → exec i s = .next s) ∧
      (s.rowsLet none false locs = true → canonical s →
        ∃ t, exec i s = .next t ∧ numberOf t at_ (v.toNat % 256 ^ Machine.sizeOf sz) ∧
          (∀ a, a ∉ at_ → t.mem.byte a = s.mem.byte a) ∧ t.cx = s.cx))) ∧
  (∀ (s : State) (pa : Word), isHost pa.toNat = true →
    ∃ x : BitVec 128, numberOf s ((List.range 16).map (pa.toNat / 16 * 16 + ·)) x.toNat ∧
      exec (.hostSnoop pa) s = .next (s.send (.data x (s.poison.contains (pa.toNat / 128))))) ∧
  (∀ (s : State) (pa : Word) (op : AtomOp) (dbl : Bool) (v : Word),
    let n := if dbl then 8 else 4
    let at_ := (List.range n).map (pa.toNat + ·)
    pa.toNat % n = 0 → pa.toNat + n ≤ 2 ^ 39 → pa.toNat / 128 ∉ s.poison → s.rowsLet none false (at_.map fun a => (a, a)) = true →
    canonical s →
    ∃ t old new, numberOf s at_ old ∧ atomLeaves op (8 * n) old (v.toNat % 2 ^ (8 * n)) new ∧ numberOf t at_ new ∧
      (∀ a, a ∉ at_ → t.mem.byte a = s.mem.byte a) ∧ t.cx = s.cx ∧ t.dev = s.dev ∧ exec (.atomicPerform pa op dbl v) s = .next t ∧
      exec (.relebRequest (.atomic pa op dbl v)) s =
        .next ((t.send (.data (BitVec.ofNat 128 old) false)).send (.tag ((t.tags.get (pa.toNat / 128)).setWidth 64)))) ∧
  (∀ (s : State) (id : Nat) (c : Ctx), s.ctx? id = some c → s.pend = [] →
    (∀ k : Fin 64, ¬ ((s.core c.coreid).graph[k].st = .running ∧ (s.core c.coreid).graph[k].owner = some (.ctx c.id))) →
    (c.phase = .running → c.stall = .none → c.cp.fifo = [] → c.gt.fifo = [] →
      ∃ t d, exec (.relebTimeout id) s = .next t ∧ t.ctx? id = some d ∧ (∃ k, d = { c with stall := .peerLost k }) ∧
        t.mem = s.mem) ∧
    (¬ (c.phase = .running ∧ (c.stall = .none ∨ c.stall = .again ∨ c.stall.isElem = true)) → c.cp.fifo ≠ [] → c.gt.fifo = [] →
      ∃ t d, exec (.relebTimeout id) s = .next t ∧ t.ctx? id = some d ∧ d = { c with cp := { c.cp with lost := true } } ∧
        t.mem = s.mem)) ∧
  (∀ (s : State) (id : Nat) (c : Ctx) (va : Word) (locs : List (Nat × Nat)) (bs : List (Byte × Byte)) (num : Option Nat) (o : Bool),
    s.ctx? id = some c → s.pend = [.store (some id) va locs bs num o] → (∃ l ∈ locs, isPeer l.1 = true) →
    ∃ t d, exec (.relebTimeout id) s = .next t ∧ t.pend = [] ∧ t.ctx? id = some d ∧ d.lostStore = some va) ∧
  (∀ (s : State) (id k : Nat) (w : BitVec 3) (leaf l : Nat × Nat) (ls : List (Nat × Nat)) (uc : Bool) (pc va : Word) (e : Susp),
    s.ctx? id = none → s.pend = [.load w leaf (l :: ls) uc] → (∃ x ∈ l :: ls, isPeer x.1 = true) →
    (∀ (core : BitVec 12) (j : Fin 64) (o : Nat × Nat),
      ¬ ((s.core core).graph[j].st = .running ∧ (s.core core).graph[j].owner = some (.leaf o.1 o.2))) →
    s.loadWaiter w leaf l.1 = some (k, pc, va) → (s.tower w).susp[k]? = some e →
    ∃ t, exec (.relebTimeout id) s = .next t ∧ t.pend = [] ∧ t.cx = s.cx ∧
      (t.tower w).susp[k]? = some { e with wait := .ready, deliver := .fault .dataAccess pc va }) ∧
  (∀ (s : State) (id : Nat) (core : BitVec 12) (k : Fin 64) (l : Nat × Nat),
    let leafNode (core : BitVec 12) (j : Fin 64) (l : Nat × Nat) : Prop :=
      (s.core core).graph[j].st = .running ∧ (s.core core).graph[j].owner = some (.leaf l.1 l.2)
    s.ctx? id = none → s.pend = [] → leafNode core k l → (∀ core' k' l', leafNode core' k' l' → core' = core ∧ k' = k) →
    ∃ t, exec (.relebTimeout id) s = .next t ∧ t.mem = s.mem ∧ t.cx = s.cx ∧
      (t.core core).graph[k] = { (s.core core).graph[k] with lost := true })

/-- R385, R386: what the host answers to an event of the ring: a translation fault walks again or becomes its trap, an unhandled fault
takes the policy named, a save resumes with what the host left in the window, at once or when its layers are free, the markers of a region go or stay, a launch is accepted or rejected; each answers the
event that it names and no other.
That POL alone answers a fault, what BAD holds, that a resumed context waits for its layers and stays on its core, are the
model's reading (log 59, log 60, log 75, log 85), and so is the node that policy 1 stops (log 93). -/
def Obligations.TheHostAnswersItsEvents : Prop :=
  ∀ (s : State) (seq : BitVec 32),
    let done : List (BitVec 32 × Ask) := s.dev.asks.filter fun a => a.1 != seq
    (∀ id c v x, s.askOf seq = some (.xlate id c v) → s.ctx? id = some x → x.phase = .stopped →
      (∃ t d, exec (.respWalkAgain seq) s = .next t ∧ t.ctx? id = some d ∧ d = { x with phase := .running } ∧
        t.dev.asks = done ∧ t.mem = s.mem) ∧
      (∃ t d, exec (.respRaiseTrap seq) s = .next t ∧ t.ctx? id = some d ∧
        d = { x with phase := .running, stall := .raise c v } ∧ t.dev.asks = done ∧ t.mem = s.mem)) ∧
    (∀ id x, s.askOf seq = some (.fault id) → s.ctx? id = some x → x.phase = .stopped →
      (∃ t d, exec (.respPolicy seq 0) s = .next t ∧ t.ctx? id = some d ∧ d = { x with
          phase := .ending, stall := if x.hostReq.isSome then x.stall else .none, hostSave := .no
          saveSlot := if x.hostSave = .no then x.saveSlot else none } ∧
        t.dev.asks = done) ∧
      (∀ leaf, x.leaf = some leaf → ((s.node? leaf.1 leaf.2).bind Node.fdom) = some 1 →
        ∃ t, exec (.respPolicy seq 1) s = .next t ∧ t.dev.asks = done ∧ t.cx = (s.stopTree leaf).cx ∧
          t.others = (s.stopTree leaf).others ∧ t.dev.launches = (s.stopTree leaf).dev.launches)) ∧
    (∀ id x, s.askOf seq = some (.save id) → s.ctx? id = some x → x.id = id → x.phase = .stopped → x.gang = none →
      (s.ctxs.map Ctx.id).Nodup → x.vp = none →
      ∃ t d, exec (.respResume seq) s = .next t ∧ t.ctx? id = some d ∧ d.coreid = x.coreid ∧ d.leaf = x.leaf ∧
        (∀ k : Fin 64, d.v[k] = BitVec.ofNat 16384 (s.dev.window.readN (0xd000 + 2048 * k.val) 2048)) ∧
        (∀ k : Fin 64, d.p[k] = BitVec.ofNat 4096 (s.dev.window.readN (0x3000 + 512 * k.val) 512)) ∧
        (d.phase = .running ∧ d.saveSlot = none ∧ d.hostSave = .no ∨ d.phase = .stopped ∧ d.hostSave = .answered) ∧
        ((∀ k : Fin 16, x.h[k].bound = false) → d.phase = .running) ∧
        ((∀ y ∈ s.ctxs, y.hostSave ≠ .waits) → t.dev.window = [] ∧ t.dev.asks = done)) ∧
    (∀ r, s.askOf seq = some (.poison r) →
      exec (.respClearPoison seq) s =
        .next { s with poison := s.poison.filter fun l => l / 32 != r, dev := { s.dev with asks := done } } ∧
      exec (.respKeepPoison seq) s = .next { s with dev := { s.dev with asks := done } }) ∧
    (∀ l x g, s.askOf seq = some (.launch l) → s.launch? l = some x → x.page = some g →
      (∃ t, exec (.respAcceptLaunch seq) s = .next t ∧ (t.port g).st = 2 ∧ (t.port g).code = 0 ∧ t.dev.asks = done ∧
        t.dev.launches = (s.dev.launches.filter fun y => y.num != l) ++ [{ x with st := .queued }]) ∧
      (∀ code, ∃ t, exec (.respRejectLaunch seq code) s = .next t ∧ (t.port g).st = 3 ∧ (t.port g).code = code ∧
        t.dev.asks = done ∧ t.dev.launches = s.dev.launches.filter fun y => y.num != l)) ∧
    (s.askOf seq = none → ∀ (pol : BitVec 2) (code : BitVec 8),
      exec (.respWalkAgain seq) s = .next s ∧ exec (.respRaiseTrap seq) s = .next s ∧ exec (.respPolicy seq pol) s = .next s ∧
      exec (.respResume seq) s = .next s ∧ exec (.respClearPoison seq) s = .next s ∧ exec (.respKeepPoison seq) s = .next s ∧
      exec (.respAcceptLaunch seq) s = .next s ∧ exec (.respRejectLaunch seq code) s = .next s)

/-- R381, R385, R389: DMODE changes only while nothing is live, and says REJ otherwise; EVCONS moves the host's index; a host write of
the register space acts as the register it names; a snapshot is triggered unless one is held, and released; poison markers are
cleared region by region under host-assisted recovery, and queue pairs come into service and leave it.
R328, R387, R388: device reset puts every register back; a verified image runs and a failed one leaves the device in recovery;
towers train one by one into early service and all together into full service; SPDM answers, the measurements being the digest
and DMODE. That memory, tags and poison stay over a reset is the model's choice (log 34), and so are the words of the other
answers, which are free (log 19).
That reserved bits are dropped is the model's reading (log 61); how the snapshot lies in its window is free (log 18). -/
def Obligations.TheControlBlockTakesItsWrites : Prop :=
  (∀ (s : State) (v : Word),
     (s.live = true → exec (.dmode v) s = .next { s with dev := { s.dev with rej := true } }) ∧
     (s.live = false → exec (.dmode v) s = .next { s with dev := { s.dev with ha := v.setWidth 6, rej := false } }) ∧
     (∀ n : BitVec 32, s.dev.evwait = [] → exec (.evcons n) s = .next { s with dev := { s.dev with evcons := n } }) ∧
     (∀ (n : BitVec 32) (e : Event), s.dev.evwait = [e] → ringFull { s.dev with evcons := n } = false →
       ∃ t, exec (.evcons n) s = .next t ∧ t.dev.evwait = [] ∧ t.dev.evprod = s.dev.evprod + 1 ∧
         t.dev.sent = s.dev.sent ++ [.irq s.dev.evvec]) ∧
     exec (.registerWrite 0x040010 v) s = .next { s with dev := { s.dev with evbase := v &&& 0x000ffffffffff00f } } ∧
     exec (.registerWrite 0x040020 v) s = .next { s with dev := { s.dev with evvec := v.setWidth 11 } } ∧
     exec (.registerWrite 0x040008 v) s = exec (.dmode v) s ∧
     exec (.registerWrite 0x040018 v) s = exec (.evcons (v.setWidth 32)) s ∧
     (∀ page : BitVec 6,
       exec (.registerWrite (BitVec.ofNat 24 (4096 * page.toNat)) v) s = exec (.lpAddr page v) s ∧
       exec (.registerWrite (BitVec.ofNat 24 (4096 * page.toNat + 8)) v) s = exec (.lpArg page v) s ∧
       exec (.registerWrite (BitVec.ofNat 24 (4096 * page.toNat + 16)) v) s = exec (.lpToken page v) s ∧
       exec (.registerWrite (BitVec.ofNat 24 (4096 * page.toNat + 24)) v) s = exec (.lpFlags page v) s ∧
       exec (.registerWrite (BitVec.ofNat 24 (4096 * page.toNat + 32)) v) s = exec (.lpGo page v) s) ∧
     (s.dev.snapHeld = false → ∃ shown, exec .snapshotTrigger s =
         .next { s with dev := { s.dev with snapSeq := s.dev.snapSeq + 1, snapHeld := true, snap := shown } } ∧
       ∀ core slot c, s.inSlot core slot = some c → ∃ w, (core, w) ∈ shown ∧ [c.epc, c.pc, c.status] <:+: w) ∧
     (s.dev.snapHeld = true → exec .snapshotTrigger s = .next s) ∧
     exec .snapshotRelease s = .next { s with dev := { s.dev with snapHeld := false } } ∧
     (s.assisted 4 = true →
       exec (.poisonMarkerClear v) s = .next { s with poison := s.poison.filter fun l => l / 32 != v.toNat / 4096 }) ∧
     (s.assisted 4 = false → exec (.poisonMarkerClear v) s = .next s) ∧
     (∀ qp : BitVec 16, s.dev.fwok = true →
       (∃ t, exec (.queuePairTable qp true) s = .next t ∧ t = { s with dev := { s.dev with qps := t.dev.qps } } ∧
         ∀ q, q ∈ t.dev.qps ↔ q = qp ∨ q ∈ s.dev.qps) ∧
       (∃ t, exec (.queuePairTable qp false) s = .next t ∧ t = { s with dev := { s.dev with qps := t.dev.qps } } ∧
         ∀ q, q ∈ t.dev.qps ↔ q ≠ qp ∧ q ∈ s.dev.qps))) ∧
  (∀ s : State,
     (∃ t, exec .deviceReset s = .next t ∧ t.cx = State.reset.cx ∧ t.others = [] ∧ t.dev.launches = [] ∧ t.cores = [] ∧
       t.co = State.reset.co ∧ t.tw = State.reset.tw ∧ t.towers = [] ∧ t.dev.ports = State.reset.dev.ports ∧
       t.dev.inc = State.reset.dev.inc ∧ t.dev.fwok = false ∧ t.dev.ha = 0 ∧ t.pend = []) ∧
     (∀ digest : BitVec 256,
       exec (.firmwareImage digest true) s = .next { s with dev := { s.dev with fwok := true, recov := false, digest := digest } } ∧
       exec (.firmwareImage digest false) s = .next { s with dev := { s.dev with fwok := false, recov := true } }) ∧
     (∀ t : BitVec 3, s.dev.fwok = true → (s.tower t).early = false → (s.tower t).ready = false →
       ((∃ k : BitVec 3, k ≠ t ∧ (s.tower k).early = false) →
         exec (.towerTrained t) s = .next (s.setTower t { s.tower t with early := true })) ∧
       ((∀ k : BitVec 3, k ≠ t → (s.tower k).early = true) →
         ∃ u, exec (.towerTrained t) s = .next u ∧ ∀ k : BitVec 3, (u.tower k).ready = true ∧ (u.tower k).early = false)) ∧
     (s.dev.fwok = false → ∀ t : BitVec 3, exec (.towerTrained t) s = .next s) ∧
     (∀ x : BitVec 256, s.dev.fwok = true →
       (∃ a, exec .spdmCertificate s = .next (State.send { s with free := s.free + 1 } (.spdm a))) ∧
       (∃ a, exec (.spdmChallenge x) s = .next (State.send { s with free := s.free + 1 } (.spdm a))) ∧
       exec .spdmMeasurements s = .next ((s.send (.spdm s.dev.digest)).send
         (.spdm (BitVec.ofNat 256 (s.dev.ha.toNat + if s.dev.rej then 128 else 0)))) ∧
       (∃ a, exec (.spdmKeyExchange x) s =
         .next (State.send { s with free := s.free + 1, dev := { s.dev with ide := true } } (.spdm a)))))

/-- R19, R363 to R365, R390: a slice that reaches its first threshold sets TLIM and raises THERMAL where it is enabled, at the second it
evacuates, and at the third, before it has evacuated, the tower's arrays go off and caves are lost; heat goes down again; soft
errors poison a line or raise MACHINE_CHECK; sag and throttling change no result.
Which regions were dirty, and what a lost cave holds, are free (log 38); that EVAC stays until its end is the model's
reading (log 74). -/
def Obligations.HeatErrorsAndClocks : Prop :=
  (∀ (s : State) (t : BitVec 3) (sl : BitVec 4),
    let x := s.slice t sl
    (x.level = 0 → ∃ u, exec (.firstThreshold t sl) s = .next u ∧ (u.slice t sl).level = 1 ∧ (u.tower t).tlim = true ∧
      (towerOf s.cx.coreid = t → s.cx.phase = .running → bitOf s.cx.status 6 = true →
        ∃ v, (Cause.thermal, v) ∈ u.cx.pending ∧ bitOf v sl.toNat = true)) ∧
    (x.level ≠ 0 → exec (.firstThreshold t sl) s = .next s) ∧
    (x.level = 1 → exec (.secondThreshold t sl) s = .next (s.setSlice t sl { level := 2, evac := true, writeThrough := true })) ∧
    (x.level = 2 → x.evac = true → ∃ u, exec (.thirdThreshold t sl) s = .next u ∧ (u.slice t sl).level = 3 ∧
      ((s.tower t).arraysOff = false → (u.tower t).arraysOff = true ∧
        (towerOf s.cx.coreid = t → s.cx.phase ≠ .absent → 0 < s.cx.cavepart → u.cx.caveLost = true))) ∧
    (x.evac = true →
      exec (.evacuationEnd t sl) s = .next (s.setSlice t sl { x with evac := false, writeThrough := x.level != 0 })) ∧
    (x.level ≠ 0 → exec (.belowFirstThreshold t sl) s = .next (s.setSlice t sl { x with level := 0, writeThrough := x.evac })) ∧
    (s.cool t = true → (s.tower t).tlim = true →
      exec (.tlimClear t) s = .next (s.setTower t { s.tower t with tlim := false })) ∧
    (s.cool t = true → (s.tower t).arraysOff = true →
      exec (.caveRecover t) s = .next (s.setTower t { s.tower t with arraysOff := false })) ∧
    (s.cool t = false → exec (.tlimClear t) s = .next s ∧ exec (.caveRecover t) s = .next s)) ∧
  (∀ (s : State) (pa : Word), (isDram pa.toNat = true ∨ isHost pa.toNat = true) →
    ∃ u, exec (.softError (.line pa)) s = .next u ∧ pa.toNat / 128 ∈ u.poison ∧
      (∀ l, l ∈ u.poison ↔ l = pa.toNat / 128 ∨ l ∈ s.poison) ∧ u.cx = s.cx) ∧
  (∀ (s : State) (id : Nat) (c : Ctx) (unit : BitVec 8) (idx : BitVec 16), s.ctx? id = some c → c.phase = .running → unit.toNat ≤ 7 →
    ∃ u d v, exec (.softError (.unit id unit idx)) s = .next u ∧ u.ctx? id = some d ∧ (Cause.machineCheck, v) ∈ d.pending ∧
      v = BitVec.ofNat 64 (idx.toNat * 2 ^ 16 + unit.toNat)) ∧
  (∀ (s : State) (cl : BitVec 10),
    (∃ t, exec (.supplySag cl) s = .next t ∧ t = { s with dev := { s.dev with stretched := t.dev.stretched } } ∧
      ∀ x, x ∈ t.dev.stretched ↔ x = cl ∨ x ∈ s.dev.stretched) ∧
    exec .throttleStart s = .next { s with dev := { s.dev with throttled := true } } ∧
    exec .throttleEnd s = .next { s with dev := { s.dev with throttled := false } })
end

