-- ==== Sys2Proof/Laws/Memory.lean ====
section
/-! SUPPORT. Memory and tags: reading after writing, what a write leaves alone, and that every operation keeps the canonical
form. -/

namespace Sys2Proof.Machine

/-- The canonical form, as a proposition. -/
theorem Memory.wf_iff (m : Memory) :
    m.wf = true ↔ (m.Pairwise fun x y => x.1 < y.1) ∧ ∀ c ∈ m, c.2 ≠ 0 := by
  simp [Memory.wf]

@[simp] theorem Memory.wf_nil : Memory.wf [] = true := rfl

theorem Memory.wf_tail {b : Nat × Byte} {m : Memory} (h : Memory.wf (b :: m) = true) : Memory.wf m = true := by
  rw [Memory.wf_iff] at *; simp at h; exact ⟨h.1.2, fun c hc => h.2.2 c.1 c.2 hc⟩

/-- An address below every entry is unlisted. -/
theorem Memory.byte_below {m : Memory} {a : Nat} (h : ∀ c ∈ m, a < c.1) : m.byte a = 0 := by
  induction m with
  | nil => rfl
  | cons c m ih =>
    obtain ⟨b, v⟩ := c
    have h1 := h (b, v) (by simp)
    simp only [Memory.byte]
    rw [if_neg (by simp at h1; omega)]
    exact ih fun c hc => h c (by simp [hc])

theorem Memory.put_keys {m : Memory} {a : Nat} {v : Byte} {c : Nat × Byte} (h : c ∈ m.put a v) : c.1 = a ∨ c ∈ m := by
  induction m with
  | nil =>
    by_cases hv : v = 0
    · simp [Memory.put] at h; exact absurd hv h.1
    · simp [Memory.put] at h; simp [h]
  | cons x m ih =>
    obtain ⟨b, w⟩ := x
    simp only [Memory.put] at h
    split at h
    · split at h
      · exact .inr h
      · rcases List.mem_cons.1 h with e | e
        · left; rw [e]
        · exact .inr e
    · split at h
      · split at h
        · exact .inr (List.mem_cons_of_mem _ h)
        · rcases List.mem_cons.1 h with e | e
          · left; rw [e]; symm; assumption
          · exact .inr (List.mem_cons_of_mem _ e)
      · rcases List.mem_cons.1 h with e | e
        · right; simp [e]
        · rcases ih e with e | e
          · exact .inl e
          · exact .inr (List.mem_cons_of_mem _ e)

theorem Memory.put_wf {m : Memory} (h : m.wf = true) (a : Nat) (v : Byte) : (m.put a v).wf = true := by
  induction m with
  | nil => simp only [Memory.put]; split <;> simp_all [Memory.wf]
  | cons x m ih =>
    obtain ⟨b, w⟩ := x
    have ht := ih (Memory.wf_tail h)
    rw [Memory.wf_iff] at *
    simp only [List.pairwise_cons, List.mem_cons, forall_eq_or_imp] at h
    simp only [Memory.put]
    split
    · split
      · simp only [List.pairwise_cons, List.mem_cons, forall_eq_or_imp]; exact h
      · simp only [List.pairwise_cons, List.mem_cons, forall_eq_or_imp]
        refine ⟨⟨⟨by assumption, fun c hc => ?_⟩, h.1⟩, by assumption, h.2⟩
        have := h.1.1 c hc; simp at *; omega
    · split
      · split
        · exact ⟨h.1.2, h.2.2⟩
        · simp only [List.pairwise_cons, List.mem_cons, forall_eq_or_imp]; exact ⟨h.1, by assumption, h.2.2⟩
      · simp only [List.pairwise_cons, List.mem_cons, forall_eq_or_imp]
        refine ⟨⟨fun c hc => ?_, ht.1⟩, h.2.1, ht.2⟩
        rcases Memory.put_keys hc with e | e
        · simp at *; omega
        · exact h.1.1 c e

/-- A byte reads as it was written. -/
theorem Memory.byte_put_same {m : Memory} (h : m.wf = true) (a : Nat) (v : Byte) : (m.put a v).byte a = v := by
  induction m with
  | nil => simp only [Memory.put]; split <;> simp_all [Memory.byte]
  | cons x m ih =>
    obtain ⟨b, w⟩ := x
    have hb : ∀ c ∈ m, b < c.1 := by
      rw [Memory.wf_iff] at h; simp only [List.pairwise_cons] at h; exact h.1.1
    simp only [Memory.put]
    split
    · rename_i hlt
      split
      · rename_i hv; rw [hv, Memory.byte_below]
        intro c hc; simp at hc; rcases hc with rfl | hc
        · exact hlt
        · have := hb c hc; omega
      · simp [Memory.byte]
    · split
      · split
        · rename_i e hv; rw [hv, Memory.byte_below]; subst e; exact hb
        · simp_all [Memory.byte]
      · rename_i h1 h2; simp only [Memory.byte]; rw [if_neg h2]; exact ih (Memory.wf_tail h)

/-- A write leaves every other byte. -/
theorem Memory.byte_put_other {m : Memory} (h : m.wf = true) {a a' : Nat} (v : Byte) (hne : a' ≠ a) :
    (m.put a v).byte a' = m.byte a' := by
  induction m with
  | nil => simp only [Memory.put]; split <;> simp_all [Memory.byte]
  | cons x m ih =>
    obtain ⟨b, w⟩ := x
    have hb : ∀ c ∈ m, b < c.1 := by
      rw [Memory.wf_iff] at h; simp only [List.pairwise_cons] at h; exact h.1.1
    simp only [Memory.put]
    split
    · split
      · rfl
      · simp [Memory.byte, hne]
    · split
      · rename_i e; subst e
        split
        · simp [Memory.byte, hne]
        · simp [Memory.byte, hne]
      · simp only [Memory.byte]; split
        · rfl
        · exact ih (Memory.wf_tail h)

theorem Memory.byte_put {m : Memory} (h : m.wf = true) (a a' : Nat) (v : Byte) :
    (m.put a v).byte a' = if a' = a then v else m.byte a' := by
  split
  · rename_i e; subst e; exact Memory.byte_put_same h _ _
  · exact Memory.byte_put_other h v ‹_›

theorem Memory.writeN_wf {m : Memory} (h : m.wf = true) (a n v : Nat) : (m.writeN a n v).wf = true := by
  induction n generalizing m a v with
  | zero => exact h
  | succ n ih => exact ih (Memory.put_wf h _ _) _ _

theorem Memory.byte_writeN_other {m : Memory} (h : m.wf = true) {a n : Nat} (v : Nat) {b : Nat} (hb : b < a ∨ a + n ≤ b) :
    (m.writeN a n v).byte b = m.byte b := by
  induction n generalizing m a v with
  | zero => rfl
  | succ n ih =>
    simp only [Memory.writeN]
    rw [ih (Memory.put_wf h _ _) _ (by omega), Memory.byte_put_other h _ (by omega)]

theorem Memory.byte_writeN_same {m : Memory} (h : m.wf = true) (a n v k : Nat) (hk : k < n) :
    (m.writeN a n v).byte (a + k) = BitVec.ofNat 8 (v / 256 ^ k) := by
  induction n generalizing m a v k with
  | zero => omega
  | succ n ih =>
    simp only [Memory.writeN]
    cases k with
    | zero =>
      rw [Memory.byte_writeN_other (Memory.put_wf h _ _) _ (by omega)]
      simp [Memory.byte_put_same h]
    | succ k =>
      have := ih (Memory.put_wf h a (BitVec.ofNat 8 v)) (a + 1) (v / 256) k (by omega)
      rw [show a + (k + 1) = a + 1 + k by omega, this, Nat.div_div_eq_div_mul, Nat.pow_succ']

theorem Memory.readN_congr {m m' : Memory} {a n : Nat} (h : ∀ k < n, m.byte (a + k) = m'.byte (a + k)) :
    m.readN a n = m'.readN a n := by
  induction n generalizing a with
  | zero => rfl
  | succ n ih =>
    simp only [Memory.readN]
    rw [show m.byte a = m'.byte a by simpa using h 0 (by omega), ih]
    intro k hk; have := h (k + 1) (by omega); rwa [show a + (k + 1) = a + 1 + k by omega] at this

theorem Memory.readN_lt (m : Memory) (a n : Nat) : m.readN a n < 256 ^ n := by
  induction n generalizing a with
  | zero => simp [Memory.readN]
  | succ n ih =>
    simp only [Memory.readN, Nat.pow_succ']
    have := ih (a + 1); have := (m.byte a).isLt; omega

theorem Memory.readN_byte (m : Memory) (a n k : Nat) (hk : k < n) :
    BitVec.ofNat 8 (m.readN a n / 256 ^ k) = m.byte (a + k) := by
  induction n generalizing a k with
  | zero => omega
  | succ n ih =>
    simp only [Memory.readN]
    cases k with
    | zero =>
      simp only [Nat.pow_zero, Nat.div_one, Nat.add_zero]
      apply BitVec.eq_of_toNat_eq; simp [BitVec.toNat_ofNat, Nat.mod_eq_of_lt (m.byte a).isLt]
    | succ k =>
      rw [Nat.pow_succ', ← Nat.div_div_eq_div_mul, Nat.add_mul_div_left _ _ (by omega)]
      rw [Nat.div_eq_of_lt (m.byte a).isLt, Nat.zero_add, ih _ _ (by omega)]
      congr 1; omega

/-- A number reads as it was written. -/
theorem Memory.readN_writeN {m : Memory} (h : m.wf = true) (a n v : Nat) : (m.writeN a n v).readN a n = v % 256 ^ n := by
  induction n generalizing m a v with
  | zero => simp [Memory.readN, Nat.mod_one]
  | succ n ih =>
    simp only [Memory.readN, Memory.writeN]
    rw [ih (Memory.put_wf h _ _), Memory.byte_writeN_other (Memory.put_wf h _ _) _ (by omega), Memory.byte_put_same h]
    rw [Nat.pow_succ', Nat.mod_mul]
    simp [BitVec.toNat_ofNat]

theorem Memory.filter_wf {m : Memory} (h : m.wf = true) (f : Nat × Byte → Bool) : Memory.wf (m.filter f) = true := by
  rw [Memory.wf_iff] at *
  exact ⟨h.1.sublist List.filter_sublist, fun c hc => h.2 c (List.mem_of_mem_filter hc)⟩

theorem Memory.below_wf {m : Memory} (h : m.wf = true) (lim : Nat) : (m.below lim).wf = true := Memory.filter_wf h _

theorem mergeAt_wf {m : Memory} (h : m.wf = true) (as : List Nat) (bs : List (Byte × Byte)) : (mergeAt m as bs).wf = true := by
  induction as generalizing m bs with
  | nil => cases bs <;> exact h
  | cons a as ih =>
    cases bs with
    | nil => exact h
    | cons b bs => exact ih (Memory.put_wf h _ _) bs

theorem mergeAt_other {m : Memory} (h : m.wf = true) (as : List Nat) (bs : List (Byte × Byte)) {x : Nat} (hx : x ∉ as) :
    (mergeAt m as bs).byte x = m.byte x := by
  induction as generalizing m bs with
  | nil => cases bs <;> rfl
  | cons a as ih =>
    cases bs with
    | nil => rfl
    | cons b bs =>
      simp at hx
      simp only [mergeAt]
      rw [ih (Memory.put_wf h _ _) bs (by simpa using hx.2), Memory.byte_put_other h _ (by simpa using hx.1)]

/-- Distinct places take the masked bytes. -/
theorem mergeAt_same {m : Memory} (h : m.wf = true) {as : List Nat} (hn : as.Nodup) {bs : List (Byte × Byte)} {k a : Nat}
    {b : Byte × Byte} (ha : as[k]? = some a) (hb : bs[k]? = some b) :
    (mergeAt m as bs).byte a = (m.byte a &&& ~~~b.1) ||| (b.2 &&& b.1) := by
  induction as generalizing m bs k with
  | nil => simp at ha
  | cons x as ih =>
    cases bs with
    | nil => simp at hb
    | cons y bs =>
      rw [List.nodup_cons] at hn
      simp only [mergeAt]
      cases k with
      | zero =>
        simp at ha hb; subst ha hb
        rw [mergeAt_other (Memory.put_wf h _ _) _ _ hn.1, Memory.byte_put_same h]
      | succ k =>
        simp at ha hb
        rw [ih (Memory.put_wf h _ _) hn.2 ha hb, Memory.byte_put_other h]
        rintro rfl; exact hn.1 (List.mem_of_getElem? ha)

/-! ### Tags -/

theorem Tags.wf_nil : Tags.wf [] := ⟨.nil, by simp⟩

theorem Tags.put_keys {m : Tags} {a : Nat} {v : BitVec 32} {c : Nat × BitVec 32} (h : c ∈ m.put a v) : c.1 = a ∨ c ∈ m := by
  induction m with
  | nil =>
    by_cases hv : v = 0
    · simp [Tags.put] at h; exact absurd hv h.1
    · simp [Tags.put] at h; simp [h]
  | cons x m ih =>
    obtain ⟨b, w⟩ := x
    simp only [Tags.put] at h
    split at h
    · split at h
      · exact .inr h
      · rcases List.mem_cons.1 h with e | e
        · left; rw [e]
        · exact .inr e
    · split at h
      · split at h
        · exact .inr (List.mem_cons_of_mem _ h)
        · rcases List.mem_cons.1 h with e | e
          · left; rw [e]; symm; assumption
          · exact .inr (List.mem_cons_of_mem _ e)
      · rcases List.mem_cons.1 h with e | e
        · right; simp [e]
        · rcases ih e with e | e
          · exact .inl e
          · exact .inr (List.mem_cons_of_mem _ e)

theorem Tags.put_wf {m : Tags} (h : m.wf) (a : Nat) (v : BitVec 32) : (m.put a v).wf := by
  induction m with
  | nil => simp only [Tags.put]; split <;> simp_all [Tags.wf]
  | cons x m ih =>
    obtain ⟨b, w⟩ := x
    simp only [Tags.wf, List.pairwise_cons, List.mem_cons, forall_eq_or_imp] at h
    have ht := ih ⟨h.1.2, h.2.2⟩
    simp only [Tags.put]
    split
    · split
      · simp only [Tags.wf, List.pairwise_cons, List.mem_cons, forall_eq_or_imp]; exact h
      · simp only [Tags.wf, List.pairwise_cons, List.mem_cons, forall_eq_or_imp]
        refine ⟨⟨⟨by assumption, fun c hc => ?_⟩, h.1⟩, by assumption, h.2⟩
        have := h.1.1 c hc; simp at *; omega
    · split
      · split
        · exact ⟨h.1.2, h.2.2⟩
        · simp only [Tags.wf, List.pairwise_cons, List.mem_cons, forall_eq_or_imp]; exact ⟨h.1, by assumption, h.2.2⟩
      · simp only [Tags.wf, List.pairwise_cons, List.mem_cons, forall_eq_or_imp]
        refine ⟨⟨fun c hc => ?_, ht.1⟩, h.2.1, ht.2⟩
        rcases Tags.put_keys hc with e | e
        · simp at *; omega
        · exact h.1.1 c e

theorem Tags.get_below {m : Tags} {a : Nat} (h : ∀ c ∈ m, a < c.1) : m.get a = 0 := by
  induction m with
  | nil => rfl
  | cons c m ih =>
    obtain ⟨b, v⟩ := c
    have h1 := h (b, v) (by simp)
    simp only [Tags.get]
    rw [if_neg (by simp at h1; omega)]
    exact ih fun c hc => h c (by simp [hc])

theorem Tags.get_put {m : Tags} (h : m.wf) (a a' : Nat) (v : BitVec 32) :
    (m.put a v).get a' = if a' = a then v else m.get a' := by
  induction m with
  | nil => simp only [Tags.put]; split <;> simp_all [Tags.get]
  | cons x m ih =>
    obtain ⟨b, w⟩ := x
    simp only [Tags.wf, List.pairwise_cons, List.mem_cons, forall_eq_or_imp] at h
    have hb := h.1.1
    simp only [Tags.put]
    split
    · rename_i hlt
      split
      · rename_i hv
        by_cases e : a' = a
        · subst e
          rw [if_pos rfl, hv, Tags.get_below]
          intro c hc
          rcases List.mem_cons.1 hc with rfl | hc
          · exact hlt
          · exact Nat.lt_trans hlt (hb c hc)
        · simp [e]
      · by_cases e : a' = a <;> simp [Tags.get, e]
    · split
      · rename_i e; subst e
        split
        · by_cases e : a' = a
          · subst e; rw [if_pos rfl, Tags.get_below hb]; symm; assumption
          · simp [Tags.get, e]
        · by_cases e : a' = a <;> simp [Tags.get, e]
      · rename_i h1 h2
        have := ih ⟨h.1.2, h.2.2⟩
        simp only [Tags.get, this]
        by_cases e : a' = b
        · subst e; simp; intro e; exact absurd e.symm h2
        · simp [e]

theorem Tags.filter_wf {t : Tags} (h : t.wf) (f : Nat × BitVec 32 → Bool) : Tags.wf (t.filter f) :=
  ⟨h.1.sublist List.filter_sublist, fun c hc => h.2 c (List.mem_of_mem_filter hc)⟩

theorem bumpCave_wf {t : Tags} (h : t.wf) (off n : Nat) : (bumpCave t off n).wf := by
  unfold bumpCave
  generalize List.range _ = l
  induction l generalizing t with
  | nil => exact h
  | cons x l ih => exact ih (Tags.put_wf h _ _)

/-! ### Numbers and bytes -/

@[simp] theorem bytesOf_length (n v : Nat) : (bytesOf n v).length = n := by
  induction n generalizing v with
  | zero => rfl
  | succ n ih => simp [bytesOf, ih]

theorem bytesOf_getElem? (n v k : Nat) (h : k < n) : (bytesOf n v)[k]? = some (BitVec.ofNat 8 (v / 256 ^ k)) := by
  induction n generalizing v k with
  | zero => omega
  | succ n ih =>
    cases k with
    | zero => simp [bytesOf]
    | succ k => simp [bytesOf, ih (v / 256) k (by omega), Nat.div_div_eq_div_mul, Nat.pow_succ']

theorem ofBytes_lt (bs : List Byte) : ofBytes bs < 256 ^ bs.length := by
  induction bs with
  | nil => simp [ofBytes]
  | cons b bs ih => simp only [ofBytes, List.length_cons, Nat.pow_succ']; have := b.isLt; omega

theorem ofBytes_byte (bs : List Byte) (k : Nat) (h : k < bs.length) : BitVec.ofNat 8 (ofBytes bs / 256 ^ k) = bs.getD k 0 := by
  induction bs generalizing k with
  | nil => simp at h
  | cons b bs ih =>
    simp only [ofBytes]
    cases k with
    | zero => simp; apply BitVec.eq_of_toNat_eq; simp [BitVec.toNat_ofNat, Nat.mod_eq_of_lt b.isLt]
    | succ k =>
      rw [Nat.pow_succ', ← Nat.div_div_eq_div_mul, Nat.add_mul_div_left _ _ (by omega), Nat.div_eq_of_lt b.isLt, Nat.zero_add]
      simpa using ih k (by simpa using h)

/-- Two numbers below 256^n with the same bytes are equal. -/
theorem eq_of_bytes {n x y : Nat} (hx : x < 256 ^ n) (hy : y < 256 ^ n)
    (h : ∀ k < n, BitVec.ofNat 8 (x / 256 ^ k) = BitVec.ofNat 8 (y / 256 ^ k)) : x = y := by
  induction n generalizing x y with
  | zero => simp at hx hy; omega
  | succ n ih =>
    have h0 := h 0 (by omega)
    have := congrArg BitVec.toNat h0
    simp [BitVec.toNat_ofNat] at this
    have hr := ih (x := x / 256) (y := y / 256) (by rw [Nat.pow_succ'] at hx; omega) (by rw [Nat.pow_succ'] at hy; omega) (by
      intro k hk; have := h (k + 1) (by omega); rwa [Nat.pow_succ', ← Nat.div_div_eq_div_mul, ← Nat.div_div_eq_div_mul] at this)
    omega

@[simp] theorem whole_length (n v : Nat) : (whole n v).length = n := by simp [whole]

theorem whole_getElem? (n v k : Nat) (h : k < n) : (whole n v)[k]? = some (0xff, BitVec.ofNat 8 (v / 256 ^ k)) := by
  simp [whole, bytesOf_getElem? n v k h]

end Sys2Proof.Machine
end

