-- ==== Sys2Proof/Laws/State.lean ====
section
/-! SUPPORT. Field lemmas: what each update of a state or of a context leaves in every field, by rfl; and reading what an
accessor wrote. -/

namespace Sys2Proof.Machine

/-! ### The context in focus changes: State.upd -/

@[simp] theorem State.upd_cx (s : State) (f : Ctx → Ctx) : (s.upd f).cx = f s.cx := rfl
@[simp] theorem State.upd_co (s : State) (f : Ctx → Ctx) : (s.upd f).co = s.co := rfl
@[simp] theorem State.upd_tw (s : State) (f : Ctx → Ctx) : (s.upd f).tw = s.tw := rfl
@[simp] theorem State.upd_others (s : State) (f : Ctx → Ctx) : (s.upd f).others = s.others := rfl
@[simp] theorem State.upd_cores (s : State) (f : Ctx → Ctx) : (s.upd f).cores = s.cores := rfl
@[simp] theorem State.upd_towers (s : State) (f : Ctx → Ctx) : (s.upd f).towers = s.towers := rfl
@[simp] theorem State.upd_dev (s : State) (f : Ctx → Ctx) : (s.upd f).dev = s.dev := rfl
@[simp] theorem State.upd_mem (s : State) (f : Ctx → Ctx) : (s.upd f).mem = s.mem := rfl
@[simp] theorem State.upd_tags (s : State) (f : Ctx → Ctx) : (s.upd f).tags = s.tags := rfl
@[simp] theorem State.upd_poison (s : State) (f : Ctx → Ctx) : (s.upd f).poison = s.poison := rfl
@[simp] theorem State.upd_pend (s : State) (f : Ctx → Ctx) : (s.upd f).pend = s.pend := rfl
@[simp] theorem State.upd_cleaning (s : State) (f : Ctx → Ctx) : (s.upd f).cleaning = s.cleaning := rfl
@[simp] theorem State.upd_agenda (s : State) (f : Ctx → Ctx) : (s.upd f).agenda = s.agenda := rfl
@[simp] theorem State.upd_ticks (s : State) (f : Ctx → Ctx) : (s.upd f).ticks = s.ticks := rfl
@[simp] theorem State.upd_free (s : State) (f : Ctx → Ctx) : (s.upd f).free = s.free := rfl
@[simp] theorem State.upd_caching (s : State) (f : Ctx → Ctx) : (s.upd f).caching = s.caching := rfl
@[simp] theorem State.upd_cut (s : State) (f : Ctx → Ctx) : (s.upd f).cut = s.cut := rfl
@[simp] theorem State.upd_upd (s : State) (f g : Ctx → Ctx) : (s.upd f).upd g = s.upd fun c => g (f c) := rfl
@[simp] theorem State.upd_same (s : State) : (s.upd fun c => c) = s := rfl

/-! ### An element of a brick: Ctx.setEl -/

@[simp] theorem Ctx.setEl_id (c : Ctx) (r : Reg) (e v : Nat) : (c.setEl r e v).id = c.id := rfl
@[simp] theorem Ctx.setEl_phase (c : Ctx) (r : Reg) (e v : Nat) : (c.setEl r e v).phase = c.phase := rfl
@[simp] theorem Ctx.setEl_stall (c : Ctx) (r : Reg) (e v : Nat) : (c.setEl r e v).stall = c.stall := rfl
@[simp] theorem Ctx.setEl_leaf (c : Ctx) (r : Reg) (e v : Nat) : (c.setEl r e v).leaf = c.leaf := rfl
@[simp] theorem Ctx.setEl_gang (c : Ctx) (r : Reg) (e v : Nat) : (c.setEl r e v).gang = c.gang := rfl
@[simp] theorem Ctx.setEl_slot (c : Ctx) (r : Reg) (e v : Nat) : (c.setEl r e v).slot = c.slot := rfl
@[simp] theorem Ctx.setEl_scrLog (c : Ctx) (r : Reg) (e v : Nat) : (c.setEl r e v).scrLog = c.scrLog := rfl
@[simp] theorem Ctx.setEl_scrBase (c : Ctx) (r : Reg) (e v : Nat) : (c.setEl r e v).scrBase = c.scrBase := rfl
@[simp] theorem Ctx.setEl_vatn (c : Ctx) (r : Reg) (e v : Nat) : (c.setEl r e v).vatn = c.vatn := rfl
@[simp] theorem Ctx.setEl_coreid (c : Ctx) (r : Reg) (e v : Nat) : (c.setEl r e v).coreid = c.coreid := rfl
@[simp] theorem Ctx.setEl_inst (c : Ctx) (r : Reg) (e v : Nat) : (c.setEl r e v).inst = c.inst := rfl
@[simp] theorem Ctx.setEl_region (c : Ctx) (r : Reg) (e v : Nat) : (c.setEl r e v).region = c.region := rfl
@[simp] theorem Ctx.setEl_lostStore (c : Ctx) (r : Reg) (e v : Nat) : (c.setEl r e v).lostStore = c.lostStore := rfl
@[simp] theorem Ctx.setEl_hostReq (c : Ctx) (r : Reg) (e v : Nat) : (c.setEl r e v).hostReq = c.hostReq := rfl
@[simp] theorem Ctx.setEl_saveSlot (c : Ctx) (r : Reg) (e v : Nat) : (c.setEl r e v).saveSlot = c.saveSlot := rfl
@[simp] theorem Ctx.setEl_outAt (c : Ctx) (r : Reg) (e v : Nat) : (c.setEl r e v).outAt = c.outAt := rfl
@[simp] theorem Ctx.setEl_hostSave (c : Ctx) (r : Reg) (e v : Nat) : (c.setEl r e v).hostSave = c.hostSave := rfl
@[simp] theorem Ctx.setEl_areas (c : Ctx) (r : Reg) (e v : Nat) : (c.setEl r e v).areas = c.areas := rfl
@[simp] theorem Ctx.setEl_stores (c : Ctx) (r : Reg) (e v : Nat) : (c.setEl r e v).stores = c.stores := rfl
@[simp] theorem Ctx.setEl_x (c : Ctx) (r : Reg) (e v : Nat) : (c.setEl r e v).x = c.x := rfl
@[simp] theorem Ctx.setEl_pc (c : Ctx) (r : Reg) (e v : Nat) : (c.setEl r e v).pc = c.pc := rfl
@[simp] theorem Ctx.setEl_prev (c : Ctx) (r : Reg) (e v : Nat) : (c.setEl r e v).prev = c.prev := rfl
@[simp] theorem Ctx.setEl_p (c : Ctx) (r : Reg) (e v : Nat) : (c.setEl r e v).p = c.p := rfl
@[simp] theorem Ctx.setEl_strip (c : Ctx) (r : Reg) (e v : Nat) : (c.setEl r e v).strip = c.strip := rfl
@[simp] theorem Ctx.setEl_press (c : Ctx) (r : Reg) (e v : Nat) : (c.setEl r e v).press = c.press := rfl
@[simp] theorem Ctx.setEl_vp (c : Ctx) (r : Reg) (e v : Nat) : (c.setEl r e v).vp = c.vp := rfl
@[simp] theorem Ctx.setEl_vpOut (c : Ctx) (r : Reg) (e v : Nat) : (c.setEl r e v).vpOut = c.vpOut := rfl
@[simp] theorem Ctx.setEl_frm (c : Ctx) (r : Reg) (e v : Nat) : (c.setEl r e v).frm = c.frm := rfl
@[simp] theorem Ctx.setEl_fflags (c : Ctx) (r : Reg) (e v : Nat) : (c.setEl r e v).fflags = c.fflags := rfl
@[simp] theorem Ctx.setEl_srkey (c : Ctx) (r : Reg) (e v : Nat) : (c.setEl r e v).srkey = c.srkey := rfl
@[simp] theorem Ctx.setEl_srbase (c : Ctx) (r : Reg) (e v : Nat) : (c.setEl r e v).srbase = c.srbase := rfl
@[simp] theorem Ctx.setEl_vred (c : Ctx) (r : Reg) (e v : Nat) : (c.setEl r e v).vred = c.vred := rfl
@[simp] theorem Ctx.setEl_mask (c : Ctx) (r : Reg) (e v : Nat) : (c.setEl r e v).mask = c.mask := rfl
@[simp] theorem Ctx.setEl_vatmap (c : Ctx) (r : Reg) (e v : Nat) : (c.setEl r e v).vatmap = c.vatmap := rfl
@[simp] theorem Ctx.setEl_qdesc (c : Ctx) (r : Reg) (e v : Nat) : (c.setEl r e v).qdesc = c.qdesc := rfl
@[simp] theorem Ctx.setEl_qbase (c : Ctx) (r : Reg) (e v : Nat) : (c.setEl r e v).qbase = c.qbase := rfl
@[simp] theorem Ctx.setEl_qstride (c : Ctx) (r : Reg) (e v : Nat) : (c.setEl r e v).qstride = c.qstride := rfl
@[simp] theorem Ctx.setEl_vl (c : Ctx) (r : Reg) (e v : Nat) : (c.setEl r e v).vl = c.vl := rfl
@[simp] theorem Ctx.setEl_vtype (c : Ctx) (r : Reg) (e v : Nat) : (c.setEl r e v).vtype = c.vtype := rfl
@[simp] theorem Ctx.setEl_vstart (c : Ctx) (r : Reg) (e v : Nat) : (c.setEl r e v).vstart = c.vstart := rfl
@[simp] theorem Ctx.setEl_vhalo (c : Ctx) (r : Reg) (e v : Nat) : (c.setEl r e v).vhalo = c.vhalo := rfl
@[simp] theorem Ctx.setEl_harm (c : Ctx) (r : Reg) (e v : Nat) : (c.setEl r e v).harm = c.harm := rfl
@[simp] theorem Ctx.setEl_cavepart (c : Ctx) (r : Reg) (e v : Nat) : (c.setEl r e v).cavepart = c.cavepart := rfl
@[simp] theorem Ctx.setEl_caveWb (c : Ctx) (r : Reg) (e v : Nat) : (c.setEl r e v).caveWb = c.caveWb := rfl
@[simp] theorem Ctx.setEl_caveLost (c : Ctx) (r : Reg) (e v : Nat) : (c.setEl r e v).caveLost = c.caveLost := rfl
@[simp] theorem Ctx.setEl_ptbase (c : Ctx) (r : Reg) (e v : Nat) : (c.setEl r e v).ptbase = c.ptbase := rfl
@[simp] theorem Ctx.setEl_bound (c : Ctx) (r : Reg) (e v : Nat) : (c.setEl r e v).bound = c.bound := rfl
@[simp] theorem Ctx.setEl_task (c : Ctx) (r : Reg) (e v : Nat) : (c.setEl r e v).task = c.task := rfl
@[simp] theorem Ctx.setEl_tlive (c : Ctx) (r : Reg) (e v : Nat) : (c.setEl r e v).tlive = c.tlive := rfl
@[simp] theorem Ctx.setEl_poolsel (c : Ctx) (r : Reg) (e v : Nat) : (c.setEl r e v).poolsel = c.poolsel := rfl
@[simp] theorem Ctx.setEl_tvec (c : Ctx) (r : Reg) (e v : Nat) : (c.setEl r e v).tvec = c.tvec := rfl
@[simp] theorem Ctx.setEl_epc (c : Ctx) (r : Reg) (e v : Nat) : (c.setEl r e v).epc = c.epc := rfl
@[simp] theorem Ctx.setEl_cause (c : Ctx) (r : Reg) (e v : Nat) : (c.setEl r e v).cause = c.cause := rfl
@[simp] theorem Ctx.setEl_tval (c : Ctx) (r : Reg) (e v : Nat) : (c.setEl r e v).tval = c.tval := rfl
@[simp] theorem Ctx.setEl_fromReg (c : Ctx) (r : Reg) (e v : Nat) : (c.setEl r e v).fromReg = c.fromReg := rfl
@[simp] theorem Ctx.setEl_status (c : Ctx) (r : Reg) (e v : Nat) : (c.setEl r e v).status = c.status := rfl
@[simp] theorem Ctx.setEl_tscratch (c : Ctx) (r : Reg) (e v : Nat) : (c.setEl r e v).tscratch = c.tscratch := rfl
@[simp] theorem Ctx.setEl_inflight (c : Ctx) (r : Reg) (e v : Nat) : (c.setEl r e v).inflight = c.inflight := rfl
@[simp] theorem Ctx.setEl_ifrec (c : Ctx) (r : Reg) (e v : Nat) : (c.setEl r e v).ifrec = c.ifrec := rfl
@[simp] theorem Ctx.setEl_replay (c : Ctx) (r : Reg) (e v : Nat) : (c.setEl r e v).replay = c.replay := rfl
@[simp] theorem Ctx.setEl_pending (c : Ctx) (r : Reg) (e v : Nat) : (c.setEl r e v).pending = c.pending := rfl
@[simp] theorem Ctx.setEl_sc (c : Ctx) (r : Reg) (e v : Nat) : (c.setEl r e v).sc = c.sc := rfl
@[simp] theorem Ctx.setEl_a (c : Ctx) (r : Reg) (e v : Nat) : (c.setEl r e v).a = c.a := rfl
@[simp] theorem Ctx.setEl_scratch (c : Ctx) (r : Reg) (e v : Nat) : (c.setEl r e v).scratch = c.scratch := rfl
@[simp] theorem Ctx.setEl_cave (c : Ctx) (r : Reg) (e v : Nat) : (c.setEl r e v).cave = c.cave := rfl
@[simp] theorem Ctx.setEl_caveTags (c : Ctx) (r : Reg) (e v : Nat) : (c.setEl r e v).caveTags = c.caveTags := rfl
@[simp] theorem Ctx.setEl_h (c : Ctx) (r : Reg) (e v : Nat) : (c.setEl r e v).h = c.h := rfl
@[simp] theorem Ctx.setEl_cp (c : Ctx) (r : Reg) (e v : Nat) : (c.setEl r e v).cp = c.cp := rfl
@[simp] theorem Ctx.setEl_gt (c : Ctx) (r : Reg) (e v : Nat) : (c.setEl r e v).gt = c.gt := rfl

/-! ### START at a stop: Ctx.stopAt -/

@[simp] theorem Ctx.stopAt_id (c : Ctx) (w : Word) (e : Nat) : (c.stopAt w e).id = c.id := rfl
@[simp] theorem Ctx.stopAt_phase (c : Ctx) (w : Word) (e : Nat) : (c.stopAt w e).phase = c.phase := rfl
@[simp] theorem Ctx.stopAt_stall (c : Ctx) (w : Word) (e : Nat) : (c.stopAt w e).stall = c.stall := rfl
@[simp] theorem Ctx.stopAt_leaf (c : Ctx) (w : Word) (e : Nat) : (c.stopAt w e).leaf = c.leaf := rfl
@[simp] theorem Ctx.stopAt_gang (c : Ctx) (w : Word) (e : Nat) : (c.stopAt w e).gang = c.gang := rfl
@[simp] theorem Ctx.stopAt_slot (c : Ctx) (w : Word) (e : Nat) : (c.stopAt w e).slot = c.slot := rfl
@[simp] theorem Ctx.stopAt_scrLog (c : Ctx) (w : Word) (e : Nat) : (c.stopAt w e).scrLog = c.scrLog := rfl
@[simp] theorem Ctx.stopAt_scrBase (c : Ctx) (w : Word) (e : Nat) : (c.stopAt w e).scrBase = c.scrBase := rfl
@[simp] theorem Ctx.stopAt_vatn (c : Ctx) (w : Word) (e : Nat) : (c.stopAt w e).vatn = c.vatn := rfl
@[simp] theorem Ctx.stopAt_coreid (c : Ctx) (w : Word) (e : Nat) : (c.stopAt w e).coreid = c.coreid := rfl
@[simp] theorem Ctx.stopAt_inst (c : Ctx) (w : Word) (e : Nat) : (c.stopAt w e).inst = c.inst := rfl
@[simp] theorem Ctx.stopAt_region (c : Ctx) (w : Word) (e : Nat) : (c.stopAt w e).region = c.region := rfl
@[simp] theorem Ctx.stopAt_lostStore (c : Ctx) (w : Word) (e : Nat) : (c.stopAt w e).lostStore = c.lostStore := rfl
@[simp] theorem Ctx.stopAt_hostReq (c : Ctx) (w : Word) (e : Nat) : (c.stopAt w e).hostReq = c.hostReq := rfl
@[simp] theorem Ctx.stopAt_saveSlot (c : Ctx) (w : Word) (e : Nat) : (c.stopAt w e).saveSlot = c.saveSlot := rfl
@[simp] theorem Ctx.stopAt_outAt (c : Ctx) (w : Word) (e : Nat) : (c.stopAt w e).outAt = c.outAt := rfl
@[simp] theorem Ctx.stopAt_hostSave (c : Ctx) (w : Word) (e : Nat) : (c.stopAt w e).hostSave = c.hostSave := rfl
@[simp] theorem Ctx.stopAt_areas (c : Ctx) (w : Word) (e : Nat) : (c.stopAt w e).areas = c.areas := rfl
@[simp] theorem Ctx.stopAt_stores (c : Ctx) (w : Word) (e : Nat) : (c.stopAt w e).stores = c.stores := rfl
@[simp] theorem Ctx.stopAt_x (c : Ctx) (w : Word) (e : Nat) : (c.stopAt w e).x = c.x := rfl
@[simp] theorem Ctx.stopAt_pc (c : Ctx) (w : Word) (e : Nat) : (c.stopAt w e).pc = c.pc := rfl
@[simp] theorem Ctx.stopAt_prev (c : Ctx) (w : Word) (e : Nat) : (c.stopAt w e).prev = c.prev := rfl
@[simp] theorem Ctx.stopAt_p (c : Ctx) (w : Word) (e : Nat) : (c.stopAt w e).p = c.p := rfl
@[simp] theorem Ctx.stopAt_strip (c : Ctx) (w : Word) (e : Nat) : (c.stopAt w e).strip = c.strip := rfl
@[simp] theorem Ctx.stopAt_press (c : Ctx) (w : Word) (e : Nat) : (c.stopAt w e).press = c.press := rfl
@[simp] theorem Ctx.stopAt_vp (c : Ctx) (w : Word) (e : Nat) : (c.stopAt w e).vp = c.vp := rfl
@[simp] theorem Ctx.stopAt_vpOut (c : Ctx) (w : Word) (e : Nat) : (c.stopAt w e).vpOut = c.vpOut := rfl
@[simp] theorem Ctx.stopAt_frm (c : Ctx) (w : Word) (e : Nat) : (c.stopAt w e).frm = c.frm := rfl
@[simp] theorem Ctx.stopAt_fflags (c : Ctx) (w : Word) (e : Nat) : (c.stopAt w e).fflags = c.fflags := rfl
@[simp] theorem Ctx.stopAt_srkey (c : Ctx) (w : Word) (e : Nat) : (c.stopAt w e).srkey = c.srkey := rfl
@[simp] theorem Ctx.stopAt_srbase (c : Ctx) (w : Word) (e : Nat) : (c.stopAt w e).srbase = c.srbase := rfl
@[simp] theorem Ctx.stopAt_vred (c : Ctx) (w : Word) (e : Nat) : (c.stopAt w e).vred = c.vred := rfl
@[simp] theorem Ctx.stopAt_mask (c : Ctx) (w : Word) (e : Nat) : (c.stopAt w e).mask = c.mask := rfl
@[simp] theorem Ctx.stopAt_vatmap (c : Ctx) (w : Word) (e : Nat) : (c.stopAt w e).vatmap = c.vatmap := rfl
@[simp] theorem Ctx.stopAt_qdesc (c : Ctx) (w : Word) (e : Nat) : (c.stopAt w e).qdesc = c.qdesc := rfl
@[simp] theorem Ctx.stopAt_qbase (c : Ctx) (w : Word) (e : Nat) : (c.stopAt w e).qbase = c.qbase := rfl
@[simp] theorem Ctx.stopAt_qstride (c : Ctx) (w : Word) (e : Nat) : (c.stopAt w e).qstride = c.qstride := rfl
@[simp] theorem Ctx.stopAt_vl (c : Ctx) (w : Word) (e : Nat) : (c.stopAt w e).vl = c.vl := rfl
@[simp] theorem Ctx.stopAt_vtype (c : Ctx) (w : Word) (e : Nat) : (c.stopAt w e).vtype = c.vtype := rfl
@[simp] theorem Ctx.stopAt_vhalo (c : Ctx) (w : Word) (e : Nat) : (c.stopAt w e).vhalo = c.vhalo := rfl
@[simp] theorem Ctx.stopAt_harm (c : Ctx) (w : Word) (e : Nat) : (c.stopAt w e).harm = c.harm := rfl
@[simp] theorem Ctx.stopAt_cavepart (c : Ctx) (w : Word) (e : Nat) : (c.stopAt w e).cavepart = c.cavepart := rfl
@[simp] theorem Ctx.stopAt_caveWb (c : Ctx) (w : Word) (e : Nat) : (c.stopAt w e).caveWb = c.caveWb := rfl
@[simp] theorem Ctx.stopAt_caveLost (c : Ctx) (w : Word) (e : Nat) : (c.stopAt w e).caveLost = c.caveLost := rfl
@[simp] theorem Ctx.stopAt_ptbase (c : Ctx) (w : Word) (e : Nat) : (c.stopAt w e).ptbase = c.ptbase := rfl
@[simp] theorem Ctx.stopAt_bound (c : Ctx) (w : Word) (e : Nat) : (c.stopAt w e).bound = c.bound := rfl
@[simp] theorem Ctx.stopAt_task (c : Ctx) (w : Word) (e : Nat) : (c.stopAt w e).task = c.task := rfl
@[simp] theorem Ctx.stopAt_tlive (c : Ctx) (w : Word) (e : Nat) : (c.stopAt w e).tlive = c.tlive := rfl
@[simp] theorem Ctx.stopAt_poolsel (c : Ctx) (w : Word) (e : Nat) : (c.stopAt w e).poolsel = c.poolsel := rfl
@[simp] theorem Ctx.stopAt_tvec (c : Ctx) (w : Word) (e : Nat) : (c.stopAt w e).tvec = c.tvec := rfl
@[simp] theorem Ctx.stopAt_epc (c : Ctx) (w : Word) (e : Nat) : (c.stopAt w e).epc = c.epc := rfl
@[simp] theorem Ctx.stopAt_cause (c : Ctx) (w : Word) (e : Nat) : (c.stopAt w e).cause = c.cause := rfl
@[simp] theorem Ctx.stopAt_tval (c : Ctx) (w : Word) (e : Nat) : (c.stopAt w e).tval = c.tval := rfl
@[simp] theorem Ctx.stopAt_fromReg (c : Ctx) (w : Word) (e : Nat) : (c.stopAt w e).fromReg = c.fromReg := rfl
@[simp] theorem Ctx.stopAt_status (c : Ctx) (w : Word) (e : Nat) : (c.stopAt w e).status = c.status := rfl
@[simp] theorem Ctx.stopAt_tscratch (c : Ctx) (w : Word) (e : Nat) : (c.stopAt w e).tscratch = c.tscratch := rfl
@[simp] theorem Ctx.stopAt_inflight (c : Ctx) (w : Word) (e : Nat) : (c.stopAt w e).inflight = c.inflight := rfl
@[simp] theorem Ctx.stopAt_ifrec (c : Ctx) (w : Word) (e : Nat) : (c.stopAt w e).ifrec = c.ifrec := rfl
@[simp] theorem Ctx.stopAt_replay (c : Ctx) (w : Word) (e : Nat) : (c.stopAt w e).replay = c.replay := rfl
@[simp] theorem Ctx.stopAt_pending (c : Ctx) (w : Word) (e : Nat) : (c.stopAt w e).pending = c.pending := rfl
@[simp] theorem Ctx.stopAt_v (c : Ctx) (w : Word) (e : Nat) : (c.stopAt w e).v = c.v := rfl
@[simp] theorem Ctx.stopAt_sc (c : Ctx) (w : Word) (e : Nat) : (c.stopAt w e).sc = c.sc := rfl
@[simp] theorem Ctx.stopAt_a (c : Ctx) (w : Word) (e : Nat) : (c.stopAt w e).a = c.a := rfl
@[simp] theorem Ctx.stopAt_scratch (c : Ctx) (w : Word) (e : Nat) : (c.stopAt w e).scratch = c.scratch := rfl
@[simp] theorem Ctx.stopAt_cave (c : Ctx) (w : Word) (e : Nat) : (c.stopAt w e).cave = c.cave := rfl
@[simp] theorem Ctx.stopAt_caveTags (c : Ctx) (w : Word) (e : Nat) : (c.stopAt w e).caveTags = c.caveTags := rfl
@[simp] theorem Ctx.stopAt_h (c : Ctx) (w : Word) (e : Nat) : (c.stopAt w e).h = c.h := rfl
@[simp] theorem Ctx.stopAt_cp (c : Ctx) (w : Word) (e : Nat) : (c.stopAt w e).cp = c.cp := rfl
@[simp] theorem Ctx.stopAt_gt (c : Ctx) (w : Word) (e : Nat) : (c.stopAt w e).gt = c.gt := rfl

/-! ### A scalar: Ctx.writeX -/

@[simp] theorem Ctx.writeX_id (c : Ctx) (r : Reg) (w : Word) : (c.writeX r w).id = c.id := by unfold Ctx.writeX; split <;> (try split) <;> rfl
@[simp] theorem Ctx.writeX_phase (c : Ctx) (r : Reg) (w : Word) : (c.writeX r w).phase = c.phase := by unfold Ctx.writeX; split <;> (try split) <;> rfl
@[simp] theorem Ctx.writeX_stall (c : Ctx) (r : Reg) (w : Word) : (c.writeX r w).stall = c.stall := by unfold Ctx.writeX; split <;> (try split) <;> rfl
@[simp] theorem Ctx.writeX_leaf (c : Ctx) (r : Reg) (w : Word) : (c.writeX r w).leaf = c.leaf := by unfold Ctx.writeX; split <;> (try split) <;> rfl
@[simp] theorem Ctx.writeX_gang (c : Ctx) (r : Reg) (w : Word) : (c.writeX r w).gang = c.gang := by unfold Ctx.writeX; split <;> (try split) <;> rfl
@[simp] theorem Ctx.writeX_slot (c : Ctx) (r : Reg) (w : Word) : (c.writeX r w).slot = c.slot := by unfold Ctx.writeX; split <;> (try split) <;> rfl
@[simp] theorem Ctx.writeX_scrLog (c : Ctx) (r : Reg) (w : Word) : (c.writeX r w).scrLog = c.scrLog := by unfold Ctx.writeX; split <;> (try split) <;> rfl
@[simp] theorem Ctx.writeX_scrBase (c : Ctx) (r : Reg) (w : Word) : (c.writeX r w).scrBase = c.scrBase := by unfold Ctx.writeX; split <;> (try split) <;> rfl
@[simp] theorem Ctx.writeX_vatn (c : Ctx) (r : Reg) (w : Word) : (c.writeX r w).vatn = c.vatn := by unfold Ctx.writeX; split <;> (try split) <;> rfl
@[simp] theorem Ctx.writeX_coreid (c : Ctx) (r : Reg) (w : Word) : (c.writeX r w).coreid = c.coreid := by unfold Ctx.writeX; split <;> (try split) <;> rfl
@[simp] theorem Ctx.writeX_inst (c : Ctx) (r : Reg) (w : Word) : (c.writeX r w).inst = c.inst := by unfold Ctx.writeX; split <;> (try split) <;> rfl
@[simp] theorem Ctx.writeX_region (c : Ctx) (r : Reg) (w : Word) : (c.writeX r w).region = c.region := by unfold Ctx.writeX; split <;> (try split) <;> rfl
@[simp] theorem Ctx.writeX_lostStore (c : Ctx) (r : Reg) (w : Word) : (c.writeX r w).lostStore = c.lostStore := by unfold Ctx.writeX; split <;> (try split) <;> rfl
@[simp] theorem Ctx.writeX_hostReq (c : Ctx) (r : Reg) (w : Word) : (c.writeX r w).hostReq = c.hostReq := by unfold Ctx.writeX; split <;> (try split) <;> rfl
@[simp] theorem Ctx.writeX_saveSlot (c : Ctx) (r : Reg) (w : Word) : (c.writeX r w).saveSlot = c.saveSlot := by unfold Ctx.writeX; split <;> (try split) <;> rfl
@[simp] theorem Ctx.writeX_outAt (c : Ctx) (r : Reg) (w : Word) : (c.writeX r w).outAt = c.outAt := by unfold Ctx.writeX; split <;> (try split) <;> rfl
@[simp] theorem Ctx.writeX_hostSave (c : Ctx) (r : Reg) (w : Word) : (c.writeX r w).hostSave = c.hostSave := by unfold Ctx.writeX; split <;> (try split) <;> rfl
@[simp] theorem Ctx.writeX_areas (c : Ctx) (r : Reg) (w : Word) : (c.writeX r w).areas = c.areas := by unfold Ctx.writeX; split <;> (try split) <;> rfl
@[simp] theorem Ctx.writeX_stores (c : Ctx) (r : Reg) (w : Word) : (c.writeX r w).stores = c.stores := by unfold Ctx.writeX; split <;> (try split) <;> rfl
@[simp] theorem Ctx.writeX_pc (c : Ctx) (r : Reg) (w : Word) : (c.writeX r w).pc = c.pc := by unfold Ctx.writeX; split <;> (try split) <;> rfl
@[simp] theorem Ctx.writeX_prev (c : Ctx) (r : Reg) (w : Word) : (c.writeX r w).prev = c.prev := by unfold Ctx.writeX; split <;> (try split) <;> rfl
@[simp] theorem Ctx.writeX_p (c : Ctx) (r : Reg) (w : Word) : (c.writeX r w).p = c.p := by unfold Ctx.writeX; split <;> (try split) <;> rfl
@[simp] theorem Ctx.writeX_strip (c : Ctx) (r : Reg) (w : Word) : (c.writeX r w).strip = c.strip := by unfold Ctx.writeX; split <;> (try split) <;> rfl
@[simp] theorem Ctx.writeX_press (c : Ctx) (r : Reg) (w : Word) : (c.writeX r w).press = c.press := by unfold Ctx.writeX; split <;> (try split) <;> rfl
@[simp] theorem Ctx.writeX_vp (c : Ctx) (r : Reg) (w : Word) : (c.writeX r w).vp = c.vp := by unfold Ctx.writeX; split <;> (try split) <;> rfl
@[simp] theorem Ctx.writeX_vpOut (c : Ctx) (r : Reg) (w : Word) : (c.writeX r w).vpOut = c.vpOut := by unfold Ctx.writeX; split <;> (try split) <;> rfl
@[simp] theorem Ctx.writeX_frm (c : Ctx) (r : Reg) (w : Word) : (c.writeX r w).frm = c.frm := by unfold Ctx.writeX; split <;> (try split) <;> rfl
@[simp] theorem Ctx.writeX_fflags (c : Ctx) (r : Reg) (w : Word) : (c.writeX r w).fflags = c.fflags := by unfold Ctx.writeX; split <;> (try split) <;> rfl
@[simp] theorem Ctx.writeX_srkey (c : Ctx) (r : Reg) (w : Word) : (c.writeX r w).srkey = c.srkey := by unfold Ctx.writeX; split <;> (try split) <;> rfl
@[simp] theorem Ctx.writeX_srbase (c : Ctx) (r : Reg) (w : Word) : (c.writeX r w).srbase = c.srbase := by unfold Ctx.writeX; split <;> (try split) <;> rfl
@[simp] theorem Ctx.writeX_vred (c : Ctx) (r : Reg) (w : Word) : (c.writeX r w).vred = c.vred := by unfold Ctx.writeX; split <;> (try split) <;> rfl
@[simp] theorem Ctx.writeX_mask (c : Ctx) (r : Reg) (w : Word) : (c.writeX r w).mask = c.mask := by unfold Ctx.writeX; split <;> (try split) <;> rfl
@[simp] theorem Ctx.writeX_vatmap (c : Ctx) (r : Reg) (w : Word) : (c.writeX r w).vatmap = c.vatmap := by unfold Ctx.writeX; split <;> (try split) <;> rfl
@[simp] theorem Ctx.writeX_qdesc (c : Ctx) (r : Reg) (w : Word) : (c.writeX r w).qdesc = c.qdesc := by unfold Ctx.writeX; split <;> (try split) <;> rfl
@[simp] theorem Ctx.writeX_qbase (c : Ctx) (r : Reg) (w : Word) : (c.writeX r w).qbase = c.qbase := by unfold Ctx.writeX; split <;> (try split) <;> rfl
@[simp] theorem Ctx.writeX_qstride (c : Ctx) (r : Reg) (w : Word) : (c.writeX r w).qstride = c.qstride := by unfold Ctx.writeX; split <;> (try split) <;> rfl
@[simp] theorem Ctx.writeX_vl (c : Ctx) (r : Reg) (w : Word) : (c.writeX r w).vl = c.vl := by unfold Ctx.writeX; split <;> (try split) <;> rfl
@[simp] theorem Ctx.writeX_vtype (c : Ctx) (r : Reg) (w : Word) : (c.writeX r w).vtype = c.vtype := by unfold Ctx.writeX; split <;> (try split) <;> rfl
@[simp] theorem Ctx.writeX_vstart (c : Ctx) (r : Reg) (w : Word) : (c.writeX r w).vstart = c.vstart := by unfold Ctx.writeX; split <;> (try split) <;> rfl
@[simp] theorem Ctx.writeX_vhalo (c : Ctx) (r : Reg) (w : Word) : (c.writeX r w).vhalo = c.vhalo := by unfold Ctx.writeX; split <;> (try split) <;> rfl
@[simp] theorem Ctx.writeX_harm (c : Ctx) (r : Reg) (w : Word) : (c.writeX r w).harm = c.harm := by unfold Ctx.writeX; split <;> (try split) <;> rfl
@[simp] theorem Ctx.writeX_cavepart (c : Ctx) (r : Reg) (w : Word) : (c.writeX r w).cavepart = c.cavepart := by unfold Ctx.writeX; split <;> (try split) <;> rfl
@[simp] theorem Ctx.writeX_caveWb (c : Ctx) (r : Reg) (w : Word) : (c.writeX r w).caveWb = c.caveWb := by unfold Ctx.writeX; split <;> (try split) <;> rfl
@[simp] theorem Ctx.writeX_caveLost (c : Ctx) (r : Reg) (w : Word) : (c.writeX r w).caveLost = c.caveLost := by unfold Ctx.writeX; split <;> (try split) <;> rfl
@[simp] theorem Ctx.writeX_ptbase (c : Ctx) (r : Reg) (w : Word) : (c.writeX r w).ptbase = c.ptbase := by unfold Ctx.writeX; split <;> (try split) <;> rfl
@[simp] theorem Ctx.writeX_bound (c : Ctx) (r : Reg) (w : Word) : (c.writeX r w).bound = c.bound := by unfold Ctx.writeX; split <;> (try split) <;> rfl
@[simp] theorem Ctx.writeX_task (c : Ctx) (r : Reg) (w : Word) : (c.writeX r w).task = c.task := by unfold Ctx.writeX; split <;> (try split) <;> rfl
@[simp] theorem Ctx.writeX_tlive (c : Ctx) (r : Reg) (w : Word) : (c.writeX r w).tlive = c.tlive := by unfold Ctx.writeX; split <;> (try split) <;> rfl
@[simp] theorem Ctx.writeX_poolsel (c : Ctx) (r : Reg) (w : Word) : (c.writeX r w).poolsel = c.poolsel := by unfold Ctx.writeX; split <;> (try split) <;> rfl
@[simp] theorem Ctx.writeX_tvec (c : Ctx) (r : Reg) (w : Word) : (c.writeX r w).tvec = c.tvec := by unfold Ctx.writeX; split <;> (try split) <;> rfl
@[simp] theorem Ctx.writeX_epc (c : Ctx) (r : Reg) (w : Word) : (c.writeX r w).epc = c.epc := by unfold Ctx.writeX; split <;> (try split) <;> rfl
@[simp] theorem Ctx.writeX_cause (c : Ctx) (r : Reg) (w : Word) : (c.writeX r w).cause = c.cause := by unfold Ctx.writeX; split <;> (try split) <;> rfl
@[simp] theorem Ctx.writeX_tval (c : Ctx) (r : Reg) (w : Word) : (c.writeX r w).tval = c.tval := by unfold Ctx.writeX; split <;> (try split) <;> rfl
@[simp] theorem Ctx.writeX_fromReg (c : Ctx) (r : Reg) (w : Word) : (c.writeX r w).fromReg = c.fromReg := by unfold Ctx.writeX; split <;> (try split) <;> rfl
@[simp] theorem Ctx.writeX_status (c : Ctx) (r : Reg) (w : Word) : (c.writeX r w).status = c.status := by unfold Ctx.writeX; split <;> (try split) <;> rfl
@[simp] theorem Ctx.writeX_tscratch (c : Ctx) (r : Reg) (w : Word) : (c.writeX r w).tscratch = c.tscratch := by unfold Ctx.writeX; split <;> (try split) <;> rfl
@[simp] theorem Ctx.writeX_inflight (c : Ctx) (r : Reg) (w : Word) : (c.writeX r w).inflight = c.inflight := by unfold Ctx.writeX; split <;> (try split) <;> rfl
@[simp] theorem Ctx.writeX_ifrec (c : Ctx) (r : Reg) (w : Word) : (c.writeX r w).ifrec = c.ifrec := by unfold Ctx.writeX; split <;> (try split) <;> rfl
@[simp] theorem Ctx.writeX_replay (c : Ctx) (r : Reg) (w : Word) : (c.writeX r w).replay = c.replay := by unfold Ctx.writeX; split <;> (try split) <;> rfl
@[simp] theorem Ctx.writeX_pending (c : Ctx) (r : Reg) (w : Word) : (c.writeX r w).pending = c.pending := by unfold Ctx.writeX; split <;> (try split) <;> rfl
@[simp] theorem Ctx.writeX_sc (c : Ctx) (r : Reg) (w : Word) : (c.writeX r w).sc = c.sc := by unfold Ctx.writeX; split <;> (try split) <;> rfl
@[simp] theorem Ctx.writeX_a (c : Ctx) (r : Reg) (w : Word) : (c.writeX r w).a = c.a := by unfold Ctx.writeX; split <;> (try split) <;> rfl
@[simp] theorem Ctx.writeX_scratch (c : Ctx) (r : Reg) (w : Word) : (c.writeX r w).scratch = c.scratch := by unfold Ctx.writeX; split <;> (try split) <;> rfl
@[simp] theorem Ctx.writeX_cave (c : Ctx) (r : Reg) (w : Word) : (c.writeX r w).cave = c.cave := by unfold Ctx.writeX; split <;> (try split) <;> rfl
@[simp] theorem Ctx.writeX_caveTags (c : Ctx) (r : Reg) (w : Word) : (c.writeX r w).caveTags = c.caveTags := by unfold Ctx.writeX; split <;> (try split) <;> rfl
@[simp] theorem Ctx.writeX_h (c : Ctx) (r : Reg) (w : Word) : (c.writeX r w).h = c.h := by unfold Ctx.writeX; split <;> (try split) <;> rfl
@[simp] theorem Ctx.writeX_cp (c : Ctx) (r : Reg) (w : Word) : (c.writeX r w).cp = c.cp := by unfold Ctx.writeX; split <;> (try split) <;> rfl
@[simp] theorem Ctx.writeX_gt (c : Ctx) (r : Reg) (w : Word) : (c.writeX r w).gt = c.gt := by unfold Ctx.writeX; split <;> (try split) <;> rfl

/-! ### A predicate: Ctx.writeP -/

@[simp] theorem Ctx.writeP_id (c : Ctx) (r : Reg) (w : Pred) : (c.writeP r w).id = c.id := by unfold Ctx.writeP; split <;> rfl
@[simp] theorem Ctx.writeP_phase (c : Ctx) (r : Reg) (w : Pred) : (c.writeP r w).phase = c.phase := by unfold Ctx.writeP; split <;> rfl
@[simp] theorem Ctx.writeP_stall (c : Ctx) (r : Reg) (w : Pred) : (c.writeP r w).stall = c.stall := by unfold Ctx.writeP; split <;> rfl
@[simp] theorem Ctx.writeP_leaf (c : Ctx) (r : Reg) (w : Pred) : (c.writeP r w).leaf = c.leaf := by unfold Ctx.writeP; split <;> rfl
@[simp] theorem Ctx.writeP_gang (c : Ctx) (r : Reg) (w : Pred) : (c.writeP r w).gang = c.gang := by unfold Ctx.writeP; split <;> rfl
@[simp] theorem Ctx.writeP_slot (c : Ctx) (r : Reg) (w : Pred) : (c.writeP r w).slot = c.slot := by unfold Ctx.writeP; split <;> rfl
@[simp] theorem Ctx.writeP_scrLog (c : Ctx) (r : Reg) (w : Pred) : (c.writeP r w).scrLog = c.scrLog := by unfold Ctx.writeP; split <;> rfl
@[simp] theorem Ctx.writeP_scrBase (c : Ctx) (r : Reg) (w : Pred) : (c.writeP r w).scrBase = c.scrBase := by unfold Ctx.writeP; split <;> rfl
@[simp] theorem Ctx.writeP_vatn (c : Ctx) (r : Reg) (w : Pred) : (c.writeP r w).vatn = c.vatn := by unfold Ctx.writeP; split <;> rfl
@[simp] theorem Ctx.writeP_coreid (c : Ctx) (r : Reg) (w : Pred) : (c.writeP r w).coreid = c.coreid := by unfold Ctx.writeP; split <;> rfl
@[simp] theorem Ctx.writeP_inst (c : Ctx) (r : Reg) (w : Pred) : (c.writeP r w).inst = c.inst := by unfold Ctx.writeP; split <;> rfl
@[simp] theorem Ctx.writeP_region (c : Ctx) (r : Reg) (w : Pred) : (c.writeP r w).region = c.region := by unfold Ctx.writeP; split <;> rfl
@[simp] theorem Ctx.writeP_lostStore (c : Ctx) (r : Reg) (w : Pred) : (c.writeP r w).lostStore = c.lostStore := by unfold Ctx.writeP; split <;> rfl
@[simp] theorem Ctx.writeP_hostReq (c : Ctx) (r : Reg) (w : Pred) : (c.writeP r w).hostReq = c.hostReq := by unfold Ctx.writeP; split <;> rfl
@[simp] theorem Ctx.writeP_saveSlot (c : Ctx) (r : Reg) (w : Pred) : (c.writeP r w).saveSlot = c.saveSlot := by unfold Ctx.writeP; split <;> rfl
@[simp] theorem Ctx.writeP_outAt (c : Ctx) (r : Reg) (w : Pred) : (c.writeP r w).outAt = c.outAt := by unfold Ctx.writeP; split <;> rfl
@[simp] theorem Ctx.writeP_hostSave (c : Ctx) (r : Reg) (w : Pred) : (c.writeP r w).hostSave = c.hostSave := by unfold Ctx.writeP; split <;> rfl
@[simp] theorem Ctx.writeP_areas (c : Ctx) (r : Reg) (w : Pred) : (c.writeP r w).areas = c.areas := by unfold Ctx.writeP; split <;> rfl
@[simp] theorem Ctx.writeP_stores (c : Ctx) (r : Reg) (w : Pred) : (c.writeP r w).stores = c.stores := by unfold Ctx.writeP; split <;> rfl
@[simp] theorem Ctx.writeP_x (c : Ctx) (r : Reg) (w : Pred) : (c.writeP r w).x = c.x := by unfold Ctx.writeP; split <;> rfl
@[simp] theorem Ctx.writeP_pc (c : Ctx) (r : Reg) (w : Pred) : (c.writeP r w).pc = c.pc := by unfold Ctx.writeP; split <;> rfl
@[simp] theorem Ctx.writeP_prev (c : Ctx) (r : Reg) (w : Pred) : (c.writeP r w).prev = c.prev := by unfold Ctx.writeP; split <;> rfl
@[simp] theorem Ctx.writeP_strip (c : Ctx) (r : Reg) (w : Pred) : (c.writeP r w).strip = c.strip := by unfold Ctx.writeP; split <;> rfl
@[simp] theorem Ctx.writeP_press (c : Ctx) (r : Reg) (w : Pred) : (c.writeP r w).press = c.press := by unfold Ctx.writeP; split <;> rfl
@[simp] theorem Ctx.writeP_vp (c : Ctx) (r : Reg) (w : Pred) : (c.writeP r w).vp = c.vp := by unfold Ctx.writeP; split <;> rfl
@[simp] theorem Ctx.writeP_vpOut (c : Ctx) (r : Reg) (w : Pred) : (c.writeP r w).vpOut = c.vpOut := by unfold Ctx.writeP; split <;> rfl
@[simp] theorem Ctx.writeP_frm (c : Ctx) (r : Reg) (w : Pred) : (c.writeP r w).frm = c.frm := by unfold Ctx.writeP; split <;> rfl
@[simp] theorem Ctx.writeP_fflags (c : Ctx) (r : Reg) (w : Pred) : (c.writeP r w).fflags = c.fflags := by unfold Ctx.writeP; split <;> rfl
@[simp] theorem Ctx.writeP_srkey (c : Ctx) (r : Reg) (w : Pred) : (c.writeP r w).srkey = c.srkey := by unfold Ctx.writeP; split <;> rfl
@[simp] theorem Ctx.writeP_srbase (c : Ctx) (r : Reg) (w : Pred) : (c.writeP r w).srbase = c.srbase := by unfold Ctx.writeP; split <;> rfl
@[simp] theorem Ctx.writeP_vred (c : Ctx) (r : Reg) (w : Pred) : (c.writeP r w).vred = c.vred := by unfold Ctx.writeP; split <;> rfl
@[simp] theorem Ctx.writeP_mask (c : Ctx) (r : Reg) (w : Pred) : (c.writeP r w).mask = c.mask := by unfold Ctx.writeP; split <;> rfl
@[simp] theorem Ctx.writeP_vatmap (c : Ctx) (r : Reg) (w : Pred) : (c.writeP r w).vatmap = c.vatmap := by unfold Ctx.writeP; split <;> rfl
@[simp] theorem Ctx.writeP_qdesc (c : Ctx) (r : Reg) (w : Pred) : (c.writeP r w).qdesc = c.qdesc := by unfold Ctx.writeP; split <;> rfl
@[simp] theorem Ctx.writeP_qbase (c : Ctx) (r : Reg) (w : Pred) : (c.writeP r w).qbase = c.qbase := by unfold Ctx.writeP; split <;> rfl
@[simp] theorem Ctx.writeP_qstride (c : Ctx) (r : Reg) (w : Pred) : (c.writeP r w).qstride = c.qstride := by unfold Ctx.writeP; split <;> rfl
@[simp] theorem Ctx.writeP_vl (c : Ctx) (r : Reg) (w : Pred) : (c.writeP r w).vl = c.vl := by unfold Ctx.writeP; split <;> rfl
@[simp] theorem Ctx.writeP_vtype (c : Ctx) (r : Reg) (w : Pred) : (c.writeP r w).vtype = c.vtype := by unfold Ctx.writeP; split <;> rfl
@[simp] theorem Ctx.writeP_vstart (c : Ctx) (r : Reg) (w : Pred) : (c.writeP r w).vstart = c.vstart := by unfold Ctx.writeP; split <;> rfl
@[simp] theorem Ctx.writeP_vhalo (c : Ctx) (r : Reg) (w : Pred) : (c.writeP r w).vhalo = c.vhalo := by unfold Ctx.writeP; split <;> rfl
@[simp] theorem Ctx.writeP_harm (c : Ctx) (r : Reg) (w : Pred) : (c.writeP r w).harm = c.harm := by unfold Ctx.writeP; split <;> rfl
@[simp] theorem Ctx.writeP_cavepart (c : Ctx) (r : Reg) (w : Pred) : (c.writeP r w).cavepart = c.cavepart := by unfold Ctx.writeP; split <;> rfl
@[simp] theorem Ctx.writeP_caveWb (c : Ctx) (r : Reg) (w : Pred) : (c.writeP r w).caveWb = c.caveWb := by unfold Ctx.writeP; split <;> rfl
@[simp] theorem Ctx.writeP_caveLost (c : Ctx) (r : Reg) (w : Pred) : (c.writeP r w).caveLost = c.caveLost := by unfold Ctx.writeP; split <;> rfl
@[simp] theorem Ctx.writeP_ptbase (c : Ctx) (r : Reg) (w : Pred) : (c.writeP r w).ptbase = c.ptbase := by unfold Ctx.writeP; split <;> rfl
@[simp] theorem Ctx.writeP_bound (c : Ctx) (r : Reg) (w : Pred) : (c.writeP r w).bound = c.bound := by unfold Ctx.writeP; split <;> rfl
@[simp] theorem Ctx.writeP_task (c : Ctx) (r : Reg) (w : Pred) : (c.writeP r w).task = c.task := by unfold Ctx.writeP; split <;> rfl
@[simp] theorem Ctx.writeP_tlive (c : Ctx) (r : Reg) (w : Pred) : (c.writeP r w).tlive = c.tlive := by unfold Ctx.writeP; split <;> rfl
@[simp] theorem Ctx.writeP_poolsel (c : Ctx) (r : Reg) (w : Pred) : (c.writeP r w).poolsel = c.poolsel := by unfold Ctx.writeP; split <;> rfl
@[simp] theorem Ctx.writeP_tvec (c : Ctx) (r : Reg) (w : Pred) : (c.writeP r w).tvec = c.tvec := by unfold Ctx.writeP; split <;> rfl
@[simp] theorem Ctx.writeP_epc (c : Ctx) (r : Reg) (w : Pred) : (c.writeP r w).epc = c.epc := by unfold Ctx.writeP; split <;> rfl
@[simp] theorem Ctx.writeP_cause (c : Ctx) (r : Reg) (w : Pred) : (c.writeP r w).cause = c.cause := by unfold Ctx.writeP; split <;> rfl
@[simp] theorem Ctx.writeP_tval (c : Ctx) (r : Reg) (w : Pred) : (c.writeP r w).tval = c.tval := by unfold Ctx.writeP; split <;> rfl
@[simp] theorem Ctx.writeP_fromReg (c : Ctx) (r : Reg) (w : Pred) : (c.writeP r w).fromReg = c.fromReg := by unfold Ctx.writeP; split <;> rfl
@[simp] theorem Ctx.writeP_status (c : Ctx) (r : Reg) (w : Pred) : (c.writeP r w).status = c.status := by unfold Ctx.writeP; split <;> rfl
@[simp] theorem Ctx.writeP_tscratch (c : Ctx) (r : Reg) (w : Pred) : (c.writeP r w).tscratch = c.tscratch := by unfold Ctx.writeP; split <;> rfl
@[simp] theorem Ctx.writeP_inflight (c : Ctx) (r : Reg) (w : Pred) : (c.writeP r w).inflight = c.inflight := by unfold Ctx.writeP; split <;> rfl
@[simp] theorem Ctx.writeP_ifrec (c : Ctx) (r : Reg) (w : Pred) : (c.writeP r w).ifrec = c.ifrec := by unfold Ctx.writeP; split <;> rfl
@[simp] theorem Ctx.writeP_replay (c : Ctx) (r : Reg) (w : Pred) : (c.writeP r w).replay = c.replay := by unfold Ctx.writeP; split <;> rfl
@[simp] theorem Ctx.writeP_pending (c : Ctx) (r : Reg) (w : Pred) : (c.writeP r w).pending = c.pending := by unfold Ctx.writeP; split <;> rfl
@[simp] theorem Ctx.writeP_v (c : Ctx) (r : Reg) (w : Pred) : (c.writeP r w).v = c.v := by unfold Ctx.writeP; split <;> rfl
@[simp] theorem Ctx.writeP_sc (c : Ctx) (r : Reg) (w : Pred) : (c.writeP r w).sc = c.sc := by unfold Ctx.writeP; split <;> rfl
@[simp] theorem Ctx.writeP_a (c : Ctx) (r : Reg) (w : Pred) : (c.writeP r w).a = c.a := by unfold Ctx.writeP; split <;> rfl
@[simp] theorem Ctx.writeP_scratch (c : Ctx) (r : Reg) (w : Pred) : (c.writeP r w).scratch = c.scratch := by unfold Ctx.writeP; split <;> rfl
@[simp] theorem Ctx.writeP_cave (c : Ctx) (r : Reg) (w : Pred) : (c.writeP r w).cave = c.cave := by unfold Ctx.writeP; split <;> rfl
@[simp] theorem Ctx.writeP_caveTags (c : Ctx) (r : Reg) (w : Pred) : (c.writeP r w).caveTags = c.caveTags := by unfold Ctx.writeP; split <;> rfl
@[simp] theorem Ctx.writeP_h (c : Ctx) (r : Reg) (w : Pred) : (c.writeP r w).h = c.h := by unfold Ctx.writeP; split <;> rfl
@[simp] theorem Ctx.writeP_cp (c : Ctx) (r : Reg) (w : Pred) : (c.writeP r w).cp = c.cp := by unfold Ctx.writeP; split <;> rfl
@[simp] theorem Ctx.writeP_gt (c : Ctx) (r : Reg) (w : Pred) : (c.writeP r w).gt = c.gt := by unfold Ctx.writeP; split <;> rfl

end Sys2Proof.Machine
end

