-- ==== Sys2Proof/Laws/Access.lean ====
section
/-! SUPPORT. Translation and places: what a translation leaves, how many bytes an access locates, that every write keeps the canonical
forms, and what accesses do to the caches. -/

namespace Sys2Proof.Machine

/-- The core without what its caches hold. -/
def Core.bare (c : Core) : Core := { c with l1 := [], code := [], tlb := [] }
/-- The tower without what its last-level TLB holds. -/
def Tower.bare (t : Tower) : Tower := { t with tlb := [] }

/-- Between `s` and `t` memory, tags and what the caches of cores and towers hold may change, and memory and tags keep their
canonical form; nothing else changes. -/
structure Touched (s t : State) : Prop where
  same : t = { s with
    mem := t.mem, tags := t.tags, co := t.co, tw := t.tw, cores := t.cores, towers := t.towers
    dev := { s.dev with peerLines := t.dev.peerLines, rind := t.dev.rind } }
  core : ∀ n, (t.core n).bare = (s.core n).bare
  tower : ∀ n, (t.tower n).bare = (s.tower n).bare
  mem : s.mem.wf = true → t.mem.wf = true
  tags : s.tags.wf → t.tags.wf

theorem Touched.cx {s t : State} (h : Touched s t) : t.cx = s.cx := by rw [h.same]
theorem Touched.others {s t : State} (h : Touched s t) : t.others = s.others := by rw [h.same]
theorem Touched.poison {s t : State} (h : Touched s t) : t.poison = s.poison := by rw [h.same]
theorem Touched.pend {s t : State} (h : Touched s t) : t.pend = s.pend := by rw [h.same]
theorem Touched.agenda {s t : State} (h : Touched s t) : t.agenda = s.agenda := by rw [h.same]
theorem Touched.ticks {s t : State} (h : Touched s t) : t.ticks = s.ticks := by rw [h.same]
theorem Touched.free {s t : State} (h : Touched s t) : t.free = s.free := by rw [h.same]
theorem Touched.caching {s t : State} (h : Touched s t) : t.caching = s.caching := by rw [h.same]
theorem Touched.cut {s t : State} (h : Touched s t) : t.cut = s.cut := by rw [h.same]
theorem Touched.dev {s t : State} (h : Touched s t) :
    t.dev = { s.dev with peerLines := t.dev.peerLines, rind := t.dev.rind } := by rw [h.same]
theorem Touched.co {s t : State} (h : Touched s t) : t.co.bare = s.co.bare := by
  simpa [State.core, h.cx] using h.core s.cx.coreid
theorem Touched.tw {s t : State} (h : Touched s t) : t.tw.bare = s.tw.bare := by
  simpa [State.tower, h.cx] using h.tower (towerOf s.cx.coreid)

theorem Touched.refl (s : State) : Touched s s := ⟨rfl, fun _ => rfl, fun _ => rfl, id, id⟩

theorem Touched.trans {s t u : State} (h : Touched s t) (h' : Touched t u) : Touched s u :=
  ⟨by rw [h'.same, h.same], fun n => (h'.core n).trans (h.core n), fun n => (h'.tower n).trans (h.tower n),
    fun w => h'.mem (h.mem w), fun w => h'.tags (h.tags w)⟩

/-- Memory and tags alone. -/
theorem Touched.bytes {s : State} {m : Memory} {g : Tags} (hm : s.mem.wf = true → m.wf = true) (hg : s.tags.wf → g.wf) :
    Touched s { s with mem := m, tags := g } := ⟨rfl, fun _ => rfl, fun _ => rfl, hm, hg⟩

/-! ### Cores and towers -/

theorem coreAt_put (l : List (Nat × Core)) (n k : Nat) (c : Core) : coreAt (assocPut l n c) k = if k = n then c else coreAt l k := by
  induction l with
  | nil => simp [assocPut, coreAt, eq_comm]
  | cons x l ih =>
    obtain ⟨j, d⟩ := x
    simp only [assocPut]
    split
    · subst_vars; simp only [coreAt]; split <;> simp_all
    · simp only [coreAt, ih]; split <;> split <;> simp_all

theorem towerAt_put (l : List (Nat × Tower)) (n k : Nat) (c : Tower) :
    towerAt (assocPut l n c) k = if k = n then c else towerAt l k := by
  induction l with
  | nil => simp [assocPut, towerAt, eq_comm]
  | cons x l ih =>
    obtain ⟨j, d⟩ := x
    simp only [assocPut]
    split
    · subst_vars; simp only [towerAt]; split <;> simp_all
    · simp only [towerAt, ih]; split <;> split <;> simp_all

/-- A core reads as what was last put there. -/
theorem core_setCore (s : State) (n k : BitVec 12) (c : Core) : (s.setCore n c).core k = if k = n then c else s.core k := by
  unfold State.setCore State.core
  by_cases h : n = s.cx.coreid
  · subst h; by_cases hk : k = s.cx.coreid <;> simp [hk]
  · simp only [if_neg h, coreAt_put]
    by_cases hk : k = s.cx.coreid
    · subst hk; simp [Ne.symm h]
    · simp only [if_neg hk]; exact if_congr (BitVec.toNat_inj) rfl rfl

theorem tower_setTower (s : State) (n k : BitVec 3) (c : Tower) : (s.setTower n c).tower k = if k = n then c else s.tower k := by
  unfold State.setTower State.tower
  by_cases h : n = towerOf s.cx.coreid
  · subst h; by_cases hk : k = towerOf s.cx.coreid <;> simp [hk]
  · simp only [if_neg h, towerAt_put]
    by_cases hk : k = towerOf s.cx.coreid
    · subst hk; simp [Ne.symm h]
    · simp only [if_neg hk]; exact if_congr (BitVec.toNat_inj) rfl rfl

@[simp] theorem core_setTower (s : State) (n : BitVec 3) (w : Tower) (k : BitVec 12) : (s.setTower n w).core k = s.core k := by
  unfold State.setTower; split <;> rfl
@[simp] theorem tower_setCore (s : State) (n : BitVec 12) (c : Core) (k : BitVec 3) : (s.setCore n c).tower k = s.tower k := by
  unfold State.setCore; split <;> rfl

/-- A core's caches change and nothing else. -/
theorem setCore_touched (s : State) (n : BitVec 12) (c : Core) (h : c.bare = (s.core n).bare) : Touched s (s.setCore n c) := by
  refine ⟨?_, fun k => ?_, fun k => by simp, ?_, ?_⟩
  · unfold State.setCore; split <;> rfl
  · rw [core_setCore]; split
    · subst_vars; exact h
    · rfl
  · unfold State.setCore; split <;> exact id
  · unfold State.setCore; split <;> exact id

theorem setTower_touched (s : State) (n : BitVec 3) (w : Tower) (h : w.bare = (s.tower n).bare) : Touched s (s.setTower n w) := by
  refine ⟨?_, fun k => by simp, fun k => ?_, ?_, ?_⟩
  · unfold State.setTower; split <;> rfl
  · rw [tower_setTower]; split
    · subst_vars; exact h
    · rfl
  · unfold State.setTower; split <;> exact id
  · unfold State.setTower; split <;> exact id

theorem setTlb_touched (s : State) (n : BitVec 12) (l : List Xlate) : Touched s (s.setCore n { s.core n with tlb := l }) :=
  setCore_touched s n _ rfl
theorem setL1_touched (s : State) (n : BitVec 12) (l : Words) : Touched s (s.setCore n { s.core n with l1 := l }) :=
  setCore_touched s n _ rfl
theorem setLastTlb_touched (s : State) (n : BitVec 3) (l : List Xlate) : Touched s (s.setTower n { s.tower n with tlb := l }) :=
  setTower_touched s n _ rfl

@[simp] theorem setCore_mem (s : State) (n : BitVec 12) (c : Core) : (s.setCore n c).mem = s.mem := by
  unfold State.setCore; split <;> rfl
@[simp] theorem setTower_mem (s : State) (n : BitVec 3) (w : Tower) : (s.setTower n w).mem = s.mem := by
  unfold State.setTower; split <;> rfl
@[simp] theorem setCore_tags (s : State) (n : BitVec 12) (c : Core) : (s.setCore n c).tags = s.tags := by
  unfold State.setCore; split <;> rfl
@[simp] theorem setTower_tags (s : State) (n : BitVec 3) (w : Tower) : (s.setTower n w).tags = s.tags := by
  unfold State.setTower; split <;> rfl

/-- The copies of peer lines and the rind buffers change and nothing else. -/
theorem dev_touched (s : State) (p : List PeerLine) (r : List Rind) :
    Touched s { s with dev := { s.dev with peerLines := p, rind := r } } := ⟨rfl, fun _ => rfl, fun _ => rfl, id, id⟩

/-! ### Tags of written lines -/

theorem bump_touched (s : State) (line : Nat) : Touched s (s.bump line) := by
  unfold State.bump; split
  · exact Touched.bytes id fun h => Tags.put_wf h _ _
  · exact .refl s

@[simp] theorem bump_mem (s : State) (line : Nat) : (s.bump line).mem = s.mem := by unfold State.bump; split <;> rfl

theorem bumps_touched (s : State) (lines : List Nat) : Touched s (s.bumps lines) := by
  unfold State.bumps
  induction lines generalizing s with
  | nil => exact .refl s
  | cons l ls ih => exact (bump_touched s l).trans (ih _)

@[simp] theorem bumps_mem (s : State) (lines : List Nat) : (s.bumps lines).mem = s.mem := by
  unfold State.bumps
  induction lines generalizing s with
  | nil => rfl
  | cons l ls ih => simp [ih]

/-! ### Copies of peer lines (R192) -/

theorem leavePeers_touched (s : State) (t : BitVec 3) (hit : Nat → Bool) : Touched s (s.leavePeers t hit) := by
  unfold State.leavePeers; split
  · exact .refl s
  · exact dev_touched s _ s.dev.rind

@[simp] theorem leavePeers_mem (s : State) (t : BitVec 3) (hit : Nat → Bool) : (s.leavePeers t hit).mem = s.mem := by
  unfold State.leavePeers; split <;> rfl

theorem keepPeer_touched (s : State) (t : BitVec 3) (line : Nat) : Touched s (s.keepPeer t line) := by
  simp only [State.keepPeer]; split
  · exact .refl s
  · exact dev_touched s _ s.dev.rind

@[simp] theorem keepPeer_mem (s : State) (t : BitVec 3) (line : Nat) : (s.keepPeer t line).mem = s.mem := by
  simp only [State.keepPeer]; split <;> rfl

theorem keepPeers_touched (s : State) (t : BitVec 3) (l : List Nat) : Touched s (l.foldl (fun s n => s.keepPeer t n) s) := by
  induction l generalizing s with
  | nil => exact .refl s
  | cons n l ih => exact (keepPeer_touched s t n).trans (ih _)

/-! ### Translation (R194 to R197) -/

/-- For a core, setting ACC and DRT touches the entry, its tag and the tower's copy of its line. -/
theorem markLeaf_touched (s : State) (core : BitVec 12) (l : Leaf) (acc : Acc) : Touched s (s.markLeaf (some core) l acc).1 := by
  simp only [State.markLeaf]
  generalize (if acc.writes = true then (0xc0 : Byte) else 0x80) = bits
  split
  · exact .refl s
  · dsimp only
    exact ((Touched.bytes (fun w => Memory.put_wf w _ _) fun w => w).trans (bump_touched _ _)).trans (leavePeers_touched _ _ _)

theorem keepWalked_touched (s : State) (who : Option (BitVec 12)) (ls : List Loc) : Touched s (s.keepWalked who ls) := by
  cases who
  · exact .refl s
  · simp only [State.keepWalked]
    split
    · exact keepPeers_touched _ _ _
    · exact .refl s

theorem keepXlate_touched (s : State) (who : Option (BitVec 12)) (x : Xlate) : Touched s (s.keepXlate who x) := by
  unfold State.keepXlate
  split
  · exact .refl s
  · split
    · exact .refl s
    · exact (setTlb_touched s _ _).trans (setLastTlb_touched _ _ _)

theorem translate_touched {s t : State} {core : BitVec 12} {root va : Word} {sup : Bool} {acc : Acc} {pa : Nat} {uc : Bool}
    (h : s.translate (some core) root sup acc va = .ok (t, pa, uc)) : Touched s t := by
  unfold State.translate at h
  split at h
  · cases h
  · split at h
    · rename_i x _
      cases hg : leafGives x.pte x.level sup acc va.toNat with
      | error e => rw [hg] at h; cases h
      | ok r => rw [hg] at h; cases h; exact .refl s
    · split at h
      · cases h
      · cases h
      · cases h
      · split at h
        · cases h
        · simp only [Except.ok.injEq, Prod.mk.injEq] at h
          obtain ⟨rfl, -⟩ := h
          exact ((keepWalked_touched _ _ _).trans (markLeaf_touched _ _ _ _)).trans (keepXlate_touched _ _ _)

theorem gLocs_touched {s t : State} {core : BitVec 12} {root va : Word} {sup : Bool} {acc : Acc} {n fuel : Nat}
    {ls : List Loc}
    (h : s.gLocs (some core) root sup acc va n fuel = .ok (t, ls)) : Touched s t := by
  induction fuel generalizing s va n ls with
  | zero => cases n <;> (cases h; exact .refl _)
  | succ fuel ih =>
    cases n with
    | zero => cases h; exact .refl _
    | succ n =>
      simp only [State.gLocs] at h
      split at h
      · cases h
      · rename_i s1 pa uc h1
        split at h
        · cases h
        · split at h
          · cases h
          · rename_i s2 rest h2
            cases h
            exact (translate_touched h1).trans (ih h2)

theorem mapM_length {α β : Type} {f : α → Option β} {l : List α} {r : List β} (h : l.mapM f = some r) : r.length = l.length := by
  induction l generalizing r with
  | nil => simp at h; subst h; rfl
  | cons a l ih =>
    simp only [List.mapM_cons, Option.pure_def, Option.bind_eq_bind, Option.bind_eq_some_iff, Option.some.injEq] at h
    obtain ⟨b, -, bs, h2, rfl⟩ := h
    simp [ih h2]

/-- An access locates each of its bytes. -/
theorem gLocs_length {s t : State} {who : Option (BitVec 12)} {root va : Word} {sup : Bool} {acc : Acc} {n fuel : Nat}
    {ls : List Loc}
    (h : s.gLocs who root sup acc va n fuel = .ok (t, ls)) (hn : va.toNat % 4096 + n ≤ 4096 * fuel) : ls.length = n := by
  induction fuel generalizing s va n ls with
  | zero => cases n with
    | zero => cases h; rfl
    | succ n => omega
  | succ fuel ih =>
    cases n with
    | zero => cases h; rfl
    | succ n =>
      simp only [State.gLocs] at h
      split at h
      · cases h
      · rename_i s1 pa uc h1
        split at h
        · cases h
        · rename_i l hl
          split at h
          · cases h
          · rename_i s2 rest h2
            cases h
            have hk := mapM_length hl
            simp only [List.length_range] at hk
            rw [List.length_append, hk]
            by_cases hle : n + 1 ≤ 4096 - va.toNat % 4096
            · rw [Nat.min_eq_left hle, Nat.sub_self] at *
              have : rest = [] := by cases fuel <;> (cases h2; rfl)
              simp [this]
            · rw [Nat.min_eq_right (by omega)] at *
              rw [ih h2]
              · omega
              · have : (va + BitVec.ofNat 64 (4096 - va.toNat % 4096)).toNat % 4096 = 0 := by
                  simp only [BitVec.toNat_add, BitVec.toNat_ofNat]
                  have := va.isLt
                  omega
                omega

theorem resolve_touched {s t : State} {c : Ctx} {sp : Space} {acc : Acc} {va : Word} {n : Nat} {p : Place}
    (h : s.resolve c sp acc va n = .ok (t, p)) : Touched s t := by
  unfold State.resolve at h
  split at h
  · cases hg : s.gLocs (some c.coreid) c.ptbase c.sup acc va n 32 with
    | error e => rw [hg] at h; cases h
    | ok r => rw [hg] at h; cases h; exact gLocs_touched hg
  · split at h
    · cases h
    · cases h; exact .refl s
  · split at h
    · cases h
    · split at h
      · cases h
      · cases h; exact .refl s

/-- A place of global memory has one located byte for each byte of the access. -/
theorem resolve_length {s t : State} {c : Ctx} {sp : Space} {acc : Acc} {va : Word} {n : Nat} {ls : List Loc}
    (h : s.resolve c sp acc va n = .ok (t, .g ls)) (hn : n ≤ 31 * 4096) : ls.length = n := by
  unfold State.resolve at h
  split at h
  · cases hg : s.gLocs (some c.coreid) c.ptbase c.sup acc va n 32 with
    | error e => rw [hg] at h; cases h
    | ok r => rw [hg] at h; cases h; exact gLocs_length hg (by omega)
  · split at h <;> cases h
  · split at h
    · cases h
    · split at h <;> cases h

/-- A place has one byte for each byte of the access. -/
def Place.fits (n : Nat) : Place → Prop
  | .g ls => ls.length = n
  | _ => True

theorem resolve_fits {s t : State} {c : Ctx} {sp : Space} {acc : Acc} {va : Word} {n : Nat} {p : Place}
    (h : s.resolve c sp acc va n = .ok (t, p)) (hn : n ≤ 31 * 4096) : p.fits n := by
  cases p with
  | g ls => exact resolve_length h hn
  | s off => trivial
  | c off => trivial

/-! ### Writes -/

/-- A write to global memory touches memory and tags alone. -/
theorem writePlace_g_touched (s : State) (id : Nat) (ls : List Loc) (bs : List (Byte × Byte)) :
    Touched s (s.writePlace id (.g ls) bs) :=
  Touched.trans (Touched.bytes (fun w => mergeAt_wf w _ _) fun w => w) (bumps_touched _ _)

@[simp] theorem writePlace_g_mem (s : State) (id : Nat) (ls : List Loc) (bs : List (Byte × Byte)) :
    (s.writePlace id (.g ls) bs).mem = mergeAt s.mem (ls.map Loc.pos) bs := by
  simp [State.writePlace]

/-! ### What the caches do -/

theorem touch_touched (s : State) (c : Ctx) (how : Touch) (spots : List Nat) : Touched s (s.touch c how spots) := by
  simp only [State.touch]; split
  · exact leavePeers_touched _ _ _
  · exact (setL1_touched s _ _).trans (leavePeers_touched _ _ _)

@[simp] theorem touch_mem (s : State) (c : Ctx) (how : Touch) (spots : List Nat) : (s.touch c how spots).mem = s.mem := by
  simp only [State.touch]; split <;> simp

theorem touchBy_touched (s : State) (id : Option Nat) (how : Touch) (spots : List Nat) : Touched s (s.touchBy id how spots) := by
  unfold State.touchBy; split
  · exact touch_touched _ _ _ _
  · exact .refl s

@[simp] theorem touchBy_mem (s : State) (id : Option Nat) (how : Touch) (spots : List Nat) :
    (s.touchBy id how spots).mem = s.mem := by
  unfold State.touchBy; split <;> simp

/-- A store to global memory touches memory, tags and the caches alone. -/
theorem putPlace_g_touched (s : State) (ls : List Loc) (bs : List (Byte × Byte)) : Touched s (s.putPlace (.g ls) bs) :=
  (writePlace_g_touched _ _ _ _).trans (touch_touched _ _ _ _)

@[simp] theorem putPlace_g_mem (s : State) (ls : List Loc) (bs : List (Byte × Byte)) :
    (s.putPlace (.g ls) bs).mem = mergeAt s.mem (ls.map Loc.pos) bs := by simp [State.putPlace]

/-- So does an atomic. -/
theorem swapPlace_g_touched (s : State) (ls : List Loc) (bs : List (Byte × Byte)) : Touched s (s.swapPlace (.g ls) bs) :=
  (writePlace_g_touched _ _ _ _).trans (touch_touched _ _ _ _)

@[simp] theorem swapPlace_g_mem (s : State) (ls : List Loc) (bs : List (Byte × Byte)) :
    (s.swapPlace (.g ls) bs).mem = mergeAt s.mem (ls.map Loc.pos) bs := by simp [State.swapPlace]

theorem l1After_touched (s : State) (c : Ctx) (path : Path) (j : Joint) (ls : List Loc) : Touched s (s.l1After c path j ls) :=
  setL1_touched _ _ _

/-- A load changes the caches alone. -/
theorem afterLoad_touched (s : State) (c : Ctx) (path : Path) (j : Joint) (ls : List Loc) : Touched s (s.afterLoad c path j ls) := by
  simp only [State.afterLoad]
  split
  · exact .refl s
  · split
    · split
      · exact dev_touched s s.dev.peerLines _
      · exact .refl s
    · split
      · exact ((l1After_touched _ _ _ _ _).trans (leavePeers_touched _ _ _)).trans (keepPeers_touched _ _ _)
      · exact (l1After_touched _ _ _ _ _).trans (leavePeers_touched _ _ _)

theorem settle_touched (s : State) (c : Ctx) (path : Path) (j : Joint) (ls : List Loc) : Touched s (s.settle c path j ls) := by
  simp only [State.settle]
  split
  · split
    · exact .refl s
    · exact setL1_touched s _ _
  · exact dev_touched s s.dev.peerLines _
  · exact .refl s

theorem loadPlace_touched (s : State) (c : Ctx) (path : Path) (j : Joint) (p : Place) (n : Nat) :
    Touched s (s.loadPlace c path j p n).2 := by
  cases p
  · exact (settle_touched s c path j _).trans (afterLoad_touched _ _ _ _ _)
  · exact .refl s
  · exact .refl s

/-- While the caches keep nothing and hold nothing, a load leaves the state as it is. -/
theorem loadPlace_still (s : State) (c : Ctx) (path : Path) (j : Joint) (p : Place) (n : Nat) (hc : s.caching = false)
    (hl : (s.core c.coreid).l1 = []) (hp : s.dev.peerLines = []) (hr : s.dev.rind = []) : (s.loadPlace c path j p n).2 = s := by
  have hs : ∀ ls, s.settle c path j ls = s := by
    intro ls
    simp only [State.settle]
    split
    · simp [hl]
    · simp only [hr, List.filter_nil]; rw [← hr]
    · rfl
  cases p <;> simp [State.loadPlace, State.afterLoad, hc, hl, hp, hs]

theorem acquireAt_touched (s : State) (core : BitVec 12) (sc : Scope) : Touched s (s.acquireAt core sc) := by
  have h1 : Touched s (if (s.core core).l1.isEmpty then s else s.setCore core { s.core core with l1 := [] }) := by
    split
    · exact .refl s
    · exact setL1_touched s _ _
  simp only [State.acquireAt]
  split
  · exact .refl s
  · split
    · exact h1.trans (leavePeers_touched _ _ _)
    · exact h1

theorem acquireIf_touched (s : State) (sc : Option Scope) : Touched s (s.acquireIf sc) := by
  cases sc
  · exact .refl s
  · exact acquireAt_touched _ _ _

theorem writeLocs_touched (s : State) (id : Option Nat) (locs : List (Nat × Nat)) (bs : List (Byte × Byte)) :
    Touched s (s.writeLocs id locs bs) :=
  (Touched.bytes (fun w => mergeAt_wf w _ _) fun w => w).trans ((bumps_touched _ _).trans (touchBy_touched _ _ _ _))

@[simp] theorem writeLocs_mem (s : State) (id : Option Nat) (locs : List (Nat × Nat)) (bs : List (Byte × Byte)) :
    (s.writeLocs id locs bs).mem = mergeAt s.mem (locs.map Prod.snd) bs := by simp [State.writeLocs]

/-- The number that a place holds has the bytes of the place. -/
theorem readPlace_byte (s : State) (c : Ctx) (p : Place) (n k : Nat) (hp : p.fits n) (hk : k < n) :
    BitVec.ofNat 8 (s.readPlace c p n / 256 ^ k) =
      match p with
      | .g ls => s.mem.byte ((ls.map Loc.pos).getD k 0)
      | .s off => c.scratch.byte (off + k)
      | .c off => c.cave.byte (off + k) := by
  cases p with
  | g ls =>
    have hl : ls.length = n := hp
    simp only [State.readPlace]
    rw [ofBytes_byte _ _ (by simpa [hl] using hk)]
    simp [List.getD_eq_getElem?_getD, List.getElem?_map, List.getElem?_eq_getElem (hl ▸ hk : k < ls.length)]
  | s off => exact Memory.readN_byte _ _ _ _ hk
  | c off => exact Memory.readN_byte _ _ _ _ hk

theorem readPlace_lt (s : State) (c : Ctx) (p : Place) (n : Nat) (hp : p.fits n) : s.readPlace c p n < 256 ^ n := by
  cases p with
  | g ls =>
    have hl : ls.length = n := hp
    have := ofBytes_lt (ls.map fun l => s.mem.byte l.pos)
    simpa [State.readPlace, hl] using this
  | s off => exact Memory.readN_lt _ _ _
  | c off => exact Memory.readN_lt _ _ _

/-- The number that a load of a place sees has the bytes that it sees. -/
theorem seenPlace_byte (s : State) (c : Ctx) (path : Path) (p : Place) (n k : Nat) (hp : p.fits n) (hk : k < n) :
    BitVec.ofNat 8 (s.seenPlace c path p n / 256 ^ k) =
      match p with
      | .g ls => s.seen c path (ls.getD k ⟨0, 0, false⟩)
      | .s off => c.scratch.byte (off + k)
      | .c off => c.cave.byte (off + k) := by
  cases p with
  | g ls =>
    have hl : ls.length = n := hp
    simp only [State.seenPlace]
    rw [ofBytes_byte _ _ (by simpa [hl] using hk)]
    simp [List.getD_eq_getElem?_getD, List.getElem?_map, List.getElem?_eq_getElem (hl ▸ hk : k < ls.length)]
  | s off => exact readPlace_byte s c (.s off) n k hp hk
  | c off => exact readPlace_byte s c (.c off) n k hp hk

theorem seenPlace_lt (s : State) (c : Ctx) (path : Path) (p : Place) (n : Nat) (hp : p.fits n) :
    s.seenPlace c path p n < 256 ^ n := by
  cases p with
  | g ls =>
    have hl : ls.length = n := hp
    have := ofBytes_lt (ls.map (s.seen c path))
    simpa [State.seenPlace, hl] using this
  | s off => exact readPlace_lt s c (.s off) n hp
  | c off => exact readPlace_lt s c (.c off) n hp

/-- Two numbers of `n` bytes with the same bytes are the same. -/
theorem bytes_ext {n a b : Nat} (ha : a < 256 ^ n) (hb : b < 256 ^ n)
    (h : ∀ k < n, BitVec.ofNat 8 (a / 256 ^ k) = BitVec.ofNat 8 (b / 256 ^ k)) : a = b := by
  induction n generalizing a b with
  | zero => omega
  | succ n ih =>
    have h0 := h 0 (by omega)
    have hr : a / 256 = b / 256 := by
      refine ih ?_ ?_ fun k hk => ?_
      · rw [Nat.pow_succ] at ha; exact Nat.div_lt_of_lt_mul (by omega)
      · rw [Nat.pow_succ] at hb; exact Nat.div_lt_of_lt_mul (by omega)
      · have := h (k + 1) (by omega)
        rwa [Nat.pow_succ, Nat.mul_comm, ← Nat.div_div_eq_div_mul, ← Nat.div_div_eq_div_mul] at this
    have h1 : a % 256 = b % 256 := by simpa using congrArg BitVec.toNat h0
    omega

end Sys2Proof.Machine
end

