-- ==== Sys2Proof/Laws/Course.lean ====
section
/-! SUPPORT. The course of an instruction: what issue and finish answer for each way in which a body ends, and what the named
parts of a body do. -/

namespace Sys2Proof.Machine

open Sys2Proof.Safety

variable {i : Instr} {s t : State} {body : State → Run Done}

/-! ### From the last decode checks to the end -/

theorem holdTrap_ok (r : Done) : holdTrap s (.ok r) = .ok r := rfl
theorem holdTrap_wait : holdTrap s (.error (.wait t)) = .error (.wait (t.upd Ctx.unmark)) := rfl

/-- The mark of a trap that waits is none that a stall changes. -/
theorem stalled_dueTrap (c : Ctx) (h : c.stall = c.stall.dueTrap) : c.stalled i = c := by
  unfold Ctx.stalled
  split <;> simp_all [Stall.dueTrap]

/-- A trap is taken, or stands still while something has to come before it. -/
theorem finish_held {c : Cause} {v : Word} (h : t.cx.lostStore = s.cx.lostStore) :
    finish i (holdTrap s (.error (.trap c v t))) = .next (trapped i c v t) := by
  simp only [holdTrap, trapped]
  split
  · rw [← h]
    refine congrArg (fun c => Host.Outcome.next { t with cx := c }) (stalled_dueTrap { t.cx with stall := t.cx.stall.dueTrap } ?_)
    show t.cx.stall.dueTrap = t.cx.stall.dueTrap.dueTrap
    cases t.cx.stall <;> rfl
  · rfl

theorem issue_trap {c : Cause} {v : Word} (h : s.cx.issueTrap i = some (c, v)) : issue i s body = .next (trapped i c v s) := by
  simp only [issue, h]; exact finish_held rfl

theorem issue_skip (h : s.cx.issueTrap i = none) (hs : s.cx.skips i.attr = true) : issue i s body = .next (retired i (s.skipped i)) := by
  simp only [issue, h, hs, if_true]; rfl

theorem issue_body (h : issues i s) : issue i s body = finish i (holdTrap s (body s)) := by
  simp [issue, h.1, h.2.1]

theorem finish_adv : finish i (.ok (.adv t)) = .next (retired i t) := rfl
theorem finish_to {pc : Word} : finish i (.ok (.to pc t)) = .next (jumped pc t) := rfl
theorem finish_as : finish i (.ok (.as t)) = .next t := rfl

/-- Whatever a body answers, its instruction has a next state. -/
theorem finish_next (r : Run Done) : ∃ t, finish i r = .next t := by
  rcases r with (⟨_, _, _⟩ | _) | (_ | _ | _) <;> exact ⟨_, rfl⟩

theorem issue_next : ∃ t, issue i s body = .next t := by
  unfold issue; split
  · exact finish_next _
  · split <;> exact finish_next _

theorem issue_adv (h : issues i s) (hb : body s = .ok (.adv t)) : issue i s body = .next (retired i t) := by
  rw [issue_body h, hb]; rfl

theorem issue_to {pc : Word} (h : issues i s) (hb : body s = .ok (.to pc t)) : issue i s body = .next (jumped pc t) := by
  rw [issue_body h, hb]; rfl

theorem issue_as (h : issues i s) (hb : body s = .ok (.as t)) : issue i s body = .next t := by
  rw [issue_body h, hb]; rfl

theorem issue_stops {c : Cause} {v : Word} (h : issues i s) (hb : body s = .error (.trap c v t))
    (hl : t.cx.lostStore = s.cx.lostStore) : issue i s body = .next (trapped i c v t) := by
  rw [issue_body h, hb]; exact finish_held hl

/-- A wait leaves a mark on the instruction, and nothing else. -/
theorem stalled_eq (c : Ctx) : ∃ st, st ≠ .none ∧ c.stalled i = { c with stall := st } := by
  unfold Ctx.stalled
  split
  · exact ⟨if i.recorded then .elem i.bytes else .again, by split <;> simp, rfl⟩
  · exact ⟨if i.recorded then .elem i.bytes else .again, by split <;> simp, rfl⟩
  · exact ⟨if i.recorded then .elem i.bytes else .again, by split <;> simp, rfl⟩
  · rename_i h _ _
    exact ⟨c.stall, h, rfl⟩

theorem unmark_eq (c : Ctx) : ∃ st, c.unmark = { c with stall := st } := by
  unfold Ctx.unmark
  split <;> exact ⟨_, rfl⟩

/-- A wait changes nothing but the mark that the instruction has issued. -/
theorem issue_waits (h : issues i s) (hb : body s = .error (.wait s)) :
    ∃ st, st ≠ .none ∧ issue i s body = .next (s.upd fun c => { c with stall := st }) := by
  obtain ⟨sm, em⟩ := unmark_eq s.cx
  obtain ⟨st, hn, e⟩ := stalled_eq (i := i) s.cx.unmark
  refine ⟨st, hn, ?_⟩
  rw [issue_body h, hb]
  show Host.Outcome.next { s with cx := s.cx.unmark.stalled i } = _
  rw [e, em]; rfl

/-! ### Parts of a body -/

@[simp] theorem trapIf_false (c : Cause) (v : Word) : trapIf false c v s = .ok () := rfl
@[simp] theorem trapIf_true (c : Cause) (v : Word) : trapIf true c v s = .error (.trap c v s) := rfl
@[simp] theorem waitIf_false : waitIf false s = .ok () := rfl
@[simp] theorem waitIf_true : waitIf true s = .error (.wait s) := rfl
@[simp] theorem operandTrapIf_false : operandTrapIf i false s = .ok () := rfl
@[simp] theorem operandTrapIf_true : operandTrapIf i true s = .error (operandTrap i s) := rfl

@[simp] theorem run_ok_bind {α β : Type} (a : α) (f : α → Run β) : ((.ok a : Run α) >>= f) = f a := rfl
@[simp] theorem run_error_bind {α β : Type} (x : Stop) (f : α → Run β) : ((.error x : Run α) >>= f) = .error x := rfl
@[simp] theorem run_pure {α : Type} (a : α) : (pure a : Run α) = .ok a := rfl

/-- A release that has nothing to wait for goes on. -/
theorem release_ok (h : released s) : s.release = .ok s := by
  simp [State.release, h.1, h.2]

theorem releaseIf_ok {b : Bool} (h : b = true → released s) : s.releaseIf b = .ok s := by
  cases b
  · rfl
  · exact release_ok (h rfl)

theorem drain_ok (h : drainedNow s) : s.drain = .ok (s.acquire .sys) := by
  have hw : s.writesOut s.cx.id = false := by
    have := h.1; simp [State.drained] at this; exact this.1.1.1.1.1.1.1
  simp [State.drain, h.1, release_ok ⟨hw, h.2⟩, Except.map]

theorem drain_waits (h : s.drained s.cx = false) : s.drain = .error (.wait s) := by simp [State.drain, h]

/-! ### Scalars -/

/-- What every instruction that writes one scalar does (R84). -/
theorem toX_writes {d : Reg} {v : Ctx → Word} {P : Word → Prop} (h : issues i s) (hp : P (v s.cx))
    (e : exec i s = toX i s d v) : writesX i s d P :=
  ⟨v s.cx, hp, by rw [e]; exact issue_adv h rfl⟩

/-- What every instruction that writes a whole predicate does (R84). -/
theorem toP_writes {d : Reg} {v : Ctx → Pred} {P : Pred → Prop} {f : Ctx → Ctx} (h : issues i s) (hp : P (v s.cx))
    (hf : f s.cx = s.cx.writeP d (v s.cx)) (e : exec i s = toP i s f) : writesP i s d P :=
  ⟨v s.cx, hp, by
    rw [e]; refine (issue_adv h rfl).trans ?_
    simp [State.upd, hf]⟩

/-! ### Elements -/

theorem overElems_nil (f : State → Nat → Run State) : overElems f [] s = .ok s := rfl

@[simp] theorem cutsAt_none (h : s.cut = none) (e : Nat) : s.cutsAt e = false := by simp [State.cutsAt, h]

theorem overFrom_cons {f : State → Nat → Run State} {g : State} {k e : Nat} {es : List Nat} {u : State} (hc : s.cut = none)
    (h : f s e = .ok u) :
    overFrom f g k (e :: es) s =
      overFrom f (if e / s.cx.groupLen + 1 = k then g else s) (e / s.cx.groupLen + 1) es u := by
  simp [overFrom, hc, h]

/-- A trap at the first element (R129). -/
theorem overElems_trap {f : State → Nat → Run State} {e : Nat} {es : List Nat} {c : Cause} {v : Word} (hc : s.cut = none)
    (h : f s e = .error (.trap c v t)) : overElems f (e :: es) s = .error ((Stop.trap c v t).at s.cx.vstart e) := by
  simp [overElems, overFrom, hc, h]

/-- A wait at the first element leaves the whole to be issued again, before the element group of that element (R357). -/
theorem overElems_waits {f : State → Nat → Run State} {e : Nat} {es : List Nat} (hc : s.cut = none) (h : f s e = .error (.wait t)) :
    overElems f (e :: es) s =
      .error ((Stop.wait s).at s.cx.vstart (max s.cx.start (e / s.cx.groupLen * s.cx.groupLen))) := by
  simp [overElems, overFrom, hc, h]

/-- An invariant of every element's step is one of the whole. -/
theorem overFrom_inv {f : State → Nat → Run State} (I : State → Prop) {g : State} {k : Nat} {es : List Nat}
    (hstep : ∀ s e u, e ∈ es → I s → f s e = .ok u → I u) (hs : I s) (h : overFrom f g k es s = .ok t) : I t := by
  induction es generalizing s g k with
  | nil => cases h; exact hs
  | cons e es ih =>
    simp only [overFrom] at h
    by_cases hk : s.cutsAt e = true
    · simp [hk] at h
    · simp only [hk] at h
      split at h
      · cases h
      · split at h
        · rename_i u hu
          exact ih (fun s e' u he => hstep s e' u (List.mem_cons_of_mem _ he)) (hstep s e u (by simp) hs hu) h
        · cases h
        · cases h

theorem overElems_inv {f : State → Nat → Run State} (I : State → Prop) {es : List Nat}
    (hstep : ∀ s e u, e ∈ es → I s → f s e = .ok u → I u) (hs : I s) (h : overElems f es s = .ok t) : I t :=
  overFrom_inv I hstep hs h

theorem overFrom_along {f : State → Nat → Run State} {R : State → Nat → State → Prop} {g : State} {k : Nat} {es : List Nat}
    (hf : ∀ s e u, R s e u → f s e = .ok u) (hc : ∀ s e u, R s e u → s.cut = none → u.cut = none) (hs : s.cut = none)
    (h : along R es s t) : overFrom f g k es s = .ok t := by
  induction es generalizing s g k with
  | nil => cases h; rfl
  | cons e es ih =>
    obtain ⟨u, h1, h2⟩ := h
    rw [overFrom_cons hs (hf s e u h1)]; exact ih (hc s e u h1 hs) h2

/-- Elements that each have their step are processed along the relation. -/
theorem overElems_along {f : State → Nat → Run State} {R : State → Nat → State → Prop} {es : List Nat}
    (hf : ∀ s e u, R s e u → f s e = .ok u) (hc : ∀ s e u, R s e u → s.cut = none → u.cut = none) (hs : s.cut = none)
    (h : along R es s t) : overElems f es s = .ok t := overFrom_along hf hc hs h

/-- The same with no stop between (R300). -/
theorem overWhole_along {f : State → Nat → Run State} {R : State → Nat → State → Prop} {es : List Nat}
    (hf : ∀ s e u, R s e u → f s e = .ok u) (hc : ∀ s e u, R s e u → s.cut = none → u.cut = none) (hs : s.cut = none)
    (h : along R es s t) : overWhole f es s = .ok t := by
  have e : ({ s with cut := none } : State) = s := by cases s; cases hs; rfl
  simp [overWhole, e, overElems_along hf hc hs h]

/-- An element instruction whose every element has its step retires with vstart 0 (R129). -/
theorem vector_adv {m : Mods} {f : State → Nat → Run State} (h : issues i s) (ht : overElems f (s.cx.elems m) s = .ok t) :
    issue i s (fun s => vector m s f) = .next (retired i t.vdone) :=
  issue_adv h (by simp [vector, ht]; rfl)

end Sys2Proof.Machine
end

