-- ==== Sys2Proof/Laws/Issue.lean ====
section
/-! SUPPORT. Every instruction that fetch can bring is issued: its checks, its guard and its hints stand before its body. -/

namespace Sys2Proof.Machine

open Sys2Proof.Safety

/-- An outcome that comes out of `issue`. -/
def Issued (i : Instr) (s : State) (o : Host.Outcome State Fault Refusal) : Prop := ∃ body, o = issue i s body

theorem issued_issue (i : Instr) (s : State) (body : State → Run Done) : Issued i s (issue i s body) := ⟨body, rfl⟩

set_option maxRecDepth 10000 in
/-- A fetched instruction is issued: what exec answers comes out of `issue` (R71, R77, R106, R181). -/
theorem exec_issued (i : Instr) (s : State) (h : fetched i = true) : Issued i s (exec i s) := by
  cases i
  case add => unfold exec; dsimp only; unfold execAdd toX; exact issued_issue _ _ _
  case sub => unfold exec; dsimp only; unfold execSub toX; exact issued_issue _ _ _
  case and => unfold exec; dsimp only; unfold execAnd toX; exact issued_issue _ _ _
  case or => unfold exec; dsimp only; unfold execOr toX; exact issued_issue _ _ _
  case xor => unfold exec; dsimp only; unfold execXor toX; exact issued_issue _ _ _
  case andn => unfold exec; dsimp only; unfold execAndn toX; exact issued_issue _ _ _
  case shl => unfold exec; dsimp only; unfold execShl toX; exact issued_issue _ _ _
  case shr => unfold exec; dsimp only; unfold execShr toX; exact issued_issue _ _ _
  case sra => unfold exec; dsimp only; unfold execSra toX; exact issued_issue _ _ _
  case rol => unfold exec; dsimp only; unfold execRol toX; exact issued_issue _ _ _
  case min => unfold exec; dsimp only; unfold execMin toX; exact issued_issue _ _ _
  case minu => unfold exec; dsimp only; unfold execMinu toX; exact issued_issue _ _ _
  case max => unfold exec; dsimp only; unfold execMax toX; exact issued_issue _ _ _
  case maxu => unfold exec; dsimp only; unfold execMaxu toX; exact issued_issue _ _ _
  case addImm => unfold exec; dsimp only; unfold execAddImm toX; exact issued_issue _ _ _
  case andImm => unfold exec; dsimp only; unfold execAndImm toX; exact issued_issue _ _ _
  case orImm => unfold exec; dsimp only; unfold execOrImm toX; exact issued_issue _ _ _
  case xorImm => unfold exec; dsimp only; unfold execXorImm toX; exact issued_issue _ _ _
  case shlImm => unfold exec; dsimp only; unfold execShlImm toX; exact issued_issue _ _ _
  case shrImm => unfold exec; dsimp only; unfold execShrImm toX; exact issued_issue _ _ _
  case sraImm => unfold exec; dsimp only; unfold execSraImm toX; exact issued_issue _ _ _
  case rolImm => unfold exec; dsimp only; unfold execRolImm toX; exact issued_issue _ _ _
  case mul => unfold exec; dsimp only; unfold execMul toX; exact issued_issue _ _ _
  case mulh => unfold exec; dsimp only; unfold execMulh toX; exact issued_issue _ _ _
  case mulhu => unfold exec; dsimp only; unfold execMulhu toX; exact issued_issue _ _ _
  case div => unfold exec; dsimp only; unfold execDiv toX; exact issued_issue _ _ _
  case divu => unfold exec; dsimp only; unfold execDivu toX; exact issued_issue _ _ _
  case rem => unfold exec; dsimp only; unfold execRem toX; exact issued_issue _ _ _
  case remu => unfold exec; dsimp only; unfold execRemu toX; exact issued_issue _ _ _
  case clz => unfold exec; dsimp only; unfold execClz toX; exact issued_issue _ _ _
  case ctz => unfold exec; dsimp only; unfold execCtz toX; exact issued_issue _ _ _
  case popc => unfold exec; dsimp only; unfold execPopc toX; exact issued_issue _ _ _
  case lea => unfold exec; dsimp only; unfold execLea toX; exact issued_issue _ _ _
  case sext => unfold exec; dsimp only; unfold execSext toX; exact issued_issue _ _ _
  case zext => unfold exec; dsimp only; unfold execZext toX; exact issued_issue _ _ _
  case li => unfold exec; dsimp only; unfold execLi toX; exact issued_issue _ _ _
  case lih => unfold exec; dsimp only; unfold execLih toX; exact issued_issue _ _ _
  case cmp => unfold exec; dsimp only; unfold execCmp toP; exact issued_issue _ _ _
  case sel => unfold exec; dsimp only; unfold execSel toX; exact issued_issue _ _ _
  case pand => unfold exec; dsimp only; unfold execPand toP; exact issued_issue _ _ _
  case por => unfold exec; dsimp only; unfold execPor toP; exact issued_issue _ _ _
  case pxor => unfold exec; dsimp only; unfold execPxor toP; exact issued_issue _ _ _
  case pnot => unfold exec; dsimp only; unfold execPnot toP; exact issued_issue _ _ _
  case pget => unfold exec; dsimp only; unfold execPget toX; exact issued_issue _ _ _
  case pset => unfold exec; dsimp only; unfold execPset toP; exact issued_issue _ _ _
  case pcount => unfold exec; dsimp only; unfold execPcount toX; exact issued_issue _ _ _
  case pfirst => unfold exec; dsimp only; unfold execPfirst toX; exact issued_issue _ _ _
  case br => unfold exec; dsimp only; unfold execBr; exact issued_issue _ _ _
  case jal => unfold exec; dsimp only; unfold execJal; exact issued_issue _ _ _
  case jr => unfold exec; dsimp only; unfold execJr; exact issued_issue _ _ _
  case jtab => unfold exec; dsimp only; unfold execJtab; exact issued_issue _ _ _
  case bmz => unfold exec; dsimp only; unfold execBmz; exact issued_issue _ _ _
  case bmnz => unfold exec; dsimp only; unfold execBmnz; exact issued_issue _ _ _
  case strip => unfold exec; dsimp only; unfold execStrip; exact issued_issue _ _ _
  case snext => unfold exec; dsimp only; unfold execSnext; exact issued_issue _ _ _
  case press => unfold exec; dsimp only; unfold execPress; exact issued_issue _ _ _
  case exit => unfold exec; dsimp only; unfold execExit; exact issued_issue _ _ _
  case yield => unfold exec; dsimp only; unfold execYield; exact issued_issue _ _ _
  case nop => unfold exec; dsimp only; unfold execNop; exact issued_issue _ _ _
  case ld => unfold exec; dsimp only; unfold execLd; exact issued_issue _ _ _
  case st => unfold exec; dsimp only; unfold execSt; exact issued_issue _ _ _
  case ldro => unfold exec; dsimp only; unfold execLdro; exact issued_issue _ _ _
  case ldtag => unfold exec; dsimp only; unfold execLdtag; exact issued_issue _ _ _
  case atom => unfold exec; dsimp only; unfold execAtom; exact issued_issue _ _ _
  case cas => unfold exec; dsimp only; unfold execCas; exact issued_issue _ _ _
  case fence => unfold exec; dsimp only; unfold execFence; exact issued_issue _ _ _
  case drain => unfold exec; dsimp only; unfold execDrain; exact issued_issue _ _ _
  case flush => unfold exec; dsimp only; unfold execFlush rangeOp; exact issued_issue _ _ _
  case inval => unfold exec; dsimp only; unfold execInval rangeOp; exact issued_issue _ _ _
  case cavecfg => unfold exec; dsimp only; unfold execCavecfg; exact issued_issue _ _ _
  case cavewb => unfold exec; dsimp only; unfold execCavewb; exact issued_issue _ _ _
  case vtype => unfold exec; dsimp only; unfold execVtype; exact issued_issue _ _ _
  case vlset => unfold exec; dsimp only; unfold execVlset; exact issued_issue _ _ _
  case quire => unfold exec; dsimp only; unfold execQuire; exact issued_issue _ _ _
  case sscaleFromBrick => unfold exec; dsimp only; unfold execSscaleFromBrick; exact issued_issue _ _ _
  case sscaleToBrick => unfold exec; dsimp only; unfold execSscaleToBrick; exact issued_issue _ _ _
  case sscaleLoad => unfold exec; dsimp only; unfold execSscaleLoad; exact issued_issue _ _ _
  case sscaleStore => unfold exec; dsimp only; unfold execSscaleStore; exact issued_issue _ _ _
  case vadd => unfold exec; dsimp only; unfold execVadd elemOp2; exact issued_issue _ _ _
  case vsub => unfold exec; dsimp only; unfold execVsub elemOp2; exact issued_issue _ _ _
  case vand => unfold exec; dsimp only; unfold execVand elemOp2; exact issued_issue _ _ _
  case vor => unfold exec; dsimp only; unfold execVor elemOp2; exact issued_issue _ _ _
  case vxor => unfold exec; dsimp only; unfold execVxor elemOp2; exact issued_issue _ _ _
  case vshl => unfold exec; dsimp only; unfold execVshl elemOp2; exact issued_issue _ _ _
  case vshr => unfold exec; dsimp only; unfold execVshr elemOp2; exact issued_issue _ _ _
  case vsra => unfold exec; dsimp only; unfold execVsra elemOp2; exact issued_issue _ _ _
  case vmin => unfold exec; dsimp only; unfold execVmin elemOp2; exact issued_issue _ _ _
  case vmax => unfold exec; dsimp only; unfold execVmax elemOp2; exact issued_issue _ _ _
  case vmul => unfold exec; dsimp only; unfold execVmul elemOp2; exact issued_issue _ _ _
  case vmulh => unfold exec; dsimp only; unfold execVmulh elemOp2; exact issued_issue _ _ _
  case vsadd => unfold exec; dsimp only; unfold execVsadd elemOp2; exact issued_issue _ _ _
  case vssub => unfold exec; dsimp only; unfold execVssub elemOp2; exact issued_issue _ _ _
  case vdot => unfold exec; dsimp only; unfold execVdot; exact issued_issue _ _ _
  case vcmp => unfold exec; dsimp only; unfold execVcmp; exact issued_issue _ _ _
  case vsel => unfold exec; dsimp only; unfold execVsel; exact issued_issue _ _ _
  case vbcast => unfold exec; dsimp only; unfold execVbcast; exact issued_issue _ _ _
  case vid => unfold exec; dsimp only; unfold execVid; exact issued_issue _ _ _
  case mpush => unfold exec; dsimp only; unfold execMpush; exact issued_issue _ _ _
  case mpop => unfold exec; dsimp only; unfold execMpop; exact issued_issue _ _ _
  case minv => unfold exec; dsimp only; unfold execMinv; exact issued_issue _ _ _
  case mtop => unfold exec; dsimp only; unfold execMtop; exact issued_issue _ _ _
  case vfetch => unfold exec; dsimp only; unfold execVfetch openBlock; exact issued_issue _ _ _
  case vfetchOrd => unfold exec; dsimp only; unfold execVfetchOrd openBlock; exact issued_issue _ _ _
  case vend => unfold exec; dsimp only; unfold execVend; exact issued_issue _ _ _
  case vfadd => unfold exec; dsimp only; unfold execVfadd floatOp2; exact issued_issue _ _ _
  case vfsub => unfold exec; dsimp only; unfold execVfsub floatOp2; exact issued_issue _ _ _
  case vfmul => unfold exec; dsimp only; unfold execVfmul floatOp2; exact issued_issue _ _ _
  case vfdiv => unfold exec; dsimp only; unfold execVfdiv floatOp2; exact issued_issue _ _ _
  case vfma => unfold exec; dsimp only; unfold execVfma floatOp3; exact issued_issue _ _ _
  case vfnma => unfold exec; dsimp only; unfold execVfnma floatOp3; exact issued_issue _ _ _
  case vfmin => unfold exec; dsimp only; unfold execVfmin floatOp2; exact issued_issue _ _ _
  case vfmax => unfold exec; dsimp only; unfold execVfmax floatOp2; exact issued_issue _ _ _
  case vfsgn => unfold exec; dsimp only; unfold execVfsgn; exact issued_issue _ _ _
  case vfcmp => unfold exec; dsimp only; unfold execVfcmp; exact issued_issue _ _ _
  case vfsqrt => unfold exec; dsimp only; unfold execVfsqrt; exact issued_issue _ _ _
  case vcvt => unfold exec; dsimp only; unfold execVcvt; exact issued_issue _ _ _
  case vpack => unfold exec; dsimp only; unfold execVpack; exact issued_issue _ _ _
  case vunpack => unfold exec; dsimp only; unfold execVunpack; exact issued_issue _ _ _
  case vexp2 => unfold exec; dsimp only; unfold execVexp2 special; exact issued_issue _ _ _
  case vlog2 => unfold exec; dsimp only; unfold execVlog2 special; exact issued_issue _ _ _
  case vrcp => unfold exec; dsimp only; unfold execVrcp special; exact issued_issue _ _ _
  case vrsqrt => unfold exec; dsimp only; unfold execVrsqrt special; exact issued_issue _ _ _
  case vsinpi => unfold exec; dsimp only; unfold execVsinpi special; exact issued_issue _ _ _
  case vcospi => unfold exec; dsimp only; unfold execVcospi special; exact issued_issue _ _ _
  case vtanh => unfold exec; dsimp only; unfold execVtanh special; exact issued_issue _ _ _
  case vsigm => unfold exec; dsimp only; unfold execVsigm special; exact issued_issue _ _ _
  case vrand => unfold exec; dsimp only; unfold execVrand; exact issued_issue _ _ _
  case vrandU => unfold exec; dsimp only; unfold execVrandU; exact issued_issue _ _ _
  case vld => unfold exec; dsimp only; unfold execVld; exact issued_issue _ _ _
  case vst => unfold exec; dsimp only; unfold execVst storeContiguous; exact issued_issue _ _ _
  case vstu => unfold exec; dsimp only; unfold execVstu storeContiguous; exact issued_issue _ _ _
  case vlds => unfold exec; dsimp only; unfold execVlds; exact issued_issue _ _ _
  case vsts => unfold exec; dsimp only; unfold execVsts; exact issued_issue _ _ _
  case vldx => unfold exec; dsimp only; unfold execVldx; exact issued_issue _ _ _
  case vstx => unfold exec; dsimp only; unfold execVstx; exact issued_issue _ _ _
  case vscadd => unfold exec; dsimp only; unfold execVscadd; exact issued_issue _ _ _
  case vldro => unfold exec; dsimp only; unfold execVldro; exact issued_issue _ _ _
  case sld => unfold exec; dsimp only; unfold execSld; exact issued_issue _ _ _
  case sst => unfold exec; dsimp only; unfold execSst; exact issued_issue _ _ _
  case vperm => unfold exec; dsimp only; unfold execVperm; exact issued_issue _ _ _
  case vrot => unfold exec; dsimp only; unfold execVrot; exact issued_issue _ _ _
  case vxget => unfold exec; dsimp only; unfold execVxget; exact issued_issue _ _ _
  case vxput => unfold exec; dsimp only; unfold execVxput; exact issued_issue _ _ _
  case vredsum => unfold exec; dsimp only; unfold execVredsum reduce; exact issued_issue _ _ _
  case vredsumu => unfold exec; dsimp only; unfold execVredsumu; exact issued_issue _ _ _
  case vscan => unfold exec; dsimp only; unfold execVscan reduce; exact issued_issue _ _ _
  case vredmax => unfold exec; dsimp only; unfold execVredmax reduce; exact issued_issue _ _ _
  case vredmin => unfold exec; dsimp only; unfold execVredmin reduce; exact issued_issue _ _ _
  case vcompress => unfold exec; dsimp only; unfold execVcompress; exact issued_issue _ _ _
  case vexpand => unfold exec; dsimp only; unfold execVexpand; exact issued_issue _ _ _
  case mopa => unfold exec; dsimp only; unfold execMopa; exact issued_issue _ _ _
  case mopaRows => unfold exec; dsimp only; unfold execMopaRows; exact issued_issue _ _ _
  case mzero => unfold exec; dsimp only; unfold execMzero; exact issued_issue _ _ _
  case mrd => unfold exec; dsimp only; unfold execMrd; exact issued_issue _ _ _
  case mwr => unfold exec; dsimp only; unfold execMwr; exact issued_issue _ _ _
  case mflush => unfold exec; dsimp only; unfold execMflush; exact issued_issue _ _ _
  case mwait => unfold exec; dsimp only; unfold execMwait; exact issued_issue _ _ _
  case rowact => unfold exec; dsimp only; unfold execRowact; exact issued_issue _ _ _
  case rowclose => unfold exec; dsimp only; unfold execRowclose; exact issued_issue _ _ _
  case rowstat => unfold exec; dsimp only; unfold execRowstat; exact issued_issue _ _ _
  case rowstatH => unfold exec; dsimp only; unfold execRowstatH; exact issued_issue _ _ _
  case fbind => unfold exec; dsimp only; unfold execFbind; exact issued_issue _ _ _
  case fseek => unfold exec; dsimp only; unfold execFseek; exact issued_issue _ _ _
  case frel => unfold exec; dsimp only; unfold execFrel; exact issued_issue _ _ _
  case enq => unfold exec; dsimp only; unfold execEnq; exact issued_issue _ _ _
  case enqb => unfold exec; dsimp only; unfold execEnqb; exact issued_issue _ _ _
  case epop => unfold exec; dsimp only; unfold execEpop; exact issued_issue _ _ _
  case epopSus => unfold exec; dsimp only; unfold execEpopSus; exact issued_issue _ _ _
  case estat => unfold exec; dsimp only; unfold execEstat; exact issued_issue _ _ _
  case estatN => unfold exec; dsimp only; unfold execEstatN; exact issued_issue _ _ _
  case qpush => unfold exec; dsimp only; unfold execQpush; exact issued_issue _ _ _
  case qpushBrick => unfold exec; dsimp only; unfold execQpushBrick; exact issued_issue _ _ _
  case qpop => unfold exec; dsimp only; unfold execQpop; exact issued_issue _ _ _
  case qpopBrick => unfold exec; dsimp only; unfold execQpopBrick; exact issued_issue _ _ _
  case gload => unfold exec; dsimp only; unfold execGload; exact issued_issue _ _ _
  case gsig => unfold exec; dsimp only; unfold execGsig; exact issued_issue _ _ _
  case gwait => unfold exec; dsimp only; unfold execGwait; exact issued_issue _ _ _
  case gwaitSus => unfold exec; dsimp only; unfold execGwaitSus; exact issued_issue _ _ _
  case wmpub => unfold exec; dsimp only; unfold execWmpub; exact issued_issue _ _ _
  case wmpubInit => unfold exec; dsimp only; unfold execWmpubInit; exact issued_issue _ _ _
  case wmrd => unfold exec; dsimp only; unfold execWmrd; exact issued_issue _ _ _
  case wmrdBound => unfold exec; dsimp only; unfold execWmrdBound; exact issued_issue _ _ _
  case spawn => unfold exec; dsimp only; unfold execSpawn; exact issued_issue _ _ _
  case suspend => unfold exec; dsimp only; unfold execSuspend; exact issued_issue _ _ _
  case suspendLd => unfold exec; dsimp only; unfold execSuspendLd; exact issued_issue _ _ _
  case suspendRow => unfold exec; dsimp only; unfold execSuspendRow; exact issued_issue _ _ _
  case tdone => unfold exec; dsimp only; unfold execTdone; exact issued_issue _ _ _
  case kpt => unfold exec; dsimp only; unfold execKpt; exact issued_issue _ _ _
  case bnd => unfold exec; dsimp only; unfold execBnd; exact issued_issue _ _ _
  case incupd => unfold exec; dsimp only; unfold execIncupd; exact issued_issue _ _ _
  case incupdSet => unfold exec; dsimp only; unfold execIncupdSet; exact issued_issue _ _ _
  case incrd => unfold exec; dsimp only; unfold execIncrd; exact issued_issue _ _ _
  case incrdSh => unfold exec; dsimp only; unfold execIncrdSh; exact issued_issue _ _ _
  case regl => unfold exec; dsimp only; unfold execRegl; exact issued_issue _ _ _
  case ctlr => unfold exec; dsimp only; unfold execCtlr; exact issued_issue _ _ _
  case ctlw => unfold exec; dsimp only; unfold execCtlw; exact issued_issue _ _ _
  case ctlwSet => unfold exec; dsimp only; unfold execCtlwSet; exact issued_issue _ _ _
  case ctlwClr => unfold exec; dsimp only; unfold execCtlwClr; exact issued_issue _ _ _
  case sys => unfold exec; dsimp only; unfold execSys; exact issued_issue _ _ _
  case eret => unfold exec; dsimp only; unfold execEret; exact issued_issue _ _ _
  case brk => unfold exec; dsimp only; unfold execBrk; exact issued_issue _ _ _
  case snap => unfold exec; dsimp only; unfold execSnap; exact issued_issue _ _ _
  case tlbinvAll => unfold exec; dsimp only; unfold execTlbinvAll; exact issued_issue _ _ _
  case tlbinvAsid => unfold exec; dsimp only; unfold execTlbinvAsid; exact issued_issue _ _ _
  case tlbinvPage => unfold exec; dsimp only; unfold execTlbinvPage; exact issued_issue _ _ _
  case tlbinvGpage => unfold exec; dsimp only; unfold execTlbinvGpage; exact issued_issue _ _ _
  case tlbinvUser => unfold exec; dsimp only; unfold execTlbinvUser; exact issued_issue _ _ _
  case illLen => cases h
  case illOp => cases h
  case fetchXlate => cases h
  case asyncTrap => cases h
  case lpAddr => cases h
  case lpArg => cases h
  case lpToken => cases h
  case lpFlags => cases h
  case lpGo => cases h
  case launchCheck => cases h
  case launchDequeue => cases h
  case placementDraw => cases h
  case poolDispatch => cases h
  case preemptSwitchOut => cases h
  case contextResume => cases h
  case rowActivation => cases h
  case rowOpenDone => cases h
  case rowHoldExpiry => cases h
  case rowClose => cases h
  case rowCloseDone => cases h
  case streamGroupClose => cases h
  case extentRelocation => cases h
  case pagePromotion => cases h
  case storePerform => cases h
  case loadPerform => cases h
  case atomicPerform => cases h
  case mflushAddition => cases h
  case vscaddUpdate => cases h
  case rangeWalkDone => cases h
  case matrixEngineStart => cases h
  case engineCommandStart => cases h
  case engineResultPost => cases h
  case graphNodeStart => cases h
  case graphNodeComplete => cases h
  case graphLeafLoad => cases h
  case gangDeadlock => cases h
  case suspendComplete => cases h
  case graderUpdate => cases h
  case shadowRefresh => cases h
  case regionRetire => cases h
  case deviceReset => cases h
  case towerTrained => cases h
  case firmwareImage => cases h
  case spdmCertificate => cases h
  case spdmChallenge => cases h
  case spdmMeasurements => cases h
  case spdmKeyExchange => cases h
  case firstThreshold => cases h
  case secondThreshold => cases h
  case thirdThreshold => cases h
  case evacuationEnd => cases h
  case belowFirstThreshold => cases h
  case tlimClear => cases h
  case caveRecover => cases h
  case softError => cases h
  case supplySag => cases h
  case throttleStart => cases h
  case throttleEnd => cases h
  case cxlMemRead => cases h
  case cxlMemWrite => cases h
  case hostSnoop => cases h
  case atomicopCompletion => cases h
  case relebRequest => cases h
  case relebTimeout => cases h
  case dmode => cases h
  case respWalkAgain => cases h
  case respRaiseTrap => cases h
  case respPolicy => cases h
  case respResume => cases h
  case respClearPoison => cases h
  case respKeepPoison => cases h
  case respAcceptLaunch => cases h
  case respRejectLaunch => cases h
  case snapshotTrigger => cases h
  case snapshotRelease => cases h
  case registerWrite => cases h
  case evcons => cases h
  case queuePairTable => cases h
  case poisonMarkerClear => cases h
  case portPageGrant => cases h
  unfold exec; dsimp only; unfold execSeal rangeOp; exact issued_issue _ _ _

end Sys2Proof.Machine
end

