-- ==== Sys2Proof/Laws/Reach.lean ====
section
/-! SUPPORT. What a load and a store that meet no obstacle do: the operations of the model from the words of Safety. -/

namespace Sys2Proof.Machine

open Sys2Proof.Safety

/-- A place on no poisoned line has no lost byte. -/
theorem lostAt_of_poisoned {s : State} {p : Place} (va : Word) (h : s.poisoned p = false) : s.lostAt p va = none := by
  cases p with
  | g ls =>
    have hf : ∀ l ∈ ls, s.poison.contains (lineOf l.pos) = false := by
      intro l hl
      simp only [State.poisoned, Place.marks, List.any_eq_false, List.mem_eraseDups, List.mem_map] at h
      simpa using h (lineOf l.pos) ⟨l, hl, rfl⟩
    simp only [State.lostAt, Option.map_eq_none_iff, List.findIdx?_eq_none_iff]
    exact fun l hl => hf l hl
  | s _ => rfl
  | c _ => rfl

/-- What `loads` says of a value makes it the one that the load answers. -/
theorem loadPlace_of_sees {s : State} {path : Path} {j : Joint} {p : Place} {n v : Nat} (hp : p.fits n)
    (h : seesNumber (settled s path j p) path p n v) : (s.loadPlace s.cx path j p n).1 = v := by
  have hc : (settled s path j p).cx = s.cx := by
    cases p
    · exact (settle_touched s s.cx path j _).cx
    · rfl
    · rfl
  have e : v = (settled s path j p).seenPlace s.cx path p n :=
    bytes_ext h.1 (seenPlace_lt _ s.cx path p n hp) fun k hk => by
      rw [h.2 k hk, seenPlace_byte _ s.cx path p n k hp hk, ← hc]
      cases p <;> rfl
  rw [e]
  cases p <;> rfl

/-- A load that meets no obstacle answers its value and the state that it leaves (R204). -/
theorem scalarLoad_of_loads {s t : State} {path : Path} {sp : Space} {va : Word} {n v : Nat} (hn : n ≤ 31 * 4096)
    (h : loads s path .sector sp va n t v) : s.scalarLoad path sp va n = .ok (v, t) := by
  obtain ⟨u, p, hq, hm, hr, hpe, hpo, hb, hw, hv, rfl⟩ := h
  obtain rfl := loadPlace_of_sees (resolve_fits hq hn) hv
  have hb' : s.blocked s.cx p n = false := hb
  simp [State.scalarLoad, hq, hm, hr, hpe, lostAt_of_poisoned va hpo, hb', hw]

/-- No access of the instruction goes to a peer that does not answer: there is none to count. -/
theorem countPeer_of_answers {s u : State} {p : Place} (hc : u.cx = s.cx) (h : s.peerFails p = false) :
    s.peerFailsNow p = false ∧ u.countPeer p = u := by
  simp only [State.peerFails, Bool.and_eq_false_iff] at h
  unfold State.peerFailsNow State.countPeer
  rw [hc]
  rcases h with h | h
  · simp [h]
  · constructor
    · cases hs : s.cx.stall <;> simp_all [Stall.lost]
    · cases hs : s.cx.stall <;> simp_all [Stall.lost]

/-- The same for an element of a vector instruction (R216). -/
theorem loadAt_of_loads {s t : State} {path : Path} {j : Joint} {sp : Space} {va : Word} {n v : Nat} (hn : n ≤ 31 * 4096)
    (h : loads s path j sp va n t v) : s.loadAt path sp va n j = .ok (v, t) := by
  obtain ⟨u, p, hq, hm, hr, hpe, hpo, hb, hw, hv, rfl⟩ := h
  obtain rfl := loadPlace_of_sees (resolve_fits hq hn) hv
  obtain ⟨h1, h2⟩ := countPeer_of_answers (resolve_touched hq).cx hpe
  simp [State.loadAt, hq, hm, hr, h1, h2, hpo, hb, hw]

/-- A write at a place where nothing holds it back is performed (R218, R234, R296). -/
theorem issueWrite_free {s : State} {w : Parts} {va : Word} {p : Place} {bs : List (Byte × Byte)}
    (hb : s.writeBlocked w p bs.length = false) (hm : s.rowMeets (some s.cx) p = .free) (hp : p.inPeer = false)
    (hf : s.follows w p bs.length = false) : s.issueWrite w va p bs = .ok (s.putPlace p bs) := by
  simp [State.issueWrite, hb, hm, hp, hf]

/-- A store that meets no obstacle writes the low bytes of its value (R205). -/
theorem scalarStore_of_stores {s t : State} {sp : Space} {va : Word} {n v : Nat} {p : Place} (h : stores s {} sp va n t p) :
    s.scalarStore sp va n v = .ok (t.putPlace p (whole n v)) := by
  obtain ⟨hq, hk, hr, hpe, hpo, hb, hm, hf⟩ := h
  have hi := issueWrite_free (va := va) (bs := whole n v) (by rwa [whole_length]) hm hpe (by rwa [whole_length])
  simp [State.scalarStore, hq, hk, hr, lostAt_of_poisoned va hpo, hi]

end Sys2Proof.Machine
end

