-- ==== Sys2Proof/Tests/Slice0.lean ====
section
/-! SUPPORT. Tests of the model: ill-formed terms that WellFormed refuses, words written out from the spec's encodings, a state that
meets the hypotheses of each statement, and effects calculated by hand from the rules. -/

namespace Sys2Proof.Tests

set_option Elab.async false

open Sys2Proof.Machine Sys2Proof.Safety

/-! ### Helpers -/

/-- The state of a next outcome; the state after reset for any other. -/
def nextOf (o : Host.Outcome State Fault Refusal) : State :=
  match o with
  | .next t => t
  | _ => State.reset

/-- The context in focus after an instruction. -/
def cxOf (i : Instr) (s : State) : Ctx := (nextOf (exec i s)).cx

/-- A running context with four i32 elements, a scratch block of 4 KiB and a trap handler at 0x4000. -/
def c0 : Ctx :=
  { id := 1, phase := .running, vtype := 0x24, vl := 4, scrLog := 12, tvec := 0x4001, cavepart := 2, pc := 0x100 }

def st : State := { cx := c0, dev := { nextCtx := 2 } }

/-- The context of `st` changed. -/
def withC (f : Ctx → Ctx) : State := st.upd f

/-- The scalars of a context: x1, x2, x3. -/
def xs (a b c : Word) : Vector Word 64 := ((Vector.replicate 64 0).set 1 a).set 2 b |>.set 3 c
/-- The bricks of a context: v1, v2, v3. -/
def vs (a b c : Brick) : Vector Brick 64 := ((Vector.replicate 64 0).set 1 a).set 2 b |>.set 3 c

/-- x1 = a, x2 = b, x3 = c. -/
def sx (a b c : Word) : State := withC fun x => { x with x := xs a b c }
/-- v1 = a, v2 = b, v3 = c, under a vtype image, with four elements. -/
def sv (vt : Word) (a b c : Brick) : State := withC fun x => { x with v := vs a b c, vtype := vt }

/-- Something answers, and of the answer `f` holds. -/
def got {ε α : Type} (e : Except ε α) (f : α → Bool) : Bool :=
  match e with
  | .ok a => f a
  | .error _ => false

theorem got_ok {ε α : Type} {e : Except ε α} {f : α → Bool} (h : got e f = true) : ∃ a, e = .ok a ∧ f a = true := by
  cases e with
  | error _ => simp [got] at h
  | ok a => exact ⟨a, rfl, h⟩

/-- The words decode to the instruction, which the encodings can carry. -/
def readsAs (w0 w1 w2 : BitVec 32) (i : Instr) : Bool :=
  match decode w0 w1 w2 with
  | .ok j => decide (j = i) && i.encodable
  | .error _ => false

/-- The words are no instruction, for that reason. -/
def refuses (w0 w1 w2 : BitVec 32) (e : DecErr) : Bool :=
  match decode w0 w1 w2 with
  | .ok _ => false
  | .error x => decide (x = e)

/-! ### Ill-formed terms, one for each check of WellFormed -/

theorem test_wf_refuses_forms :
    Instr.wf (.add { form := .c, g := 1 } 1 2 (.reg 3)) = false ∧      -- the C form carries no guard
    Instr.wf (.add { form := .s, hint := 1 } 1 2 (.reg 3)) = false ∧   -- the S form carries no hint
    Instr.wf (.add { form := .l } 1 2 (.reg 3)) = false ∧              -- the L form replaces b by K
    Instr.wf (.add {} 1 2 (.lit 3)) = false ∧
    Instr.wf (.add { form := .s, ob := { x := 1 } } 1 2 (.reg 3)) = false ∧
    Instr.wf (.add { form := .l, lc := true } 1 2 (.lit 3)) = false ∧  -- word 2 is K: no offset and no mark in it
    Instr.wf (.mul { form := .l } 1 2 3) = false ∧
    Instr.wf (.sel {} 1 2 3 4) = false ∧
    Instr.wf (.lih { form := .s } 1 2) = false ∧
    Instr.wf (.li { form := .s } 1 (.short 2)) = false ∧
    Instr.wf (.li {} 1 (.long 2)) = false ∧
    Instr.wf (.br {} 4) = false ∧
    Instr.wf (.br { form := .s } 128) = false ∧                        -- beyond imm8
    Instr.wf (.vfma {} 1 2 3 4 .rne) = false := by decide

theorem test_wf_refuses_hints :
    Instr.wf (.add { form := .l, hint := 0x0e } 1 2 (.lit 3)) = false ∧  -- LVL 6
    Instr.wf (.add { form := .l, hint := 0x18 } 1 2 (.lit 3)) = false ∧  -- FIRST and LAST
    Instr.wf (.add { form := .l, hint := 0x01 } 1 2 (.lit 3)) = false ∧  -- LVL without either
    Instr.wf (.add { form := .l, hint := 0xcd } 1 2 (.lit 3)) = true := by decide

theorem test_wf_refuses_fields :
    Instr.wf (.shl { form := .l } 1 2 (.lit 64)) = false ∧
    Instr.wf (.lea {} 1 2 3 5 0) = false ∧
    Instr.wf (.lea {} 1 2 3 0 1) = false ∧
    Instr.wf (.press { form := .l } 32 0 0) = false ∧
    Instr.wf (.press { form := .l, g := 1 } 1 0 0) = false ∧
    Instr.wf (.press { form := .l, hint := 0x40 } 1 0 0) = false ∧
    Instr.wf (.ld {} 2 1 .d true .g none 0) = false ∧                   -- no sign extension at 8 bytes
    Instr.wf (.ld {} 2 1 .w true .g none 1) = false ∧                   -- no displacement in the C form
    Instr.wf (.ldtag {} 2 1 .s 0) = false ∧
    Instr.wf (.atom { form := .s } 1 2 3 4 .add false .none .dev .g 0) = false ∧
    Instr.wf (.atom { form := .s } 1 2 3 4 .add false .acq .dev .g 4) = false ∧
    Instr.wf (.cas { form := .s } 1 2 3 4 .h .acq .dev .g 0) = false ∧
    Instr.wf (.fence 0 .dev) = false ∧
    Instr.wf (.vtype { form := .s } 1 0x2000) = false ∧                 -- a reserved bit
    Instr.wf (.vtype { form := .s } 1 0x0070) = false ∧                 -- a logarithm of 7
    Instr.wf (.quire {} 0 1 2 3) = false ∧
    Instr.wf (.sscaleLoad {} 1 2 .g 1) = false ∧
    Instr.wf (.vdot { form := .s } 1 2 3 .f16) = false ∧
    Instr.wf (.vcmp {} 1 2 3 .lt) = false ∧
    Instr.wf (.vfsgn {} 1 2 3 .neg) = false ∧
    Instr.wf (.vfcmp {} 1 2 3 .lt) = false ∧
    Instr.wf (.vrand { form := .s } 1 2 3 4) = false ∧
    Instr.wf (.vld {} 1 2 .w .g (some 3) 0) = false ∧
    Instr.wf (.vldx { form := .s } 1 2 3 .w .g true 5) = false ∧
    Instr.wf (.mflush {} .f32 .s 1 2 0 0) = false ∧
    Instr.wf (.mflush {} .f32 .g 1 2 3 0) = false ∧
    Instr.wf (.spawn {} 1 2 4 3) = false := by decide

theorem test_wf_refuses_classes :
    Instr.wf (.ld {} 3 1 .q false .g none 0) = false ∧                  -- 16 bytes go to an even register
    Instr.wf (.st {} 3 1 .q .g none 0) = false ∧
    Instr.wf (.ldro {} 3 1 .q false 0) = false ∧
    Instr.wf (.cas { form := .s } 2 1 3 4 .q .acq .dev .g 0) = false ∧
    Instr.wf (.quire {} 4 1 2 0) = false ∧
    Instr.wf (.sscaleFromBrick {} 8 1) = false ∧
    Instr.wf (.sscaleToBrick {} 1 8) = false ∧
    Instr.wf (.sscaleLoad {} 8 1 .g 0) = false ∧
    Instr.wf (.sscaleStore {} 8 1 .g 0) = false ∧
    Instr.wf (.sld {} 1 16) = false ∧ Instr.wf (.sst {} 1 16) = false ∧
    Instr.wf (.mopa { form := .s } 4 1 2) = false ∧ Instr.wf (.mopaRows { form := .s } 1 1 16) = false ∧
    Instr.wf (.mzero 4) = false ∧ Instr.wf (.mrd {} 1 4 2) = false ∧ Instr.wf (.mwr {} 4 1 2) = false ∧
    Instr.wf (.mflush {} .f32 .g 1 4 0 0) = false ∧
    Instr.wf (.rowact {} 16 1) = false ∧ Instr.wf (.rowclose {} 16) = false ∧ Instr.wf (.rowstatH {} 1 16) = false ∧
    Instr.wf (.fbind {} 16 1) = false ∧ Instr.wf (.fseek {} 16 1) = false ∧ Instr.wf (.frel {} 16) = false ∧
    Instr.wf (.epop {} 3 false) = false ∧ Instr.wf (.epopSus {} 3 false) = false ∧
    Instr.wf (.qpush {} 8 1) = false ∧ Instr.wf (.qpop {} 1 8) = false ∧
    Instr.wf (.qpushBrick {} 8 1) = false ∧ Instr.wf (.qpopBrick {} 1 8) = false ∧
    Instr.wf (.suspendLd {} 4 1) = false ∧ Instr.wf (.suspendRow {} 16 1) = false ∧
    Instr.wf (.incupd {} 1 2 16) = false ∧ Instr.wf (.incupdSet {} 1 2 16) = false ∧
    Instr.wf (.incrd {} 1 16) = false ∧ Instr.wf (.incrdSh {} 1 16) = false := by decide

/-! ### Words written out from the encodings of R68 to R76 and of each instruction's description -/

theorem test_words_scalar :
    readsAs 0x00c51c00 0 0 (.add {} 7 5 (.reg 3)) ∧
    readsAs 0x10c51c00 0 0 (.sub {} 7 5 (.reg 3)) ∧
    readsAs 0x20c51c00 0 0 (.and {} 7 5 (.reg 3)) ∧
    readsAs 0x30c51c00 0 0 (.or {} 7 5 (.reg 3)) ∧
    readsAs 0x40c51c00 0 0 (.xor {} 7 5 (.reg 3)) ∧
    readsAs 0x50c51c00 0 0 (.andn {} 7 5 (.reg 3)) ∧
    readsAs 0x60c51c00 0 0 (.shl {} 7 5 (.reg 3)) ∧
    readsAs 0x70c51c00 0 0 (.shr {} 7 5 (.reg 3)) ∧
    readsAs 0x80c51c00 0 0 (.sra {} 7 5 (.reg 3)) ∧
    readsAs 0x90c51c00 0 0 (.rol {} 7 5 (.reg 3)) ∧
    readsAs 0xa0c51c00 0 0 (.min {} 7 5 (.reg 3)) ∧
    readsAs 0xb0c51c00 0 0 (.minu {} 7 5 (.reg 3)) ∧
    readsAs 0xc0c51c00 0 0 (.max {} 7 5 (.reg 3)) ∧
    readsAs 0xd0c51c00 0 0 (.maxu {} 7 5 (.reg 3)) ∧
    readsAs 0xf0c51c10 0 0 (.addImm 7 5 (-61)) ∧
    readsAs 0xf0c51c14 0 0 (.andImm 7 5 (-61)) ∧
    readsAs 0xf0c51c18 0 0 (.orImm 7 5 (-61)) ∧
    readsAs 0xf0c51c1c 0 0 (.xorImm 7 5 (-61)) ∧
    readsAs 0x08451c20 0 0 (.shlImm 7 5 33) ∧
    readsAs 0x08451c24 0 0 (.shrImm 7 5 33) ∧
    readsAs 0x08451c28 0 0 (.sraImm 7 5 33) ∧
    readsAs 0x08451c2c 0 0 (.rolImm 7 5 33) ∧
    readsAs 0x08451c30 0 0 (.sext 7 5 33) ∧
    readsAs 0x08451c34 0 0 (.zext 7 5 33) ∧
    readsAs 0x00c51c04 0 0 (.mul {} 7 5 3) ∧
    readsAs 0x10c51c04 0 0 (.mulh {} 7 5 3) ∧
    readsAs 0x20c51c04 0 0 (.mulhu {} 7 5 3) ∧
    readsAs 0x30c51c04 0 0 (.div {} 7 5 3) ∧
    readsAs 0x40c51c04 0 0 (.divu {} 7 5 3) ∧
    readsAs 0x50c51c04 0 0 (.rem {} 7 5 3) ∧
    readsAs 0x60c51c04 0 0 (.remu {} 7 5 3) ∧
    readsAs 0x00051c08 0 0 (.clz {} 7 5) ∧
    readsAs 0x10051c08 0 0 (.ctz {} 7 5) ∧
    readsAs 0x20051c08 0 0 (.popc {} 7 5) ∧
    readsAs 0x40c51c0c 0 0 (.lea {} 7 5 3 4 0) ∧
    readsAs 0x80c01c70 0 0 (.li {} 7 (.short (-509))) := by decide +kernel

theorem test_words_predicate :
    readsAs 0x50c51c38 0 0 (.cmp {} 7 5 (.reg 3) .leu) ∧
    readsAs 0x00c51c40 0 0 (.pand {} 7 5 3) ∧
    readsAs 0x10c51c40 0 0 (.por {} 7 5 3) ∧
    readsAs 0x20c51c40 0 0 (.pxor {} 7 5 3) ∧
    readsAs 0x30051c40 0 0 (.pnot {} 7 5) ∧
    readsAs 0x00c51c44 0 0 (.pget {} 7 5 3) ∧
    readsAs 0x10c51c44 0 0 (.pset {} 7 5 3) ∧
    readsAs 0x20051c44 0 0 (.pcount {} 7 5) ∧
    readsAs 0x30051c44 0 0 (.pfirst {} 7 5) := by decide +kernel

theorem test_words_control :
    readsAs 0x00051c88 0 0 (.jr {} 7 5) ∧
    readsAs 0x00051c94 0 0 (.strip {} 7 5) ∧
    readsAs 0x000000a0 0 0 (.exit) ∧
    readsAs 0x000000a4 0 0 (.yield) ∧
    readsAs 0x000000a8 0 0 (.nop) ∧
    readsAs 0x00000154 0 0 (.vend) := by decide +kernel

theorem test_words_memory :
    readsAs 0xa98520c0 0 0 (.ld {} 8 5 .w true .c (some .sys) 0) ∧
    readsAs 0x434520c4 0 0 (.st {} 8 5 .q .s (some .clu) 0) ∧
    readsAs 0x900520c8 0 0 (.ldro {} 8 5 .h true 0) ∧
    readsAs 0x008520cc 0 0 (.ldtag {} 8 5 .c 0) ∧
    readsAs 0x000484d8 0 0 (.fence 0x21 .sys) ∧
    readsAs 0x000000dc 0 0 (.drain) ∧
    readsAs 0x10c500e0 0 0 (.flush {} true 5 3) ∧
    readsAs 0x00c500e4 0 0 (.inval {} false 5 3) ∧
    readsAs 0x00c500e8 0 0 (.seal {} 5 3) ∧
    readsAs 0x00051cec 0 0 (.cavecfg 7 5) ∧
    readsAs 0x00051cf0 0 0 (.cavewb 7 5) := by decide +kernel

theorem test_words_vector_setup :
    readsAs 0x00051d04 0 0 (.vlset {} 7 5) ∧
    readsAs 0x00c50908 0 0 (.quire {} 2 5 3 0) ∧
    readsAs 0x00051d0c 0 0 (.sscaleFromBrick {} 7 5) ∧
    readsAs 0x10051d0c 0 0 (.sscaleToBrick {} 7 5) ∧
    readsAs 0x20451d0c 0 0 (.sscaleLoad {} 7 5 .s 0) ∧
    readsAs 0x30851d0c 0 0 (.sscaleStore {} 7 5 .c 0) ∧
    readsAs 0x00050140 0 0 (.mpush {} 5) ∧
    readsAs 0x00000144 0 0 (.mpop {}) ∧
    readsAs 0x00000148 0 0 (.minv {}) ∧
    readsAs 0x00001d4c 0 0 (.mtop {} 7) := by decide +kernel

theorem test_words_vector_integer :
    readsAs 0x00c51d10 0 0 (.vadd {} 7 5 3) ∧
    readsAs 0x10c51d10 0 0 (.vsub {} 7 5 3) ∧
    readsAs 0x20c51d10 0 0 (.vand {} 7 5 3) ∧
    readsAs 0x30c51d10 0 0 (.vor {} 7 5 3) ∧
    readsAs 0x40c51d10 0 0 (.vxor {} 7 5 3) ∧
    readsAs 0x50c51d10 0 0 (.vshl {} 7 5 3) ∧
    readsAs 0x60c51d10 0 0 (.vshr {} 7 5 3) ∧
    readsAs 0x70c51d10 0 0 (.vsra {} 7 5 3) ∧
    readsAs 0x80c51d10 0 0 (.vmin {} 7 5 3) ∧
    readsAs 0x90c51d10 0 0 (.vmax {} 7 5 3) ∧
    readsAs 0x00c51d14 0 0 (.vmul {} 7 5 3) ∧
    readsAs 0x10c51d14 0 0 (.vmulh {} 7 5 3) ∧
    readsAs 0x00c51d18 0 0 (.vsadd {} 7 5 3) ∧
    readsAs 0x10c51d18 0 0 (.vssub {} 7 5 3) ∧
    readsAs 0x00c51d20 0 0 (.vcmp {} 7 5 3 .eq) ∧
    readsAs 0x00051d28 0 0 (.vbcast {} 7 (.reg 5)) ∧
    readsAs 0x30001d2c 0 0 (.vid {} 7 .z) := by decide +kernel

theorem test_words_vector_float :
    readsAs 0x70c51d60 0 0 (.vfadd {} 7 5 3 .dyn) ∧
    readsAs 0x10c51d64 0 0 (.vfsub {} 7 5 3 .rup) ∧
    readsAs 0x20c51d68 0 0 (.vfmul {} 7 5 3 .rdn) ∧
    readsAs 0x30c51d84 0 0 (.vfdiv {} 7 5 3 .rtz) ∧
    readsAs 0x00c51d74 0 0 (.vfmin {} 7 5 3) ∧
    readsAs 0x00c51d78 0 0 (.vfmax {} 7 5 3) ∧
    readsAs 0x00c51d7c 0 0 (.vfsgn {} 7 5 3 .cp) ∧
    readsAs 0x00c51d80 0 0 (.vfcmp {} 7 5 3 .eq) ∧
    readsAs 0x40051d88 0 0 (.vfsqrt {} 7 5 .rsr) ∧
    readsAs 0x12c51d8c 0 0 (.vcvt {} 7 5 .bf16 .rup) ∧
    readsAs 0x20c51d90 0 0 (.vpack {} 7 5 3 .rdn) ∧
    readsAs 0x00c51d94 0 0 (.vunpack {} 7 5 true true .rne) ∧
    readsAs 0x00051d98 0 0 (.vexp2 {} 7 5) ∧
    readsAs 0x00051d9c 0 0 (.vlog2 {} 7 5) ∧
    readsAs 0x00051da0 0 0 (.vrcp {} 7 5) ∧
    readsAs 0x00051da4 0 0 (.vrsqrt {} 7 5) ∧
    readsAs 0x00051da8 0 0 (.vsinpi {} 7 5) ∧
    readsAs 0x00051dac 0 0 (.vcospi {} 7 5) ∧
    readsAs 0x00051db0 0 0 (.vtanh {} 7 5) ∧
    readsAs 0x00051db4 0 0 (.vsigm {} 7 5) := by decide +kernel

theorem test_words_vector_memory :
    readsAs 0x40451dc0 0 0 (.vld {} 7 5 .d .s none 0) ∧
    readsAs 0x30851dc4 0 0 (.vst {} 7 5 .w .c 0) ∧
    readsAs 0x20051dc8 0 0 (.vstu {} 7 5 .h .g 0) ∧
    readsAs 0x10051de0 0 0 (.vldro {} 7 5 .b 0) := by decide +kernel

theorem test_words_spine :
    readsAs 0x00c51e00 0 0 (.vperm {} 7 5 3) ∧
    readsAs 0x00c51e04 0 0 (.vrot {} 7 5 3) ∧
    readsAs 0x00c51e08 0 0 (.vxget {} 7 5 3) ∧
    readsAs 0x00c51e0c 0 0 (.vxput {} 7 5 3) ∧
    readsAs 0x10c51e10 0 0 (.vredsum {} 7 5 3 .rup) ∧
    readsAs 0x00c51e14 0 0 (.vredsumu {} 7 5 3 .rne) ∧
    readsAs 0x00c51e18 0 0 (.vredmax {} 7 5 3) ∧
    readsAs 0x00c51e1c 0 0 (.vredmin {} 7 5 3) ∧
    readsAs 0x30c51e20 0 0 (.vscan {} 7 5 3 .rtz) ∧
    readsAs 0x00051e24 0 0 (.vcompress {} 7 5) ∧
    readsAs 0x00051e28 0 0 (.vexpand {} 7 5) := by decide +kernel

theorem test_words_matrix :
    readsAs 0x00000e44 0 0 (.mzero 3) ∧
    readsAs 0x00c21e48 0 0 (.mrd {} 7 2 3) ∧
    readsAs 0x00c50a4c 0 0 (.mwr {} 2 5 3) ∧
    readsAs 0x10c50a50 0 0 (.mflush {} .i32 .c 5 3 0 0) ∧
    readsAs 0x00000254 0 0 (.mwait) := by decide +kernel

theorem test_words_rows :
    readsAs 0x00051e80 0 0 (.rowact {} 7 5) ∧
    readsAs 0x10051e88 0 0 (.rowstatH {} 7 5) ∧
    readsAs 0x00051e8c 0 0 (.fbind {} 7 5) ∧
    readsAs 0x00051e90 0 0 (.fseek {} 7 5) ∧
    readsAs 0x00051de4 0 0 (.sld {} 7 5) ∧
    readsAs 0x00051de8 0 0 (.sst {} 7 5) ∧
    readsAs 0x00001e84 0 0 (.rowclose {} 7) ∧
    readsAs 0x00001e88 0 0 (.rowstat {} 7) ∧
    readsAs 0x00001e94 0 0 (.frel {} 7) := by decide +kernel

theorem test_words_engines :
    readsAs 0x10c51ea0 0 0 (.enq {} 7 5 3 true) ∧
    readsAs 0x00c51ea4 0 0 (.enqb {} 7 5 3 false) ∧
    readsAs 0x100022a8 0 0 (.epop {} 8 true) ∧
    readsAs 0x200022a8 0 0 (.epopSus {} 8 false) ∧
    readsAs 0x10001eac 0 0 (.estat {} 7 true) ∧
    readsAs 0x20051eac 0 0 (.estatN {} 7 5) ∧
    readsAs 0x00051eb0 0 0 (.qpush {} 7 5) ∧
    readsAs 0x10051eb0 0 0 (.qpushBrick {} 7 5) ∧
    readsAs 0x00051eb4 0 0 (.qpop {} 7 5) ∧
    readsAs 0x10051eb4 0 0 (.qpopBrick {} 7 5) ∧
    readsAs 0x00c502b8 0 0 (.gload {} 5 3) ∧
    readsAs 0x000502bc 0 0 (.gsig {} 5) ∧
    readsAs 0x000502c0 0 0 (.gwait {} 5) ∧
    readsAs 0x100502c0 0 0 (.gwaitSus {} 5) ∧
    readsAs 0x00051ec4 0 0 (.wmpub {} 7 5) ∧
    readsAs 0x10051ec4 0 0 (.wmpubInit {} 7 5) ∧
    readsAs 0x00051ec8 0 0 (.wmrd {} 7 5) ∧
    readsAs 0x10051ec8 0 0 (.wmrdBound {} 7 5) := by decide +kernel

theorem test_words_tasks :
    readsAs 0x01051ee0 0 0 (.spawn {} 7 5 4 0) ∧
    readsAs 0x000002e4 0 0 (.suspend {}) ∧
    readsAs 0x100522e4 0 0 (.suspendLd {} 8 5) ∧
    readsAs 0x20051ee4 0 0 (.suspendRow {} 7 5) ∧
    readsAs 0x000002e8 0 0 (.tdone {}) ∧
    readsAs 0x000002ec 0 0 (.kpt {}) ∧
    readsAs 0x000502f0 0 0 (.bnd {} 5) ∧
    readsAs 0x00c51ef4 0 0 (.incupd {} 7 5 3) ∧
    readsAs 0x10c51ef4 0 0 (.incupdSet {} 7 5 3) ∧
    readsAs 0x00051ef8 0 0 (.incrd {} 7 5) ∧
    readsAs 0x10051ef8 0 0 (.incrdSh {} 7 5) ∧
    readsAs 0x00051efc 0 0 (.regl {} 7 5) := by decide +kernel

theorem test_words_system :
    readsAs 0x00010b28 0 0 (.sys 0x042) ∧
    readsAs 0x0000032c 0 0 (.eret) ∧
    readsAs 0x00010b30 0 0 (.brk 0x042) ∧
    readsAs 0x00001f34 0 0 (.snap 7) ∧
    readsAs 0x00000338 0 0 (.tlbinvAll) ∧
    readsAs 0x10c00338 0 0 (.tlbinvAsid 3) ∧
    readsAs 0x20c50338 0 0 (.tlbinvPage 5 3) ∧
    readsAs 0x30050338 0 0 (.tlbinvGpage 5) ∧
    readsAs 0x40000338 0 0 (.tlbinvUser) := by decide +kernel

/-- The pairs that have no C form, and what the longer forms carry: guard, marks, offsets, displacements and literals. -/
theorem test_words_long_scalar :
    readsAs 0x00c51c01 0x00000045 0 (.add { form := .s, g := 5, gn := true } 7 5 (.reg 3)) ∧
    readsAs 0x00051c02 0xcd000000 0xfffe7960 (.add { form := .l, hint := 0xcd } 7 5 (.lit (-100000))) ∧
    readsAs 0x00001c76 0x00000000 0xdeadbeef (.lih { form := .l } 7 0xdeadbeef) ∧
    readsAs 0x00001c72 0x00000000 0x00001000 (.li { form := .l } 7 (.long 0x1000)) ∧
    readsAs 0x00c51c3d 0x00080000 0 (.sel { form := .s } 7 5 3 2) ∧
    readsAs 0x40c51c0d 0xf0000000 0 (.lea { form := .s } 7 5 3 4 (-16)) := by decide +kernel

theorem test_words_long_control :
    readsAs 0x00000082 0x00000000 0x12345678 (.br { form := .l } 0x12345678) ∧
    readsAs 0x00001c85 0x7f000000 0 (.jal { form := .s } 7 127) ∧
    readsAs 0x00c5008d 0x04080000 0 (.jtab { form := .s } 5 0x0c2 4) ∧
    readsAs 0x00000091 0xff000000 0 (.bmz { form := .s } (-1)) ∧
    readsAs 0x10000091 0xff000000 0 (.bmnz { form := .s } (-1)) ∧
    readsAs 0x00001c99 0xfa000000 0 (.snext { form := .s } 7 (-6)) ∧
    readsAs 0x00050c9e 0x00000000 0x00000080 (.press { form := .l } 3 5 0x80) ∧
    readsAs 0x00000151 0x05000000 0 (.vfetch { form := .s } 5) ∧
    readsAs 0x10000151 0x05000000 0 (.vfetchOrd { form := .s } 5) ∧
    readsAs 0x00001f21 0x040c0000 0 (.ctlr { form := .s } 7 0x304) ∧
    readsAs 0x00051f25 0x010c0000 0 (.ctlw { form := .s } 7 5 0x301) ∧
    readsAs 0x10051f26 0x00000000 0x00000305 (.ctlwSet { form := .l } 7 5 0x305) ∧
    readsAs 0x20051f25 0x050c0000 0 (.ctlwClr { form := .s } 7 5 0x305) := by decide +kernel

theorem test_words_long_memory :
    readsAs 0xa9851cc1 0xfe000000 0 (.ld { form := .s } 7 5 .w true .c (some .sys) (-2)) ∧
    readsAs 0x30051cc6 0x00000000 0x00012344 (.st { form := .l } 7 5 .d .g none 0x12344) ∧
    readsAs 0x80c51cd1 0xbd080000 0 (.atom { form := .s } 7 5 3 2 .xchg true .ar .dev .s 0) ∧
    readsAs 0x10c51cd6 0x00080000 0xfffff83d (.cas { form := .l } 7 5 3 2 .d .ar .dev .s (-8)) ∧
    readsAs 0x41051dc1 0x01080000 0 (.vld { form := .s } 7 5 .d .g (some 2) 1) ∧
    readsAs 0x30c51dcd 0x00040000 0 (.vlds { form := .s } 7 5 3 .w .s 0) ∧
    readsAs 0x30c51dd1 0x00080000 0 (.vsts { form := .s } 7 5 3 .w .c 0) ∧
    readsAs 0x30c51dd5 0x00700000 0 (.vldx { form := .s } 7 5 3 .w .g true 3) ∧
    readsAs 0x30c51dd9 0x00840000 0 (.vstx { form := .s } 7 5 3 .w .s false 4) ∧
    readsAs 0x10c51ddd 0x00700000 0 (.vscadd { form := .s } 7 5 3 .rup .g true 3) ∧
    readsAs 0x10c50a51 0x02040000 0 (.mflush { form := .s } .i32 .c 5 3 1 2) := by decide +kernel

theorem test_words_long_vector :
    readsAs 0xc0250101 0x00000000 0 (.vtype { form := .s } 0 0x25c) ∧
    readsAs 0x00000102 0x00000000 0x0098025c (.vtype { form := .l } 0 0x98025c) ∧
    readsAs 0x00c50909 0x00080000 0 (.quire { form := .s } 2 5 3 2) ∧
    readsAs 0x00c51d1d 0x000c0000 0 (.vdot { form := .s } 7 5 3 .n16) ∧
    readsAs 0x00c51d21 0x00140000 0 (.vcmp { form := .s } 7 5 3 .ge) ∧
    readsAs 0x00c51d25 0x00080000 0 (.vsel { form := .s } 7 5 3 2) ∧
    readsAs 0x00001d2a 0x00000000 0xffffffff (.vbcast { form := .l } 7 (.lit (-1))) ∧
    readsAs 0x00c51d6d 0x00080180 0 (.vfma { form := .s, la := true, lb := true } 7 5 3 2 .rne) ∧
    readsAs 0x00c51d72 0x00080000 0x00078001
      (.vfnma { form := .l, lc := true, oc := { z := -1 }, ob := { x := 1 } } 7 5 3 2 .rne) ∧
    readsAs 0x00c51d7d 0x00080000 0 (.vfsgn { form := .s } 7 5 3 .xor) ∧
    readsAs 0x00c51d81 0x001c0000 0 (.vfcmp { form := .s } 7 5 3 .or) ∧
    readsAs 0x00c51db9 0x00000000 0 (.vrand { form := .s } 7 5 3 0) ∧
    readsAs 0x10c51dba 0x00000000 0x00001000 (.vrandU { form := .l } 7 5 3 0x1000) ∧
    readsAs 0x00c50a41 0x00000000 0 (.mopa { form := .s } 2 5 3) ∧
    readsAs 0x10c50a41 0x00000100 0 (.mopaRows { form := .s, lb := true } 2 5 3) := by decide +kernel

/-- Reserved and unused fields (R74, R76, R77, items 3 and 4). -/
theorem test_words_refused :
    refuses 0x40000008 0 0 .illOp ∧            -- the clz row, f4 4
    refuses 0x00400008 0 0 .illEnc ∧           -- clz with b
    refuses 0x10000030 0 0 .illEnc ∧           -- sext, imm10[9:6] = 1
    refuses 0x50000160 0 0 .illEnc ∧           -- rounding code 5
    refuses 0x00000002 0x06000000 0 .illEnc ∧  -- a hint with LVL 6
    refuses 0x000000d8 0 0 .illEnc ∧           -- a fence of no kind
    refuses 0x00c000c0 0 0 .illEnc ∧           -- space 3
    refuses 0x0000005c 0 0 .illOp ∧            -- major 0x17
    refuses 0x00000003 0 0 .illLen := by decide +kernel

/-! ### From a check that evaluates to the hypotheses of the statements -/

/-- The outcome is a next state. -/
def isNext (o : Host.Outcome State Fault Refusal) : Bool :=
  match o with
  | .next _ => true
  | _ => false

theorem next_of {o : Host.Outcome State Fault Refusal} (h : isNext o = true) : ∃ t, o = .next t := by
  cases o with
  | next t => exact ⟨t, rfl⟩
  | fault _ => simp [isNext] at h
  | refused _ => simp [isNext] at h

/-- Every one of the instructions issues. -/
def allIssue (s : State) (l : List Instr) : Bool := l.all fun i => decide (issues i s)

/-- Every one of the instructions traps with that cause. -/
def allTrap (s : State) (c : Cause) (l : List Instr) : Bool := l.all fun i => (cxOf i s).cause == c.code.setWidth 64

/-- What a failing access answers. -/
def failsWith {α : Type} (e : Except (Cause × Word) α) (c : Cause) (v : Word) : Bool :=
  match e with
  | .ok _ => false
  | .error x => decide (x = (c, v))

def RowMeet.isFree : RowMeet → Bool
  | .free => true
  | _ => false
def RowMeet.isWait : RowMeet → Bool
  | .wait => true
  | _ => false
def RowMeet.isSelf : RowMeet → Bool
  | .self _ => true
  | _ => false

/-- Nothing is in the way of a load. -/
def loadable (s : State) (j : Joint) (sp : Space) (va : Word) (p : Place) (n : Nat) : Bool :=
  s.walkMeets s.cx sp .load va n == .free && !p.inReg && !s.peerFails p && !s.poisoned p &&
    !s.blockedOn s.cx none (j.spots p n) && !s.layerWaits (some s.cx.coreid) p

/-- A load that can be made. -/
def canLoad (s : State) (sp : Space) (va : Word) (n : Nat) (j : Joint := .sector) : Bool :=
  got (s.resolve s.cx sp .load va n) fun q => loadable s j sp va q.2 n

/-- A load that can be made and of whose state and value `f` holds. -/
def loadsAnd (s : State) (path : Path) (j : Joint) (sp : Space) (va : Word) (n : Nat) (f : State → Nat → Bool) : Bool :=
  got (s.resolve s.cx sp .load va n) fun q =>
    loadable s j sp va q.2 n && f (q.1.loadPlace q.1.cx path j q.2 n).2 ((settled q.1 path j q.2).seenPlace q.1.cx path q.2 n)

theorem loads_and {s : State} {path : Path} {j : Joint} {sp : Space} {va : Word} {n : Nat} {f : State → Nat → Bool}
    (h : loadsAnd s path j sp va n f = true) (hn : n ≤ 31 * 4096 := by decide) :
    ∃ t v, loads s path j sp va n t v ∧ f t v = true := by
  obtain ⟨⟨u, p⟩, hq, hb⟩ := got_ok h
  simp only [loadable, Bool.and_eq_true, Bool.not_eq_true', beq_iff_eq] at hb
  obtain ⟨⟨⟨⟨⟨⟨h0, h1⟩, h2⟩, h3⟩, h4⟩, h5⟩, h6⟩ := hb
  have hf := resolve_fits hq hn
  have hc : (settled u path j p).cx = u.cx := by
    cases p with
    | g ls => exact (settle_touched u u.cx path j ls).cx
    | s off => rfl
    | c off => rfl
  refine ⟨_, (settled u path j p).seenPlace u.cx path p n,
    ⟨u, p, hq, h0, h1, h2, h3, h4, h5, ⟨seenPlace_lt _ u.cx path p n hf, fun k hk => ?_⟩, rfl⟩, h6⟩
  rw [seenPlace_byte _ u.cx path p n k hf hk]
  cases p <;> simp only [seenByte, placeByte, hc]

theorem loads_of {s : State} {path : Path} {j : Joint} {sp : Space} {va : Word} {n : Nat}
    (h : canLoad s sp va n j = true) (hn : n ≤ 31 * 4096 := by decide) : ∃ t v, loads s path j sp va n t v := by
  obtain ⟨t, v, hl, -⟩ := loads_and (path := path) (f := fun _ _ => true) (by simpa [loadsAnd, canLoad] using h) hn
  exact ⟨t, v, hl⟩

/-- A store that can be made and that nothing holds back. -/
def canStore (s : State) (sp : Space) (va : Word) (n : Nat) (w : Parts := {}) : Bool :=
  s.walkMeets s.cx sp .store va n == .free && got (s.resolve s.cx sp .store va n) fun q =>
    !q.2.inReg && !q.2.inPeer && !s.poisoned q.2 && !q.1.writeBlocked w q.2 n && RowMeet.isFree (q.1.rowMeets (some q.1.cx) q.2) &&
      !q.1.follows w q.2 n

theorem rowMeet_free {r : RowMeet} (h : RowMeet.isFree r = true) : r = .free := by
  cases r <;> first | rfl | simp [RowMeet.isFree] at h

theorem canonical_touched {s t : State} (h : canonical s) (ht : Touched s t) : canonical t := by
  have hc : t.ctxs = s.ctxs := by rw [State.ctxs, State.ctxs, ht.cx, ht.others]
  exact ⟨⟨ht.mem h.1.1, hc ▸ h.1.2⟩, ht.tags h.2.1, hc ▸ h.2.2⟩

theorem canonical_of {s : State} (hm : s.mem.wf = true) (ht : s.tags = [])
    (hc : ∀ c ∈ s.ctxs, c.scratch.wf = true ∧ c.cave.wf = true ∧ c.caveTags = []) : canonical s := by
  refine ⟨⟨hm, fun c h => ⟨(hc c h).1, (hc c h).2.1⟩⟩, ?_, fun c h => ?_⟩
  · rw [ht]; exact Tags.wf_nil
  · rw [(hc c h).2.2]; exact Tags.wf_nil

theorem stores_of {s : State} {w : Parts} {sp : Space} {va : Word} {n : Nat} (hs : canonical s) (h : canStore s sp va n w = true) :
    ∃ t p, canonical t ∧ stores s w sp va n t p := by
  simp only [canStore, Bool.and_eq_true, beq_iff_eq] at h
  obtain ⟨h0, h⟩ := h
  obtain ⟨⟨t, p⟩, hq, hb⟩ := got_ok h
  simp only [Bool.and_eq_true, Bool.not_eq_true'] at hb
  obtain ⟨⟨⟨⟨⟨h1, h2⟩, h3⟩, h4⟩, h5⟩, h6⟩ := hb
  exact ⟨t, p, canonical_touched hs (resolve_touched hq), hq, h0, h1, h2, h3, h4, rowMeet_free h5, h6⟩

/-- An atomic that can be performed. -/
def canPerform (s : State) (sp : Space) (va : Word) (n : Nat) : Bool :=
  decide (va.toNat % n = 0) && s.walkMeets s.cx sp .atomic va n == .free && (match s.cx.stall with | .hostDone _ _ => false | _ => true) &&
  got (s.resolve s.cx sp .atomic va n) fun q =>
    decide (q.2.target = .device ∨ q.2.target = .host ∨ q.2.target = .peer) && !s.poisoned q.2 && !s.peerFails q.2 &&
    !s.blocked s.cx q.2 n && RowMeet.isFree (s.rowMeets (some s.cx) q.2)

theorem notDone_of {s : State} (h : (match s.cx.stall with | .hostDone _ _ => false | _ => true) = true) :
    ∀ ok old, s.cx.stall ≠ .hostDone ok old := by
  intro ok old he; rw [he] at h; cases h

theorem performs_of {s : State} {sp : Space} {va : Word} {n : Nat} (hs : canonical s) (h : canPerform s sp va n = true) :
    ∃ t p, canonical t ∧ performs s sp va n t p := by
  simp only [canPerform, Bool.and_eq_true, decide_eq_true_eq, beq_iff_eq] at h
  obtain ⟨⟨⟨ha, h0⟩, hd⟩, hg⟩ := h
  obtain ⟨⟨t, p⟩, hq, hb⟩ := got_ok hg
  simp only [Bool.and_eq_true, Bool.not_eq_true', decide_eq_true_eq] at hb
  obtain ⟨⟨⟨⟨h1, h2⟩, h3⟩, h4⟩, h5⟩ := hb
  exact ⟨t, p, canonical_touched hs (resolve_touched hq), ha, hq, h0, h1, h2, h3, h4, rowMeet_free h5, notDone_of hd⟩

/-- An operand without an offset reads its own elements. -/
theorem reads_plain (s : State) (i : Instr) (m : Mods) (k : Nat) (r : Reg) : reads s i m k r {} fun e => s.cx.el r e :=
  fun e _ => ⟨by simp [State.opnd], Nat.mod_lt _ (Nat.pow_pos (by decide))⟩

theorem values_of {s : State} {m : Mods} {k : Nat} {x : Nat → Nat} {scaled : Bool}
    (h : ((s.cx.elems m).all fun e => got (s.numeric k s.cx.fmt (x e) e (if scaled then s.cx.scaleOf k else none)) fun _ => true) = true) :
    ∃ X, values s m k x scaled X := by
  refine ⟨fun e => match s.numeric k s.cx.fmt (x e) e (if scaled then s.cx.scaleOf k else none) with
    | .ok v => v | .error _ => .nar, fun e he => ?_⟩
  obtain ⟨v, hv, -⟩ := got_ok (List.all_eq_true.mp h e he)
  simp only [hv]

/-- A vector load of one element, in a state that may come after an acquire. -/
theorem along_load {path : Path} {J : State → Nat → Joint} {sp : Space} {addr : Nat → Word} {d : Reg} {g : State → State} {s : State}
    {e : Nat} (ha : (g s).cx.fmt.sew = 4 ∨ (addr e).toNat % ((g s).cx.fmt.sew / 8) = 0)
    (hn : max 1 ((g s).cx.fmt.sew / 8) ≤ 31 * 4096)
    (h : canLoad (g s) sp (addr e) (max 1 ((g s).cx.fmt.sew / 8)) (J s e) = true) :
    ∃ t, along (fun u e w => loadsElem path (J u e) sp addr d (g u) e w) [e] s t := by
  obtain ⟨t, v, hl⟩ := loads_of (path := path) h hn
  exact ⟨_, _, ⟨t, v, ha, hl, rfl⟩, rfl⟩

/-- A vector store of one element. -/
theorem along_store {k : Nat} {ordered chunk : Bool} {sp : Space} {addr : Nat → Word} {d : Reg} {s : State} {e : Nat}
    (hs : canonical s) (ha : s.cx.fmt.sew = 4 ∨ (addr e).toNat % (s.cx.fmt.sew / 8) = 0)
    (h : canStore s sp (addr e) (max 1 (s.cx.fmt.sew / 8)) { num := some k, ordered := ordered, chunk := chunk } = true) :
    ∃ t, along (storesElem k ordered chunk sp addr d) [e] s t := by
  obtain ⟨t, p, -, hp⟩ := stores_of hs h
  exact ⟨_, _, ⟨t, p, ha, hp, rfl⟩, rfl⟩

theorem st_canonical : canonical st := canonical_of (by decide +kernel) rfl (by decide +kernel)

/-! ### A state that meets the hypotheses of each statement -/

theorem ok_of {α ε : Type} {e : Except ε α} {f : α → Bool} (h : got e f = true) : ∃ a, e = .ok a ∧ f a = true := got_ok h

theorem of_readsAs {w0 w1 w2 : BitVec 32} {i : Instr} (h : readsAs w0 w1 w2 i = true) : decode w0 w1 w2 = .ok i := by
  unfold readsAs at h
  split at h
  · rename_i j hj
    simp only [Bool.and_eq_true, decide_eq_true_eq] at h
    rw [hj, h.1]
  · cases h

/-- `st` with the page tables and the code page of withFetchWord, virtual page 0. -/
def code (w : Nat) : State := st.withFetchWord 96 w

/-- `code 0` with leaf entries for the virtual pages 1, 2, … -/
def paged (ptes : List Nat) : State :=
  { code 0 with mem := (ptes.mapIdx fun k p => (0x14008 + 8 * k, p)).foldl (fun m e => m.writeN e.1 8 e.2) (code 0).mem }

/-- Pages 1 to 6: device DRAM, host memory, UC host memory, the register space, row 1 of layer 0 of core 0's column, and a page
that grants no store. -/
def dm : State := paged [0x2002f, 0x10000000002f, 0x10000000022f, 0x800000022f, 0x400002f, 0x20027]

/-- `dm` with x1 = a, x2 = b, x3 = c. -/
def dx (a b c : Word) : State := dm.upd fun y => { y with x := xs a b c }

theorem dm_canonical : canonical dm := canonical_of (by decide +kernel) rfl (by decide +kernel)
theorem dx_canonical (a b c : Word) : canonical (dx a b c) := by
  obtain ⟨⟨h1, h2⟩, h3, h4⟩ := dm_canonical
  refine ⟨⟨h1, fun q hq => ?_⟩, h3, fun q hq => ?_⟩
  · have h := h2 dm.cx (.head _)
    simp only [State.ctxs, List.mem_cons] at hq
    rcases hq with rfl | hq
    · exact h
    · exact h2 q (.tail _ hq)
  · have h := h4 dm.cx (.head _)
    simp only [State.ctxs, List.mem_cons] at hq
    rcases hq with rfl | hq
    · exact h
    · exact h4 q (.tail _ hq)

theorem test_hyp_DecodeOfEncodeIsTheInstruction :
    ([.add {} 1 2 (.reg 3), .add { form := .l, hint := 0xcd } 1 2 (.lit 3), .exit] : List Instr).all
      (fun i => fetched i && i.encodable) = true := by decide +kernel

theorem test_hyp_EncodeOfDecodeIsTheWords : ∃ i, decode 0x00420161 0x00038247 0 = .ok i :=
  ⟨.vfadd { form := .s, g := 7, gn := true, oa := { x := 1, z := -1 } } 0 2 1 .rne, of_readsAs (by decide +kernel)⟩

/-- The word is fetched. -/
def fetches (s : State) (va : Word) (w : BitVec 32) : Bool := got (s.fetchWord va) fun r => r.2 == w
theorem fetches_of {s : State} {va : Word} {w : BitVec 32} (h : fetches s va w = true) : ∃ t, s.fetchWord va = .ok (t, w) := by
  obtain ⟨⟨t, v⟩, h1, h2⟩ := got_ok h
  obtain rfl : v = w := eq_of_beq h2
  exact ⟨t, h1⟩

/-- `st` with a matrix instruction of its own still in the queue. -/
def behindQueue : State := { st with co := { st.co with queue := [.mzero 1 3] } }

theorem test_hyp_FetchAndDecodeTrapsAreTaken :
    (0xffffffff : BitVec 32).extractLsb' 0 2 = 3 ∧ (0xfffffffc : BitVec 32).extractLsb' 0 2 = 0 ∧
    (0xfffffffd : BitVec 32).extractLsb' 0 2 = 1 ∧
    (code 3).cx.nestNow = none ∧ fld (code 3).cx.pc 0 2 = 0 ∧ (∃ t, (code 3).fetchWord (code 3).cx.pc = .ok (t, 3)) ∧
    fld (0x102 : Word) 0 2 ≠ 0 ∧ fld (0x0100000000000000 : Word) 0 2 = 0 ∧ fld (0x0100000000000000 : Word) 56 8 ≠ 0 ∧
    st.trapWaits st.cx = false ∧ behindQueue.trapWaits behindQueue.cx = true :=
  ⟨by decide, by decide, by decide, by decide +kernel, by decide +kernel, fetches_of (by decide +kernel), by decide, by decide,
    by decide, by decide +kernel, by decide +kernel⟩

/-- A state whose instruction cache holds the last word of the code page. -/
def cached (s : State) : State := { s with co := { s.co with code := [⟨0, 0x15ffc / 4, 0xfffffffc, 0⟩] } }

/-- br as 0x81, 0xfd000003 and press as 0x89e, 0, 0x80: a word of each form at the pc. -/
theorem test_hyp_FetchBringsTheWordsAtThePc :
    (∃ t ls, (code 3).gLocs (some (code 3).cx.coreid) (code 3).cx.ptbase (code 3).cx.sup .fetch 0xffc 4 32 = .ok (t, ls) ∧
      (∀ l ∈ ls, isReg l.pa = false ∧ lineOf l.pos ∉ (code 3).poison ∧ isPeer l.pos = false) ∧ ls.length = 4 ∧
      (code 3).codeWord ((ls.getD 0 ⟨0, 0, false⟩).pos / 4) = none ∧
      (cached (code 3)).codeWord ((ls.getD 0 ⟨0, 0, false⟩).pos / 4) = some 0xfffffffc ∧ t.caching = false) ∧
    (∃ t, (code 0xfec10c10).fetchWord 0 = .ok (t, 0xfec10c10)) ∧ decode 0xfec10c10 0 0 = .ok (.addImm 3 1 (-5)) ∧
    (∃ t u, (code 0xfd00000300000081).fetchWord 0 = .ok (t, 0x81) ∧ t.fetchWord 4 = .ok (u, 0xfd000003)) ∧
    decode 0x81 0xfd000003 0 = .ok (.br { form := .s, g := 3 } (-3)) ∧
    (∃ t u v, (code 0x80000000000000089e).fetchWord 0 = .ok (t, 0x89e) ∧ t.fetchWord 4 = .ok (u, 0) ∧
      u.fetchWord 8 = .ok (v, 0x80)) ∧ decode 0x89e 0 0x80 = .ok (.press { form := .l } 2 0 0x80) := by
  refine ⟨?_, fetches_of (by decide +kernel), of_readsAs (by decide +kernel), ?_, of_readsAs (by decide +kernel), ?_,
    of_readsAs (by decide +kernel)⟩
  · obtain ⟨⟨t, ls⟩, h, hb⟩ := got_ok (e := (code 3).gLocs (some (code 3).cx.coreid) (code 3).cx.ptbase (code 3).cx.sup .fetch 0xffc 4 32)
      (f := fun r => decide ((∀ l ∈ r.2, isReg l.pa = false ∧ lineOf l.pos ∉ (code 3).poison ∧ isPeer l.pos = false) ∧ r.2.length = 4 ∧
        (code 3).codeWord ((r.2.getD 0 ⟨0, 0, false⟩).pos / 4) = none ∧
        (cached (code 3)).codeWord ((r.2.getD 0 ⟨0, 0, false⟩).pos / 4) = some 0xfffffffc ∧ r.1.caching = false)) (by decide +kernel)
    exact ⟨t, ls, h, of_decide_eq_true hb⟩
  · obtain ⟨⟨t, w⟩, h, hb⟩ := got_ok (e := (code 0xfd00000300000081).fetchWord 0)
      (f := fun r => r.2 == 0x81 && fetches r.1 4 0xfd000003) (by decide +kernel)
    simp only [Bool.and_eq_true, beq_iff_eq] at hb
    obtain ⟨u, hu⟩ := fetches_of hb.2
    exact ⟨t, u, by rw [h, hb.1], hu⟩
  · obtain ⟨⟨t, w⟩, h, hb⟩ := got_ok (e := (code 0x80000000000000089e).fetchWord 0)
      (f := fun r => r.2 == 0x89e && got (r.1.fetchWord 4) fun q => q.2 == 0 && fetches q.1 8 0x80) (by decide +kernel)
    simp only [Bool.and_eq_true, beq_iff_eq] at hb
    obtain ⟨⟨u, x⟩, hu, hc⟩ := got_ok hb.2
    simp only [Bool.and_eq_true, beq_iff_eq] at hc
    obtain ⟨v, hv⟩ := fetches_of hc.2
    exact ⟨t, u, v, by rw [h, hb.1], by rw [hu, hc.1], hv⟩

/-- The context in focus runs, nothing is asked for, and it is its turn. -/
def runs (s : State) : Bool :=
  let u : State := { s with ticks := s.ticks + 1, cut := none }
  s.agenda.isEmpty && s.cx.phase == .running && decide (s.cx.stall = .none) && !u.asyncWaits && decide (u.turn = .own)

/-- `code w` with a trap that pends. -/
def pendingTrap (w : Nat) : State := (code w).upd fun c => { c with pending := [(.machineCheck, 7)] }

/-- Fetch brings an instruction. -/
def brings (s : State) (i : Instr) : Bool := got s.fetch fun r => decide (r.2 = i)
theorem brings_of {s : State} {i : Instr} (h : brings s i = true) : ∃ t, s.fetch = .ok (t, i) := by
  obtain ⟨⟨t, j⟩, h1, h2⟩ := got_ok h
  obtain rfl : j = i := of_decide_eq_true h2
  exact ⟨t, h1⟩

theorem not_raise {s : State} (h : s.cx.stall = .none) : ∀ c v, s.cx.stall ≠ .raise c v := by simp [h]

theorem test_hyp_StepRunsTheDecodedInstruction :
    (∀ c v, (code 0xfec10c10).cx.stall ≠ .raise c v) ∧ (∃ t, (code 0xfec10c10).fetch = .ok (t, .addImm 3 1 (-5))) ∧
    (code 0xfec10c10).asyncDue = false ∧
    (∀ c v, ((code 0).upd fun c => { c with pc := 2 }).cx.stall ≠ .raise c v) ∧
    failsWith (State.fetch ((code 0).upd fun c => { c with pc := 2 })) .align 2 = true ∧
    (∀ c v, (pendingTrap 0).cx.stall ≠ .raise c v) ∧ (∃ t, (pendingTrap 0).fetch = .ok (t, .add {} 0 0 (.reg 0))) ∧
    (pendingTrap 0).asyncDue = true ∧ Instr.turnedAway (.add {} 0 0 (.reg 0)) = false ∧
    (pendingTrap 0).cx.issueTrap (.add {} 0 0 (.reg 0)) = none ∧
    (∃ t, (pendingTrap 3).fetch = .ok (t, .illLen 3)) ∧ Instr.turnedAway (.illLen 3) = true :=
  ⟨not_raise rfl, brings_of (by decide +kernel), by decide +kernel, not_raise rfl, by decide +kernel, not_raise rfl,
    brings_of (by decide +kernel), by decide +kernel, by decide +kernel, by decide +kernel, brings_of (by decide +kernel),
    by decide +kernel⟩

/-- Its turn, the device's turn with nothing to do, another context's turn with none ready; an event and a context on the
agenda. -/
theorem test_hyp_StepRunsTheDecodedInstruction_turns :
    runs (code 0xfec10c10) = true ∧
    (let u : State := { code 0 with ticks := 128, cut := none }
     u.turn = .device ∧ (u.hardwareFrom (u.ticks / 128 % 8)).isNone = true) ∧
    (let u : State := { code 0 with ticks := 64, cut := none }
     u.turn = .other ∧ u.nextCtx = none) ∧
    Instr.outside (.lpGo 0 0) = true ∧
    (let t := State.focusOn { code 0 with agenda := [], ticks := 1 } 1
     t.ready t.cx = true) := by decide +kernel

theorem test_hyp_StepKeepsMemoryCanonical : canonical (code 0xfec10c10) ∧ ∃ t, step (code 0xfec10c10) = .next t :=
  ⟨canonical_of (by decide +kernel) rfl (by decide +kernel), next_of (by decide +kernel)⟩

/-- `st` in a VP block whose VP is element `e`, in user or supervisor mode. -/
def vpState (e count : Nat) (status : Word) : State := withC fun c =>
  { c with vp := some ⟨0x104, 0x200, false, [0, e], e, [], count, 0⟩, status := status }

theorem test_hyp_ChecksAndGuardGovernEveryInstruction :
    st.cx.issueTrap (.sst {} 1 16) = some (.illOperand, Instr.tval (.sst {} 1 16)) ∧
    st.cx.issueTrap (.add { form := .s, g := 1 } 1 2 (.reg 3)) = none ∧
    st.cx.skips (Instr.attr (.add { form := .s, g := 1 } 1 2 (.reg 3))) = true ∧
    (vpState 3 0 0).cx.spent = false ∧ (vpState 3 0 0).cx.vpBars (.vadd {} 1 2 3) = true ∧ st.cx.spent = false ∧
    ([.eret, .snap 1, .tlbinvAll, .tlbinvAsid 1, .tlbinvPage 1 2, .tlbinvGpage 1, .tlbinvUser] : List Instr).all
      (fun i => !st.cx.vpBars i) = true ∧ st.cx.sup = false ∧
    st.cx.vpBars (.sst {} 1 16) = false ∧ (Instr.attr (.sst {} 1 16)).sup = false ∧ Instr.classesOk (.sst {} 1 16) = false ∧
    (withC fun c => { c with status := 1 }).cx.sup = true ∧
    (Instr.attr (.vperm { form := .s, oa := { x := 1 } } 1 2 3)).operandsOk = false ∧ straight st.cx := by
  iterate 13 refine ⟨by decide +kernel, ?_⟩
  exact ⟨rfl, rfl, rfl, rfl⟩

/-- `st` with records: a replay is armed by eret with n of them. -/
def withRecs (n : Nat) : State := withC fun c =>
  { c with
    status := 5, inflight := BitVec.ofNat 64 (n * 2 ^ 61 + 0x108), epc := 0x104,
    ifrec := Vector.replicate 4 (BitVec.ofNat 64 (2 ^ 63 + 4 * 2 ^ 45 + 0x24 * 2 ^ 24)) }

theorem test_hyp_TrapEntrySavesAndVectors :
    bitOf st.cx.status 2 = false ∧ bitOf st.cx.tvec 0 = true ∧ st.cx.replay = none ∧ st.assisted 0 = false ∧
    st.cx.vpNow = none ∧ (vpState 3 0 0).cx.vpNow = some 3 ∧ bitOf (vpState 3 0 0).cx.status 2 = false ∧
    ({ st with dev := { st.dev with ha := 1 } } : State).assisted 0 = true ∧ Cause.align ≠ .dataXlate ∧ Cause.align ≠ .fetchXlate := by
  decide +kernel

/-- A launch of one kernel node, live in every tower, whose context 1 is `st`'s. -/
def kern : Node := {
  kind := .kernel, fdom := some 0, tickets := 1, count := 4, placed := 1, code := 0x100, cls := 1,
  caps := { cores := 512, vat := 2048, scr := 65536, cave := 96 } }
def leafy (n : Node) : State := { st with
  cx := { c0 with leaf := some (0, 0) }
  dev := { st.dev with launches := [{ num := 0, st := .live, towers := 255, nodes := [n] }], nextLaunch := 1 } }

theorem test_hyp_FaultsWithoutAHandler :
    (let s := (leafy kern).upd fun c => { c with tvec := 0 }
     bitOf s.cx.tvec 0 = false ∧ s.assisted 0 = false ∧ s.assisted 1 = false ∧ s.cx.leaf = some (0, 0) ∧ s.cx.gang = none ∧
     s.cx.phase = .running ∧ (∀ o ∈ s.others, o.id ≠ s.cx.id) ∧ s.verdict (s.ancestors (0, 0)) = .one ∧
     ((s.node? 0 0).map Node.save).getD 0 = 0 ∧ s.cx.replay = none) ∧
    bitOf (withRecs 0).cx.status 2 = true ∧
    (let s : State := { st with dev := { st.dev with ha := 1 } }
     s.assisted 0 = true ∧ s.dev.evwait = [] ∧ ringFull s.dev = false) ∧
    ringFull { st.dev with evprod := 16 } = true := by decide +kernel

theorem test_hyp_SysBrkAndEret :
    allIssue st [.sys 0, .sys 0xfff, .brk 0, .brk 0xfff] = true ∧ bitOf st.cx.status 2 = false ∧ bitOf st.cx.tvec 0 = true ∧
    st.cx.replay = none ∧ st.trapWaits st.cx = false ∧ behindQueue.trapWaits behindQueue.cx = true ∧
    allIssue behindQueue [.sys 0, .brk 0xfff] = true ∧ shapeLegal (recVtype (withRecs 1).cx.ifrec[0]) = true ∧
    ([0, 1, 4].all fun n => allIssue (withRecs n) [.eret] && decide ((withRecs n).cx.vp = none ∧ (withRecs n).cx.press = none ∧
      fld (withRecs n).cx.inflight 61 3 = n)) = true := by decide +kernel

theorem test_hyp_AsynchronousTrapIsTaken :
    (let s := pendingTrap 0
     s.asyncDue = true ∧ s.cx.pending = [(.machineCheck, 7)] ∧ bitOf s.cx.tvec 0 = true ∧ s.cx.replay = none ∧ s.cx.stall = .none) ∧
    (let s := (pendingTrap 0).upd fun c => { c with stall := .elem 8, vstart := 2 }
     s.asyncDue = true ∧ s.cx.pending = [(.machineCheck, 7)] ∧ s.cx.stall = .elem 8 ∧ s.cx.vpNow = none) ∧ bitOf (withRecs 0).cx.status 2 = true ∧ st.cx.pending = [] := by
  decide +kernel

def failsAny {α : Type} (e : Except (Cause × Word) α) : Bool :=
  match e with
  | .ok _ => false
  | .error _ => true
theorem fails_of {α : Type} {e : Except (Cause × Word) α} (h : failsAny e = true) : ∃ c v, e = .error (c, v) := by
  cases e with
  | ok _ => simp [failsAny] at h
  | error q => exact ⟨q.1, q.2, rfl⟩

theorem test_hyp_RegistersReadAsWritten :
    (1 : Reg) ≠ 0 ∧ (63 : Reg) ≠ 0 ∧ st.cx.vpNow = none ∧
    (vpState 0 0 0).cx.vpNow = some 0 ∧ (vpState 511 0 0).cx.vpNow = some 511 ∧ 511 < vlmax (vpState 511 0 0).cx.fmt.sew ∧
    ((vpState 511 0 0).upd fun c => { c with vtype := 0x25 }).cx.fmt.signed ≠ st.cx.fmt.signed := by decide +kernel

/-- Each instruction with x0, x1 and x63 as its destination, its second source a register or a literal. -/
def srcForms (f : Mods → Reg → Reg → Src → Instr) : List Instr :=
  [f {} 0 2 (.reg 3), f {} 1 1 (.reg 1), f { form := .s } 63 0 (.reg 3), f { form := .l } 1 2 (.lit 0x80000000)]
def immForms {n : Nat} (f : Reg → Reg → BitVec n → Instr) : List Instr :=
  [f 0 2 0, f 1 1 (BitVec.ofNat n (2 ^ (n - 1) - 1)), f 63 2 (BitVec.allOnes n)]
def regForms (f : Mods → Reg → Reg → Reg → Instr) : List Instr := [f {} 0 2 3, f { form := .s } 1 1 1, f {} 63 0 3]
def oneForms (f : Mods → Reg → Reg → Instr) : List Instr := [f {} 0 2, f { form := .s } 1 1]

theorem test_hyp_ScalarOperationsWriteTheirResult :
    allIssue st (srcForms .add ++ srcForms .sub ++ srcForms .and ++ srcForms .or ++ srcForms .xor ++ srcForms .andn ++
      srcForms .shl ++ srcForms .shr ++ srcForms .sra ++ srcForms .rol ++ srcForms .min ++ srcForms .minu ++ srcForms .max ++
      srcForms .maxu) = true ∧
    allIssue st (immForms .addImm ++ immForms .andImm ++ immForms .orImm ++ immForms .xorImm ++ immForms .shlImm ++
      immForms .shrImm ++ immForms .sraImm ++ immForms .rolImm) = true ∧
    allIssue (vpState 511 0 0) (srcForms .add ++ immForms .addImm) = true := by decide +kernel

theorem test_hyp_ProductsCountsAndAddresses :
    allIssue st (regForms .mul ++ regForms .mulh ++ regForms .mulhu ++ regForms .div ++ regForms .divu ++ regForms .rem ++
      regForms .remu ++ oneForms .clz ++ oneForms .ctz ++ oneForms .popc ++
      [.lea {} 1 2 3 0 0, .lea { form := .s } 1 2 3 15 0x80, .sext 1 2 0, .sext 1 2 63, .zext 0 2 0, .zext 1 2 63,
       .li {} 1 (.short 0x200), .li { form := .l } 1 (.long 0x80000000), .lih { form := .l } 1 0xffffffff]) = true ∧
    (0x00820430 : BitVec 32).extractLsb' 0 2 = 0 ∧ (0x00820430 : BitVec 32).extractLsb' 2 8 = 0x0c ∧
    (0x10020434 : BitVec 32).extractLsb' 0 2 = 0 ∧ (0x10020434 : BitVec 32).extractLsb' 2 8 = 0x0d := by decide +kernel

theorem test_hyp_PredicatesWriteTheirBits :
    ([.eq, .ne, .lt, .ltu, .le, .leu] : List Cc).all (fun cc => allIssue st (srcForms fun m d a b => .cmp m d a b cc)) = true ∧
    allIssue st (regForms .pand ++ regForms .por ++ regForms .pxor ++ oneForms .pnot ++ regForms .pget ++ regForms .pset ++
      oneForms .pcount ++ oneForms .pfirst ++ [.sel { form := .s } 1 2 3 0, .sel { form := .s } 1 2 3 63]) = true ∧
    allIssue (vpState 511 0 0) (srcForms (fun m d a b => .cmp m d a b .eq) ++ regForms .pand ++ regForms .pget) = true := by
  decide +kernel

theorem test_hyp_ScalarInstructionsChangeOneRegister :
    ([.add {} 1 2 (.reg 3), .rolImm 0 2 63, .cmp {} 0 2 (.reg 3) .eq, .pnot {} 63 1] : List Instr).all
      (fun i => fetched i && decide (i.enc.op.toNat < 0x20) && decide (issues i st) && decide (issues i (vpState 511 0 0))) = true ∧
    st.cx.vpNow = none ∧ (vpState 511 0 0).cx.vpNow = some 511 := by decide +kernel

/-- `st` with one entry on the mask stack. -/
def masked (m : Pred) : State := withC fun c => { c with mask := [m] }

/-- Tables of jtab at 0x1000: index 3 of 4 is in the table and index 4 is not; page 7 has no entry. -/
theorem test_hyp_ControlGoesWhereTheRulesSay :
    allIssue st [.br { form := .s } 0, .br { form := .l } 0x80000000, .jal { form := .s } 0 1, .jal { form := .l } 63 0x7fffffff,
      .jr {} 1 1, .jr { form := .s } 0 2, .bmz { form := .s } 1, .bmnz { form := .s } 1, .yield, .nop,
      .strip {} 1 2, .snext { form := .s } 1 (-3)] = true ∧
    allIssue (masked 0xfff0) [.bmz { form := .s } 1, .bmnz { form := .s } 1] = true ∧
    (∀ e, e < (masked 0xfff0).cx.vl.toNat → (masked 0xfff0).cx.maskTop.getLsbD e = false) ∧
    3 < (masked 8).cx.vl.toNat ∧ (masked 8).cx.maskTop.getLsbD 3 = true ∧
    allIssue (dx 3 0 0) [.jtab { form := .l } 1 3 0x400, .jtab { form := .l } 1 2 0x400] = true ∧
    3 ≤ (dx 3 0 0).cx.readX 1 ∧ (2 : BitVec 12).toNat + 1 ≤ ((dx 3 0 0).cx.readX 1).toNat ∧
    (∃ t v, loads (dx 3 0 0) .l1 .sector .g ((dx 3 0 0).cx.pc + BitVec.ofInt 64 (4 * (0x400 : BitVec 32).toInt) + 4 * (dx 3 0 0).cx.readX 1) 4 t v) ∧
    (∃ c v, (dx 3 0 0).resolve (dx 3 0 0).cx .g .load (0x7000 + 4 * (dx 3 0 0).cx.readX 1) 4 = .error (c, v)) ∧
    (let sc (s : State) : Nat := s.cx.strip.toNat - min s.cx.vl.toNat s.cx.strip.toNat
     sc (withC fun c => { c with strip := 5 }) = 1 ∧ sc (withC fun c => { c with strip := 4 }) = 0) := by
  iterate 8 refine ⟨by decide +kernel, ?_⟩
  refine ⟨loads_of ?_, fails_of ?_, ?_⟩ <;> decide +kernel

/-- `dm` with a press record at 0x1080 and the words after the press, whose instructions follow at 12 and 16. -/
def pressAt (rec body : Nat) : State :=
  { dx 0x1000 7 0 with mem := ((dx 0 0 0).mem.writeN 0x20080 128 rec).writeN 0x1500c 8 body }
/-- One level of 3 iterations, one stream in x1 with stride 8; and the same with a count of 0. -/
def rec3 : Nat := 3 + 2 ^ 96 + 2 ^ 104 + 2 ^ 128 + 8 * 2 ^ 256
def rec0 : Nat := 2 ^ 96 + 2 ^ 104 + 2 ^ 128 + 8 * 2 ^ 256
def thePress : Instr := .press { form := .l } 1 1 0x80
/-- The record and the body that the press finds. -/
def pressFinds (s : State) (rec : Nat) (body : List (Word × BitVec 96)) : Bool :=
  loadsAnd s .l1 .sector .g 0x1080 128 fun t v => v == rec && t.noClaims && !t.cx.stall.lost && got (t.fill 2 (s.cx.pc + 12)) fun q => q.2.1 == body
theorem press_finds {s : State} {rec : Nat} {body : List (Word × BitVec 96)} (h : pressFinds s rec body = true) :
    ∃ t u after, loads s .l1 .sector .g 0x1080 128 t rec ∧ (t.noClaims = true ∧ t.cx.stall.lost = false) ∧
      t.fill 2 (s.cx.pc + 12) = .ok (u, body, after) := by
  obtain ⟨t, v, h1, h2⟩ := loads_and h
  simp only [Bool.and_eq_true, beq_iff_eq, Bool.not_eq_true'] at h2
  obtain ⟨⟨⟨rfl, hn⟩, hl⟩, h2⟩ := h2
  obtain ⟨⟨u, b, after⟩, h3, h4⟩ := got_ok h2
  obtain rfl : b = body := eq_of_beq h4
  exact ⟨t, u, after, h1, ⟨hn, hl⟩, h3⟩

/-- A nest over `rec3` at iteration `i`. -/
def nestAt (i : Nat) : Nest := ⟨BitVec.ofNat 1024 rec3, [i], [0x1000], [(0x10c, 0)], 0x110, 0, false⟩
def inNest (i : Nat) : State := withC fun c => { c with pc := 0x10c, press := some (nestAt i) }

theorem test_hyp_PressRunsItsNest :
    issues thePress (pressAt rec3 0) ∧ (0x1080 : Word).toNat % 128 = 0 ∧ (pressAt rec3 0).cx.replay = none ∧
    (pressAt rec3 0).cx.vp = none ∧ (pressAt rec3 0).cx.readX 1 + (0x80 : BitVec 32).signExtend 64 = 0x1080 ∧
    (0x1081 : Word).toNat % 128 ≠ 0 := by decide +kernel

/-- A nest that starts, one with a count of 0, a body with an exit at 16, and a record with no level. -/
theorem test_hyp_PressRunsItsNest_finds :
    (∃ t u after, loads (pressAt rec3 0) .l1 .sector .g 0x1080 128 t rec3 ∧ (t.noClaims = true ∧ t.cx.stall.lost = false) ∧
      t.fill 2 ((pressAt rec3 0).cx.pc + 12) = .ok (u, [(12, 0), (16, 0)], after)) ∧
    (∃ t u after, loads (pressAt rec0 0) .l1 .sector .g 0x1080 128 t rec0 ∧ (t.noClaims = true ∧ t.cx.stall.lost = false) ∧
      t.fill 2 ((pressAt rec0 0).cx.pc + 12) = .ok (u, [(12, 0), (16, 0)], after)) ∧
    (∃ t u after, loads (pressAt rec3 0xa000000000) .l1 .sector .g 0x1080 128 t rec3 ∧ (t.noClaims = true ∧ t.cx.stall.lost = false) ∧
      t.fill 2 ((pressAt rec3 0xa000000000).cx.pc + 12) = .ok (u, [(12, 0), (16, 0xa0)], after)) ∧
    (∃ t u after, loads (pressAt 1 0) .l1 .sector .g 0x1080 128 t 1 ∧ (t.noClaims = true ∧ t.cx.stall.lost = false) ∧
      t.fill 2 ((pressAt 1 0).cx.pc + 12) = .ok (u, [(12, 0), (16, 0)], after)) :=
  ⟨press_finds (by decide +kernel), press_finds (by decide +kernel), press_finds (by decide +kernel), press_finds (by decide +kernel)⟩

theorem test_hyp_PressRunsItsNest_records :
    recordOk (BitVec.ofNat 1024 rec3) = true ∧ nestLevels (BitVec.ofNat 1024 rec3) = 1 ∧ nestCount (BitVec.ofNat 1024 rec3) 0 = 3 ∧
    recordOk (BitVec.ofNat 1024 rec0) = true ∧ nestLevels (BitVec.ofNat 1024 rec0) = 1 ∧ nestCount (BitVec.ofNat 1024 rec0) 0 = 0 ∧
    recordOk (BitVec.ofNat 1024 1) = false ∧ bodyBarred 0 = false ∧ bodyBarred 0xa0 = true := by decide +kernel

theorem test_hyp_PressRunsItsNest_iterations :
    2 < nestCount (nestAt 0).image 0 ∧ nextIdx (nestAt 1).image 0 [1] = some [2] ∧ nextIdx (nestAt 2).image 0 [2] = none ∧
    recordOk (nestAt 0).image = true ∧ 0 < nestStreams (nestAt 0).image ∧ st.cx.vpNow = none ∧
    st.cx.nestNow = none ∧ (inNest 2).cx.nestNow = some (nestAt 2) ∧ (nestAt 2).body = [(0x10c, 0)] ∧ (inNest 2).cx.pc = 0x10c ∧
    c0.pc ≠ 0x10c ∧ (nestAt 2).idx.length = nestLevels (nestAt 2).image ∧
    0 < nestLevels (nestAt 2).image ∧ nestLevels (nestAt 2).image ≤ 1 := by decide +kernel

/-- A nest whose loop buffer is full or empty, its body at `va` of `code 0`. -/
def inBody (va : Word) (stale : Bool) : State := (code 0).upd fun c =>
  { c with pc := va, press := some ⟨BitVec.ofNat 1024 rec3, [0], [0x1000], [(va, 0)], va + 4, 0, stale⟩ }

theorem test_hyp_PressRunsItsNest_buffer :
    (inBody 0x10c false).cx.nestNow = some ⟨BitVec.ofNat 1024 rec3, [0], [0x1000], [(0x10c, 0)], 0x110, 0, false⟩ ∧
    ([(0x10c, (0 : BitVec 96))].find? fun b => b.1 == (inBody 0x10c false).cx.pc) = some (0x10c, 0) ∧
    decode 0 0 0 = .ok (.add {} 0 0 (.reg 0)) ∧
    (inBody 0x10c true).cx.nestNow = some ⟨BitVec.ofNat 1024 rec3, [0], [0x1000], [(0x10c, 0)], 0x110, 0, true⟩ ∧
    got ((inBody 0x10c true).refill [0x10c]) (fun q => q.2 == [(0x10c, 0)]) = true ∧
    failsWith ((inBody 0x7000 true).refill [0x7000]) .fetchXlate 0x7000 = true := by
  refine ⟨?_, ?_, of_readsAs (by decide +kernel), ?_, ?_, ?_⟩ <;> decide +kernel

/-- A leaf entry of level 1 at 0x13000 that may migrate, over `code 0`. -/
def migrates (pte : Nat) : State := { code 0 with mem := (code 0).mem.writeN 0x13000 8 pte }
def leafThat (e : Except Cause Leaf) (f : Leaf → Bool) : Bool :=
  match e with
  | .ok l => f l
  | .error _ => false
theorem leaf_that {e : Except Cause Leaf} {f : Leaf → Bool} (h : leafThat e f = true) : ∃ l, e = .ok l ∧ f l = true := by
  cases e with
  | error _ => simp [leafThat] at h
  | ok l => exact ⟨l, rfl, h⟩

/-- `dm` whose TLB, or whose tower's TLB, holds the leaf of page 1 as a load or as a store left it. -/
def heldLeaf (pte : Word) (last : Bool) : State :=
  let x : Xlate := ⟨fld dm.cx.ptbase 48 16, 1, 0, 0x14008, pte⟩
  if last then { dm with tw := { dm.tw with tlb := [x] } } else { dm with co := { dm.co with tlb := [x] } }

theorem test_hyp_TranslationAndPromotion :
    (∃ r, dm.translate (some 0) dm.cx.ptbase dm.cx.sup .load 0x1fff = .ok r ∧ true = true) ∧
    (∃ r, dm.translate (some 0) dm.cx.ptbase dm.cx.sup .store 0x1000 = .ok r ∧ true = true) ∧ dm.mem.wf = true ∧
    dm.caching = false ∧ dm.heldXlate (some 0) (fld dm.cx.ptbase 48 16) .load 0x1fff = none ∧
    fld (0x0100000000000000 : Word) 56 8 ≠ 0 ∧ fld (0x1000 : Word) 56 8 = 0 ∧
    ([false, true].all fun last => let s := heldLeaf 0x80000000020027 last
      match s.heldXlate (some 0) (fld s.cx.ptbase 48 16) .load 0x1000, s.heldXlate (some 0) (fld s.cx.ptbase 48 16) .store 0x1000 with
      | some x, none => decide (pteAllows x.pte .load s.cx.sup = true)
      | _, _ => false) = true ∧
    ([false, true].all fun last => let s := heldLeaf 0xc0000000020027 last
      match s.heldXlate (some 0) (fld s.cx.ptbase 48 16) .store 0x1000 with
      | some x => decide (Acc.writes .store = true ∧ bitOf x.pte 54 = true ∧ pteAllows x.pte .store s.cx.sup = false)
      | none => false) = true ∧
    ([0x100000080f, 0x10000000080f].all fun pte => leafThat (walkFrom (migrates pte) none 0 4 (fld (migrates pte).cx.ptbase 11 37 * 2048))
      fun l => let old := fld l.pte 12 40 * 4096
        decide (l.level = 1 ∧ bitOf l.pte 11 = true ∧ (isHost old = true ∨ (isDram old = true ∧ old / 2 ^ 36 ≠ 0)) ∧
          isDram l.at_ = true ∧ l.at_ + 8 ≤ 0x200000) && (migrates pte).mem.wf &&
        !(migrates pte).inFlightAt (fun p => p.2 / 2 ^ 21 == old / 2 ^ 21) &&
        decide (ringFull (migrates pte).dev = false ∧ (migrates pte).dev.evwait = [])) = true ∧
    isDram (0x200000 : Word).toNat = true ∧ (0x200000 : Word).toNat / 2 ^ 36 = (0 : BitVec 3).toNat ∧
    (0x200000 : Word).toNat % 2 ^ 21 = 0 ∧ fld (0 : Word) 56 8 = 0 := by
  refine ⟨ok_of ?_, ok_of ?_, ?_⟩ <;> decide +kernel

/-- The place of an access, which makes `f` hold. -/
def placedAnd (s : State) (sp : Space) (acc : Acc) (va : Word) (n : Nat) (f : State → Place → Bool) : Bool :=
  got (s.resolve s.cx sp acc va n) fun q => f q.1 q.2
theorem placed_and {s : State} {sp : Space} {acc : Acc} {va : Word} {n : Nat} {f : State → Place → Bool}
    (h : placedAnd s sp acc va n f = true) : ∃ t p, s.resolve s.cx sp acc va n = .ok (t, p) ∧ f t p = true := by
  obtain ⟨⟨t, p⟩, h1, h2⟩ := got_ok h
  exact ⟨t, p, h1, h2⟩

theorem test_hyp_LoadsReadWhatMemoryHolds :
    allIssue (dx 0x1008 0 0) [.ld {} 0 1 .b true .g none 0, .ld { form := .s } 63 1 .d false .c none 0xffffffff,
      .ld { form := .l } 2 1 .q false .s none 8, .ld {} 2 1 .w true .g (some .dev) 0, .ldro {} 2 1 .b false 0,
      .ldro { form := .l } 2 1 .q false 8, .ldtag {} 2 1 .g 0, .ldtag { form := .s } 2 1 .c 1] = true ∧
    ([1, 2, 4, 8, 16].all fun n => canLoad (dx 0 0 0) .g 0x1008 n && canLoad (dx 0 0 0) .s (BitVec.ofNat 64 (4096 - n)) n &&
      canLoad (dx 0 0 0) .c (BitVec.ofNat 64 (25165824 - n)) n) = true ∧
    (∃ t v, loads (dx 0 0 0) .l1 .sector .g 0x1ffe 8 t v) ∧ (∃ t v, loads (dx 0 0 0) .rind .sector .g 0x1ffe 8 t v) ∧
    (∃ c v, (dx 0 0 0).resolve (dx 0 0 0).cx .g .load 0x6ffd 8 = .error (c, v)) ∧
    (∃ c v, (dx 0 0 0).resolve (dx 0 0 0).cx .s .load 0xffd 8 = .error (c, v)) ∧
    (∃ t v, loads (dx 0 0 0) .cave .sector .g 0x1080 128 t v ∧ placedAnd t .g .load 0x1080 1 (fun _ p => match p with
      | .g (l :: _) => isDram l.pa | _ => false) = true) ∧
    (∃ t v, loads (dx 0 0 0) .cave .sector .g 0x2f80 128 t v ∧ placedAnd t .g .load 0x2f80 1 (fun _ p => match p with
      | .g (l :: _) => !isDram l.pa && !isAperture l.pa | _ => false) = true) ∧
    (∃ t v, loads (dx 0 0 0) .cave .sector .c 0x80 128 t v ∧ placedAnd t .c .load 0x80 1 (fun _ p => match p with
      | .c _ => true | _ => false) = true) := by
  refine ⟨?_, ?_, loads_of ?_, loads_of ?_, fails_of ?_, fails_of ?_, loads_and ?_, loads_and ?_, loads_and ?_⟩ <;> decide +kernel

/-- `st` whose L1 holds word 8 and whose rind buffers hold word 8 of address space 0. -/
def keeping : State := { st with
  co := { st.co with l1 := [(8, 0x11223344)] }
  dev := { st.dev with rind := [⟨0, 0, 8, 0x55, 0⟩], peerLines := [⟨2 ^ 41, 7, 1⟩] } }

theorem test_hyp_LoadsReadWhatMemoryHolds_caches :
    let l : Loc := ⟨32, 32, false⟩
    isPeer l.pos = false ∧ (st.core c0.coreid).l1.word? (l.pos / 4) = none ∧ st.rindWord (clusterOf c0.coreid) c0.asid (l.pos / 4) = none ∧
    isPeer (2 ^ 48) = true ∧ (keeping.peerCopy 0 (lineOf (2 ^ 48))).isSome = true ∧ keeping.peerCopy 1 (lineOf (2 ^ 48)) = none ∧
    (keeping.core c0.coreid).l1.word? (l.pos / 4) = some 0x11223344 ∧ l.uc = false ∧ (⟨32, 32, true⟩ : Loc).uc = true ∧
    keeping.rindWord (clusterOf c0.coreid) c0.asid (l.pos / 4) = some 0x55 ∧ (keeping.core keeping.cx.coreid).l1 ≠ [] ∧
    Scope.sys ≠ .cor ∧ Scope.dev ≠ .sys ∧ (1 : BitVec 12) ≠ keeping.cx.coreid := by decide +kernel

/-- Handle 0 holds group 0 of a folio: row 1 of layer 0 of column 0 of tower 0. -/
def heldRow : Handle := { bound := true, entry := BitVec.ofNat 512 (2 ^ 48 + 2 ^ 49 + 2 ^ 56 + 0x10001 * 2 ^ 128), group := .held 0 }
def withHandle (c : Ctx) (h : Handle) : Ctx := { c with h := c.h.set 0 h }
/-- `dm` whose context holds the row of page 5, and `dm` on core 1, with a context of core 0 that holds it. -/
def selfRow : State := dm.upd fun c => withHandle c heldRow
def otherRow : State := { dm with cx := { dm.cx with coreid := 1 }, others := [withHandle { c0 with id := 2 } heldRow] }

theorem test_hyp_StoresWriteTheirBytes :
    allIssue (dx 0x1008 0 0) [.st {} 0 1 .b .g none 0, .st { form := .s } 63 1 .d .c none 0xffffffff,
      .st { form := .l } 2 1 .q .s none 8, .st {} 2 1 .w .g (some .dev) 0] = true ∧
    released (dx 0 0 0) ∧ canonical (dx 0 0 0) ∧
    ([1, 2, 4, 8, 16].all fun n => canStore (dx 0 0 0) .g 0x1008 n && canStore (dx 0 0 0) .s (BitVec.ofNat 64 (4096 - n)) n &&
      canStore (dx 0 0 0) .c (BitVec.ofNat 64 (25165824 - n)) n) = true ∧
    (∃ t p, canonical t ∧ stores (dx 0 0 0) {} .g 0x1ffe 8 t p) ∧
    (∃ t p, otherRow.resolve otherRow.cx .g .store 0x5000 8 = .ok (t, p) ∧ (!p.inReg && !otherRow.poisoned p &&
      !t.blocked t.cx p 8 && RowMeet.isWait (t.rowMeets (some t.cx) p)) = true) ∧
    (∃ t p, selfRow.resolve selfRow.cx .g .store 0x5000 8 = .ok (t, p) ∧ (!p.inReg && !selfRow.poisoned p &&
      !t.blocked t.cx p 8 && RowMeet.isSelf (t.rowMeets (some t.cx) p)) = true) ∧
    (∃ c v, (dx 0 0 0).resolve (dx 0 0 0).cx .g .store 0x5ffd 8 = .error (c, v)) := by
  refine ⟨?_, ⟨?_, rfl⟩, dx_canonical 0 0 0, ?_, stores_of (dx_canonical 0 0 0) ?_, placed_and ?_, placed_and ?_, fails_of ?_⟩ <;>
    decide +kernel

/-- `dm` whose instruction waits for the host's answer, or has it. -/
def waitsHost (q : HostReq) : State := dm.upd fun c => { c with stall := .host, hostReq := some q }
def answered (ok : Bool) : State := dm.upd fun c => { c with stall := .hostDone ok 7 }

theorem test_hyp_AtomicsReadAndReplace :
    allIssue (dx 0x1008 0 0) ([.add, .and, .or, .xor, .min, .max, .minu, .maxu, .xchg, .fadd].flatMap fun op =>
      [.atom { form := .s } 1 1 3 0 op false .none .dev .g 0, .atom { form := .l } 0 1 3 63 op true .ar .sys .c 0x7fffff]) = true ∧
    allIssue (dx 0x1008 0 0) [.cas { form := .s } 1 1 3 0 .w .none .dev .g 0, .cas { form := .s } 0 1 2 4 .q .rel .dev .s 0xffffff] = true ∧
    ([4, 8, 16].all fun n => canPerform (dx 0 0 0) .g 0x1010 n && canPerform (dx 0 0 0) .g 0x2ff0 n &&
      canPerform (dx 0 0 0) .s 0xff0 n && canPerform (dx 0 0 0) .c 0x10 n) = true ∧
    (∃ t p, canonical t ∧ performs (dx 0 0 0) .g 0x1ff0 16 t p) ∧ released (dx 0 0 0) ∧
    (0x100c : Word).toNat % 8 ≠ 0 ∧ (dx 0 0 0).cx.stall = .none ∧
    (∃ t p, (dx 0 0 0).resolve (dx 0 0 0).cx .g .atomic 0x4000 8 = .ok (t, p) ∧ (p.target == .regs) = true) ∧
    (∃ t p, (dx 0 0 0).resolve (dx 0 0 0).cx .g .atomic 0x3008 8 = .ok (t, p) ∧ (p.target == .hostUc && !(dx 0 0 0).poisoned p &&
      !(dx 0 0 0).peerFails p && !(dx 0 0 0).blocked (dx 0 0 0).cx p 8 &&
      RowMeet.isFree ((dx 0 0 0).rowMeets (some (dx 0 0 0).cx) p)) = true) ∧
    (∀ o ∈ ([.fetchAdd 1, .swap 2, .cas 0 3] : List HostOp), let s := waitsHost ⟨0x100000000010, 16, o⟩
     s.ctx? 1 = some s.cx ∧ s.cx.stall = .host ∧ s.cx.hostReq = some ⟨0x100000000010, 16, o⟩ ∧ s.mem.wf = true) ∧
    (∀ ok ∈ [true, false], issues (.atom { form := .s } 1 1 3 0 .add true .none .dev .g 0) (answered ok) ∧
      issues (.cas { form := .s } 0 1 2 4 .q .rel .dev .g 0) (answered ok) ∧ (answered ok).cx.stall = .hostDone ok 7) := by
  refine ⟨?_, ?_, ?_, performs_of (dx_canonical 0 0 0) ?_, ⟨?_, rfl⟩, ?_, ?_, placed_and ?_, placed_and ?_, ?_, ?_⟩ <;>
    decide +kernel

theorem test_hyp_BarriersWalkersAndCaves :
    (let s := st.upd fun c => { c with status := 1, x := xs 0x10000 0xffff 0 }
     allIssue s [.fence 0x3f .dev, .fence 1 .cor, .drain, .mwait, .tlbinvAll, .tlbinvAsid 1, .tlbinvAsid 2, .tlbinvPage 1 2,
       .tlbinvPage 2 1, .tlbinvGpage 1, .tlbinvUser] = true ∧ s.flushesOut s.cx = false ∧ s.cx.commandsOut = false ∧
     s.nodesRunning s.cx = false ∧ released s ∧ drainedNow s ∧ s.queued s.cx = false ∧
     fld (s.cx.readX 1) 16 48 ≠ 0 ∧ fld (s.cx.readX 2) 16 48 = 0) ∧
    (let s : State := { st with pend := [.store (some 1) 0 [] [] none false] }
     issues .drain s ∧ s.drained s.cx = false) ∧
    (let s := dx 0x1ff0 0x20 0
     allIssue s [.flush {} false 1 2, .flush {} true 1 2, .inval {} false 1 2, .inval {} true 1 0, .seal {} 1 2] = true ∧
     s.cx.stall = .none ∧
     got (State.rangeWalk true 2 0x1ff0 0x20 s) (fun _ => true) = true ∧ got (State.rangeWalk false 2 0x1ff0 0x20 s) (fun _ => true) = true) ∧
    (let s : State := { dx 0x1ff0 0x20 0 with poison := [0x20ff0 / 128] }
     allIssue s [.flush {} true 1 2] = true ∧ got (State.rangeWalk true 2 0x1ff0 0x20 s) (fun _ => true) = false) ∧
    (let s : State := { dx 0x1ff0 0x20 0 with co := { st.co with queue := [.mflush 1 .i32 0 .g [] false] } }
     allIssue s [.mwait] = true ∧ s.flushesOut s.cx = true) ∧
    ((0x10000000001 : Word).toNat = 2 ^ 40 + 1 ∧ 2 ^ 56 < (0xffffffffffffff : Word).toNat + 2) ∧
    (let s := dm.upd fun c => { c with stall := .walk 0 }
     s.cx.stall = .walk 0 ∧ s.walksOut s.cx.id = false ∧ allIssue s [.flush {} true 1 2, .inval {} true 1 2, .seal {} 1 2] = true) ∧
    (let s : State := { sx 12 3 0 with others := [{ c0 with id := 2, cavepart := 10 }] }
     allIssue s [.cavecfg 1 1, .cavecfg 1 2, .cavewb 1 1, .cavewb 1 2] = true ∧ s.cx.readX 1 ∈ ([0, 2, 4, 8, 12] : List Word) ∧
     s.cx.readX 2 ∉ ([0, 2, 4, 8, 12] : List Word) ∧ s.cx.cavepart < 12 ∧ s.caveRefuses s.cx.cavepart 12 = true) ∧
    (let s := sx 12 0 0
     issues (.cavecfg 1 1) s ∧ s.caveRefuses s.cx.cavepart 12 = false ∧ s.caveBusy s.cx = false ∧ issues (.cavecfg 1 0) s) := by
  constructor
  · iterate 4 refine ⟨by decide +kernel, ?_⟩
    refine ⟨⟨?_, rfl⟩, ⟨?_, rfl⟩, ?_⟩ <;> decide +kernel
  · decide +kernel

/-- `sx` in quire 0: one brick at v0, with a policy on the face of +x, its memory at 0x1000. -/
def inQuire (policy : Nat) : State := dm.upd fun c => { c with
  qdesc := c.qdesc.set 0 (BitVec.ofNat 64 (2 ^ 32 + policy * 2 ^ 15)), qbase := c.qbase.set 0 0x1000, vhalo := 7 }

theorem test_hyp_VectorConfigurationIsSet :
    allIssue st [.vtype { form := .s } 1 0x24, .vtype { form := .s } 63 0x1ff6, .vlset {} 1 2, .sscaleFromBrick {} 7 63,
      .sscaleToBrick {} 63 7] = true ∧
    (let cap (img : BitVec 24) : Nat := 2 ^ fld (img.setWidth 64) 4 3 * 2 ^ fld (img.setWidth 64) 7 3 * 2 ^ fld (img.setWidth 64) 10 3 *
       (Fmt.ofCode (img.extractLsb' 0 4)).sew
     cap 0x01e4 = 16384 ∧ 16384 < cap 0x0264) ∧
    ((0x00010504 : BitVec 32).extractLsb' 2 8 = 0x41 ∧ (0x00010504 : BitVec 32).extractLsb' 0 2 = 0 ∧
      (0x10010504 : BitVec 32).extractLsb' 28 4 ≠ 0 ∧ (0x00010506 : BitVec 32).extractLsb' 0 2 = 2) ∧
    (let s := sx 0x100000000 0x200000000 0x8000000000000000
     allIssue s [.quire {} 0 1 2 0, .quire { form := .s } 3 1 2 3] = true ∧ s.cx.qdescTrap 0 (s.cx.readX 1) = none ∧
     fld (s.cx.readX 1) 33 31 = 0 ∧ fld (s.cx.readX 2) 33 31 ≠ 0 ∧ bitOf (s.cx.readX 0) 63 = false ∧
     s.cx.qdescTrap 0 0x10000003f = none ∧ s.cx.qdescTrap 0 0x10000007f ≠ none) ∧
    (allIssue (dx 0x1080 0 0) [.sscaleLoad {} 7 1 .g 0, .sscaleStore {} 7 1 .g 0xff] = true ∧
      (∃ t v, loads (dx 0 0 0) .l1 .sector .g 0x1080 128 t v) ∧ (∃ t p, canonical t ∧ stores (dx 0 0 0) {} .g 0x1000 128 t p) ∧
      (0x1081 : Word).toNat % 128 ≠ 0) := by
  refine ⟨?_, ?_, ?_, ?_, ?_, loads_of ?_, stores_of (dx_canonical 0 0 0) ?_, ?_⟩ <;> decide +kernel

/-- Bricks of four elements: element 3 at x + 1 leaves at +x, element 0 at y − 1 at −y and at z − 1 at −z. -/
theorem test_hyp_OffsetReadsFollowTheQuire :
    ({ x := 1 } : Off) ≠ {} ∧ ({ z := -4 } : Off) ≠ {} ∧ st.cx.quireOf 0 = none ∧ 2 ^ fld st.cx.vtype 4 3 = 4 ∧
    ([0, 1, 2, 3, 4, 5].all fun p => decide ((inQuire p).cx.quireOf 0 = some 0 ∧ fld (inQuire p).cx.qdesc[0] 15 3 = p)) = true ∧
    (inQuire 3).cx.fmt.sew = 32 ∧ (0x1010 : Word).toNat % (32 / 8) = 0 ∧
    (∃ t v, loads (inQuire 3) .l1 .sector .g 0x1010 4 t v) ∧
    (let s := (inQuire 5).upd fun c => { c with harm := true, vstart := 0x8000000000000000 }
     s.cx.harm = true ∧ bitOf s.cx.vstart 63 = true) ∧ (inQuire 5).cx.harm = false := by
  refine ⟨?_, ?_, ?_, ?_, ?_, ?_, ?_, loads_of ?_, ?_, ?_⟩ <;> decide +kernel

/-- Every element-wise form of a shape on two sources. -/
def laneForms (f : Mods → Reg → Reg → Reg → Instr) : List Instr := [f {} 1 2 3, f { form := .s } 63 0 0]
def f32s : State := withC fun c => { c with vtype := 0x2c }

theorem test_hyp_VectorIntegerLanes :
    (let l := laneForms .vadd ++ laneForms .vsub ++ laneForms .vand ++ laneForms .vor ++ laneForms .vxor ++ laneForms .vshl ++
       laneForms .vshr ++ laneForms .vsra ++ laneForms .vmin ++ laneForms .vmax ++ laneForms .vmul ++ laneForms .vmulh ++
       laneForms .vsadd ++ laneForms .vssub ++ [.vdot { form := .s } 1 2 3 .i8, .vsel { form := .s } 1 2 3 63, .vbcast {} 1 (.reg 2),
         .vbcast { form := .l } 1 (.lit 0x80000000), .vid { form := .s } 1 .e, .vid { form := .s } 1 .z]
     allIssue st l = true ∧ allIssue f32s l = true) ∧
    ([.eq, .ne, .lt, .le, .gt, .ge].all fun cc => decide (issues (.vcmp { form := .s } 1 2 3 cc) st)) = true ∧
    st.cx.fmt.isInt = true ∧ f32s.cx.fmt.isInt = false ∧ (16 ≤ st.cx.fmt.sew ∧ Fmt.i8.sew < st.cx.fmt.sew ∧ st.cx.fmt.sew ≤ Fmt.i32.sew) ∧
    st.cx.offsetClash 1 [(2, {}), (3, {})] = false ∧ (inQuire 0).cx.offsetClash 0 [(0, { x := 1 })] = true ∧
    (∃ x, reads st (.vadd {} 1 2 3) {} 0 2 {} x) ∧ (∃ y, reads st (.vadd {} 1 2 3) {} 1 3 {} y) := by
  refine ⟨?_, ?_, ?_, ?_, ?_, ?_, ?_, ⟨_, reads_plain _ _ _ _ _⟩, ⟨_, reads_plain _ _ _ _ _⟩⟩ <;> decide +kernel

/-- vadd stands still before element 2 of 4. -/
theorem test_hyp_VectorIntegerLanes_cut :
    issues (.vadd {} 1 2 3) st ∧ st.cx.fmt.isInt = true ∧ (∃ e ∈ st.cx.elems {}, 2 ≤ e) ∧
    (∃ t, exec (.vadd {} 1 2 3) { st with cut := some 2 } = .next t) := by
  refine ⟨?_, ?_, ?_, next_of ?_⟩ <;> decide +kernel

def maskDepth (n : Nat) : State := withC fun c => { c with mask := List.replicate n 5 }

theorem test_hyp_MaskStackPushesAndPops :
    ([0, 1, 15, 16].all fun n => allIssue (maskDepth n) [.mpush {} 0, .mpush {} 63, .mpop {}, .minv {}, .mtop {} 0, .mtop {} 63] &&
      decide ((maskDepth n).cx.mask.length = n)) = true ∧ (maskDepth 1).cx.mask = [5] ∧ (maskDepth 0).cx.mask = [] := by
  decide +kernel

/-- The vend at 8, and words that are none. -/
def vendAt : State := { dx 0 0 0 with mem := (dx 0 0 0).mem.writeN 0x15008 4 0x154 }

theorem test_hyp_VpBlocksRunEachElement :
    allIssue vendAt [.vfetch { form := .s } 2, .vfetchOrd { form := .s } 2, .vfetch { form := .l } 0, .vend] = true ∧
    (∃ t, vendAt.fetchWord (vendAt.cx.pc + BitVec.ofInt 64 (4 * (2 : BitVec 32).toInt)) = .ok (t, 0x154)) ∧
    (∃ t, vendAt.fetchWord 4 = .ok (t, 0)) ∧
    vendAt.cx.elems {} = [0, 1, 2, 3] ∧ (vendAt.upd fun c => { c with vl := 0 }).cx.elems {} = [] ∧ vendAt.cx.vp = none ∧
    (let s := (vpState 3 0 0).upd fun c => { c with pc := 0x200 }
     issues .vend s ∧ s.cx.vp = some ⟨0x104, 0x200, false, [0, 3], 3, [], 0, 0⟩ ∧ s.cx.harm = false) ∧
    (let s := withC fun c => { c with pc := 0x200, vp := some ⟨0x104, 0x200, false, [0, 3], 0, [3], 0, 0⟩ }
     issues .vend s ∧ s.cx.vp = some ⟨0x104, 0x200, false, [0, 3], 0, [3], 0, 0⟩ ∧ s.cx.harm = false) := by
  refine ⟨?_, fetches_of ?_, fetches_of ?_, ?_, ?_, ?_, ?_, ?_⟩ <;> decide +kernel

/-- Every one of the results is a number. -/
theorem numerics_of {f : Nat → Run Val} {l : List Nat} (h : (l.all fun e => got (f e) fun _ => true) = true) :
    ∃ X : Nat → Val, ∀ e ∈ l, f e = .ok (X e) := by
  refine ⟨fun e => match f e with
    | .ok v => v | .error _ => .nar, fun e he => ?_⟩
  obtain ⟨v, hv, -⟩ := got_ok (List.all_eq_true.mp h e he)
  simp only [hv]

def fmtState (code : Word) : State := withC fun c => { c with vtype := 0x20 + code }

theorem test_hyp_VectorFloatLanes :
    ([.rne, .rup, .rdn, .rtz, .dyn].all fun rm => allIssue f32s (laneForms (fun m d a b => .vfadd m d a b rm) ++
      laneForms (fun m d a b => .vfsub m d a b rm) ++ laneForms (fun m d a b => .vfmul m d a b rm) ++
      laneForms (fun m d a b => .vfdiv m d a b rm) ++ [.vfma { form := .s } 1 2 3 4 rm, .vfnma { form := .s } 1 2 3 1 rm,
        .vfsqrt {} 1 2 rm])) = true ∧
    allIssue f32s (laneForms .vfmin ++ laneForms .vfmax) = true ∧ allIssue st (laneForms .vfmin) = true ∧
    ([.cp, .neg, .xor].all fun v => decide (issues (.vfsgn { form := .s } 1 2 3 v) f32s)) = true ∧
    ([.eq, .ne, .lt, .le, .gt, .ge, .un, .or].all fun cc => decide (issues (.vfcmp { form := .s } 1 2 3 cc) f32s)) = true ∧
    ([.rne, .dyn].all fun rm => allIssue st [.vfma { form := .s } 1 2 3 4 rm, .vfnma { form := .s } 1 2 3 1 rm, .vfsqrt {} 1 2 rm,
      .vfsgn { form := .s } 1 2 3 .cp, .vfcmp { form := .s } 1 2 3 .lt]) = true ∧
    (let s := (inQuire 0).upd fun c => { c with vtype := 0x2c }
     s.cx.fmt.isInt = false ∧ issues (.vfsqrt { form := .s, oa := { x := 1 } } 0 0 .rne) s ∧
       s.cx.offsetClash 0 [(0, { x := 1 })] = true) ∧
    f32s.cx.fmt.isInt = false ∧ st.cx.fmt.isInt = true ∧ f32s.cx.offsetClash 1 [(2, {}), (3, {}), (4, {})] = false ∧
    (∃ x y X Y, reads f32s (.vfadd {} 1 2 3 .rne) {} 0 2 {} x ∧ reads f32s (.vfadd {} 1 2 3 .rne) {} 1 3 {} y ∧
      values f32s {} 0 x true X ∧ values f32s {} 1 y true Y) ∧
    (∃ z Z, reads f32s (.vfma {} 1 2 3 4 .rne) {} 2 4 {} z ∧ values f32s {} 2 z false Z) ∧
    (⟨1, 2⟩ : Frac).den ≠ 0 := by
  iterate 10 refine ⟨by decide +kernel, ?_⟩
  refine ⟨?_, ?_, by decide⟩
  · obtain ⟨X, hX⟩ := values_of (s := f32s) (m := {}) (k := 0) (x := fun e => f32s.cx.el 2 e) (scaled := true) (by decide +kernel)
    obtain ⟨Y, hY⟩ := values_of (s := f32s) (m := {}) (k := 1) (x := fun e => f32s.cx.el 3 e) (scaled := true) (by decide +kernel)
    exact ⟨_, _, X, Y, reads_plain _ _ _ _ _, reads_plain _ _ _ _ _, hX, hY⟩
  · obtain ⟨Z, hZ⟩ := values_of (s := f32s) (m := {}) (k := 2) (x := fun e => f32s.cx.el 4 e) (scaled := false) (by decide +kernel)
    exact ⟨_, Z, reads_plain _ _ _ _ _, hZ⟩

theorem test_hyp_ExactValuesBehindRounding :
    ([(Fmt.f16, 0x7c00), (.f16, 0x8000), (.bf16, 0x7f7f), (.f32, 0xff800000), (.f32, 1), (.f64, 0x8000000000000000), (.m8, 0x7f),
      (.m4, 7)].all fun q => decide (q.1.isInt = false ∧ q.2 < 2 ^ q.1.sew ∧ (fmtVal q.1 q.2).isNan = false ∧
        fmtVal q.1 q.2 ≠ .nar)) = true ∧ (⟨0, 1⟩ : Frac).den ≠ 0 ∧ (⟨0, 1⟩ : Frac).num = 0 ∧ (⟨1, 2⟩ : Frac).num ≠ 0 := by
  decide +kernel

theorem test_hyp_ConversionsAndSpecialFunctions :
    (allIssue f32s [.vcvt { form := .s } 1 2 .f64 .rne, .vcvt { form := .s } 1 1 .f32 .rne, .vcvt { form := .s } 1 63 .f64 .rne] = true ∧
      (∃ X : Nat → Val, ∀ e ∈ f32s.cx.elems {}, f32s.numeric 0 .f64 (elemAt (f32s.cx.v.toList.getD (2 + e * 64 / 16384) 0) 64 (e % vlmax 64)) e
        (f32s.cx.scaleOf 0) = .ok (X e)) ∧ (∀ e ∈ f32s.cx.elems {}, e < f32s.cx.cap)) ∧
    (let s := withC fun c => { c with vtype := 0x1ec }
     s.cx.cap = 512 ∧ 64 < (63 : Reg).toNat + ((s.cx.cap - 1) * 64 / 16384 + 1) ∧ issues (.vcvt { form := .s } 1 63 .f64 .rne) s) ∧
    (issues (.vpack { form := .s } 1 2 3 .rne) (fmtState 0xa) ∧ (packPartner (fmtState 0xa).cx.fmt).isSome = true ∧
      ((fmtState 0xa).cx.elems {}).length = 4 ∧ (fmtState 0xa).cx.cap / 2 = 2) ∧
    (issues (.vunpack { form := .s } 1 2 true true .rne) f32s ∧ unpackPartner true f32s.cx.fmt = some .bf16 ∧
      issues (.vunpack { form := .s } 1 2 false false .rne) f32s ∧ (unpackPartner false f32s.cx.fmt).isSome = true) ∧
    (let l := oneForms .vexp2 ++ oneForms .vlog2 ++ oneForms .vrcp ++ oneForms .vrsqrt ++ oneForms .vsinpi ++ oneForms .vcospi ++
       oneForms .vtanh ++ oneForms .vsigm
     allIssue f32s l = true ∧ allIssue (fmtState 0xb) l = true ∧ allIssue (fmtState 0xd) l = true ∧ (fmtState 0xb).cx.fmt = .bf16 ∧
     (fmtState 0xd).cx.fmt = .f64) ∧
    allIssue f32s [.vrand { form := .s } 1 2 3 0, .vrand { form := .l } 1 2 3 0x80000000, .vrandU { form := .s } 1 2 3 0] = true := by
  refine ⟨⟨?_, numerics_of ?_, ?_⟩, ?_, ?_, ?_, ?_, ?_⟩ <;> decide +kernel

/-- `dm` with one active element, x1 = a, x2 = b, in a kernel whose links name watermark 3. -/
def one (a b : Word) : State :=
  { dx a b 0 with
    cx := { (dx a b 0).cx with vl := 1, leaf := some (0, 0) }
    dev := { dm.dev with
      launches := [{ num := 0, st := .live, nodes := [{ kern with aux := 0x8383 }] }]
      wms := dm.dev.wms.set 3 { base := 0x1000, esize := 4, bound := 8, w := 1, init := true, holder := some 0 } } }
theorem one_canonical (a b : Word) : canonical (one a b) := by
  obtain ⟨⟨h1, h2⟩, h3, h4⟩ := dm_canonical
  refine ⟨⟨h1, fun q hq => ?_⟩, h3, fun q hq => ?_⟩
  · have h := h2 dm.cx (.head _)
    simp only [State.ctxs, List.mem_cons] at hq
    rcases hq with rfl | hq
    · exact h
    · exact h2 q (.tail _ hq)
  · have h := h4 dm.cx (.head _)
    simp only [State.ctxs, List.mem_cons] at hq
    rcases hq with rfl | hq
    · exact h
    · exact h4 q (.tail _ hq)

theorem test_hyp_VectorLoadsFillEachElement :
    (one 0x1000 0x8000000000000000).cx.elems {} = [0] ∧ vsizeBits .w = (one 0 0).cx.fmt.sew ∧ vsizeBits .b ≠ (one 0 0).cx.fmt.sew ∧
    allIssue (one 0x1000 0) [.vld {} 2 1 .w .g none 0, .vld { form := .s } 2 1 .b .c none 0xff, .vld { form := .s } 2 1 .w .g (some 3) 0,
      .vldro {} 2 1 .w 0, .vlds { form := .s } 2 1 2 .w .g 0, .vldx { form := .s } 2 1 3 .w .g false 2] = true ∧
    (let s := one 0x1000 0
     let at_ := contiguousAddr s {} 1 0
     (∃ t, along (fun u e w => loadsElem .l1 (chunkOf s {} at_ u e) .g at_ 2 u e w) [0] s t) ∧
     (∃ t, along (fun u e w => loadsElem .l1 (chunkOf s {} at_ u e) .c at_ 2 u e w) [0] s t) ∧
     (∃ t, along (fun u e w => loadsElem .rind (chunkOf s {} at_ u e) .g at_ 2 u e w) [0] s t) ∧
     (∃ t, along (fun u e w => loadsElem .l1 .sector .g (stridedAddr s {} 1 2 0) 2 u e w) [0] s t) ∧
     (∃ t, along (fun u e w => loadsElem .l1 .sector .g (indexedAddr s 1 3 false 2) 2 u e w) [0] s t) ∧
     ∃ t, along (fun u e w => loadsElem .cave (chunkOf s {} at_ u e) .g at_ 2 (u.acquire .dev) e w) [0] s t) ∧
    ((one 0 0).wmAllowed 3 false = true ∧ (one 0 0).wmAllowed 4 false = false ∧ ((one 0 0).wm 3).waits 0x1000 = false ∧
      ((one 0 0).wm 3).indexed 0x1000 = true ∧ ((one 0 0).wm 3).indexed 0x2000 = false ∧ ((one 0 0).wm 3).waits 0x2000 = false) ∧
    bitOf ((one 0x1000 0).cx.readX 2) 63 = false ∧ bitOf ((one 0x1000 0x8000000000000000).cx.readX 2) 63 = true ∧
    (63 : Reg).toNat + (((one 0 0).cx.cap - 1) * 32 / 16384 + 1) ≤ 64 ∧ (2 : Reg).toNat < (3 : Reg).toNat := by
  iterate 4 refine ⟨by decide +kernel, ?_⟩
  refine ⟨?loads, ?rest⟩
  case loads =>
    have plain {path : Path} {sp : Space} {J : State → Nat → Joint} {addr : Nat → Word}
        (h : ((one 0x1000 0).cx.fmt.sew = 4 ∨ (addr 0).toNat % ((one 0x1000 0).cx.fmt.sew / 8) = 0) ∧
          canLoad (one 0x1000 0) sp (addr 0) (max 1 ((one 0x1000 0).cx.fmt.sew / 8)) (J (one 0x1000 0) 0) = true) :
        ∃ t, along (fun u e w => loadsElem path (J u e) sp addr 2 u e w) [0] (one 0x1000 0) t :=
      along_load (g := id) h.1 (by decide +kernel) h.2
    refine ⟨plain ?_, plain ?_, plain ?_, plain (J := fun _ _ => .sector) ?_, plain (J := fun _ _ => .sector) ?_,
      along_load (g := fun u => u.acquire .dev) (J := fun u e => chunkOf (one 0x1000 0) {} _ u e) ?_ ?_ ?_⟩ <;> decide +kernel
  case rest => decide +kernel

/-- `one` over a page whose entry has both ACC and DRT, in a format. -/
def sc (f a : Word) : State := (paged [0xc000000002002f]).upd fun c => { c with vl := 1, x := xs a 0 0, vtype := f }

theorem test_hyp_VectorStoresWriteEachElement :
    (∃ t, along (storesElem (one 0x1000 0).cx.stores true true .g (contiguousAddr (one 0x1000 0) {} 1 0) 2) [0] (one 0x1000 0) t) ∧
    (∃ t, along (storesElem (one 0xffc 0).cx.stores true false .s (stridedAddr (one 0xffc 0) {} 1 2 0) 2) [0] (one 0xffc 0) t) ∧
    (∃ t, along (storesElem (one 0x1000 0).cx.stores false false .c (indexedAddr (one 0x1000 0) 1 3 true 2) 2) [0] (one 0x1000 0) t) ∧
    allIssue (one 0x1000 0) [.vst {} 2 1 .w .g 0, .vstu { form := .s } 2 1 .b .c 0xff, .vsts { form := .s } 2 1 2 .w .s 0,
      .vstx { form := .s } 2 1 3 .w .g true 2] = true ∧ bitOf ((one 0x1000 0).cx.readX 2) 63 = false ∧
    vsizeBits .w = (one 0 0).cx.fmt.sew ∧ vsizeBits .b ≠ (one 0 0).cx.fmt.sew ∧ canonical (one 0x1000 0) ∧
    ([0x24, 0x25, 0x26, 0x27, 0x2a, 0x2b, 0x2c, 0x2d].all fun f => decide (issues (.vscadd { form := .s } 2 1 3 .rne .g false 2) (sc f 0x1000) ∧
      (3 : Reg).toNat + (((sc f 0x1000).cx.cap - 1) * 32 / 16384 + 1) ≤ 64 ∧ (sc f 0x1000).cx.elems {} = [0]) &&
      got ((sc f 0x1000).scaddPlace .g (indexedAddr (sc f 0x1000) 1 3 false 2 0) ((sc f 0x1000).cx.fmt.sew / 8)) (fun q => decide (q.2 = sc f 0x1000))) = true ∧
    (sc 0x20 0).cx.fmt = .i8 ∧ (sc 0x24 0).cx.fmt.isInt = true ∧ Rm.rtz ≠ .rne := by
  refine ⟨along_store (one_canonical _ _) ?_ ?_, along_store (one_canonical _ _) ?_ ?_, along_store (one_canonical _ _) ?_ ?_,
    ?_, ?_, ?_, ?_, one_canonical _ _, ?_, ?_, ?_, ?_⟩ <;> decide +kernel

/-- A write of vector store 0 of context 1 that waits, and an earlier one of the context on the same bytes. -/
def waiting4 (k : Nat) : Pend := .store (some 1) 0x1000 ((List.range 4).map fun j => (0x20000 + j, 0x20000 + j)) (whole 4 k) (some 0) true

theorem test_hyp_VectorStoresWriteEachElement_order :
    (let s : State := { dm with pend := [waiting4 1] }
     let ls : List Loc := (List.range 4).map fun j => ⟨0x20100 + j, 0x20100 + j, false⟩
     (waiting4 1) ∈ s.pend ∧ (waiting4 1).part = some (s.cx.id, 0) ∧
     s.writeBlocked { num := some 0, ordered := true, chunk := true } (.g ls) 4 = false ∧ s.writeBlocked { num := some 0, ordered := true } (.g ls) 4 = false ∧
     RowMeet.isFree (s.rowMeets (some s.cx) (.g ls)) = true) ∧
    (let s : State := { dm with pend := [waiting4 1, waiting4 2] }
     s.pend[0]? = some (waiting4 1) ∧ s.pend[1]? = some (waiting4 2) ∧ (waiting4 1).leads (waiting4 2) = true) ∧
    (waiting4 2).ordered = true ∧ (waiting4 2).part ≠ none ∧ (waiting4 1).owner = (waiting4 2).owner ∧
    (waiting4 1).space = (waiting4 2).space ∧
    (∃ a, a ∈ (waiting4 1).locs.map Prod.snd ∧ a ∈ (waiting4 2).locs.map Prod.snd) := by
  refine ⟨?_, ?_, ?_, ?_, ?_, ?_, ⟨0x20000, ?_, ?_⟩⟩ <;> decide +kernel

theorem test_hyp_SpineMovesElements :
    allIssue st (regForms .vperm ++ regForms .vrot ++ regForms .vxget ++ regForms .vxput ++ oneForms .vcompress ++ oneForms .vexpand) = true ∧
    st.cx.start = 0 ∧ (1 : Reg) ≠ 2 := by decide +kernel

theorem test_hyp_ReductionsFoldTheElements :
    allIssue st [.vredsum {} 1 2 3 .rne, .vredsumu {} 1 1 1 .rne, .vredmax {} 1 2 3, .vredmin {} 1 2 3, .vscan {} 1 2 3 .rne,
      .vredsum {} 1 2 3 .rtz] = true ∧ st.cx.fmt.isInt = true ∧ st.cx.start = 0 ∧ 0 < st.cx.vl.toNat ∧
    (let s := withC fun c => { c with vstart := 3 }
     s.cx.start = 3 ∧ s.cx.start < s.cx.vl.toNat ∧ issues (.vredsum {} 1 2 3 .rne) s) ∧
    (let s := withC fun c => { c with vstart := 4 }
     s.cx.vl.toNat ≤ s.cx.start ∧ allIssue s [.vredsum {} 1 2 3 .rne, .vredsumu {} 1 2 3 .rne, .vscan {} 1 2 3 .rne, .vredmax {} 1 2 3,
       .vredmin {} 1 2 3] = true) := by decide +kernel

/-- f32 elements 1, 2, 3 and a NaN, and M8 elements none of which is the reserved code. -/
theorem test_hyp_ReductionsFoldTheElements_floats :
    ∀ s ∈ [sv 0x2c 0x7fc00000404000004000000000000000003f800000 0 0, sv 0x2e 0x01020304 0 0],
      allIssue s [.vredsum {} 4 1 2 .rdn, .vredsumu {} 4 1 2 .rne, .vredmax {} 4 1 2, .vredmin {} 4 1 2, .vscan {} 4 1 2 .dyn] = true ∧
      s.cx.fmt.isInt = false ∧ s.cx.start < s.cx.vl.toNat ∧
      let A := (s.cx.elems {}).map fun e => s.cx.el 1 e
      let b0 := s.cx.el 2 0
      fmtVal s.cx.fmt b0 ≠ .nar ∧ (∀ x ∈ A, fmtVal s.cx.fmt x ≠ .nar) ∧
      ∀ f ∈ [addVal, fun _ => maxVal, fun _ => minVal], ∀ k < A.length,
        fmtVal s.cx.fmt (A.getD k 0) ≠ .nar ∧ fmtVal s.cx.fmt (folded s.cx .rne f b0 (A.take k)).1 ≠ .nar := by
  decide +kernel

/-- `dm` whose tower has a folio table at 0x30000 with one entry. -/
def tab (e : BitVec 512) : State :=
  { dx 0 0x1000 0 with mem := (dx 0 0 0).mem.writeN 0x30000 64 e.toNat, tw := { dm.tw with foliotab := 0x30000 } }
def bound0 (g : Group) (pos : Nat) : State := dm.upd fun c => withHandle { c with x := xs 0 1 0x800 } { heldRow with group := g, pos := pos }
def layer0 (y : LayerSt) (s : State) : State := s.setLayer 0 0 y

theorem test_hyp_HandlesBindOpenAndClose :
    (let s := tab heldRow.entry
     allIssue s [.fbind {} 0 1, .fbind {} 15 2] = true ∧ fld (s.cx.readX 1) 12 3 = (towerOf s.cx.coreid).toNat ∧
     fld (s.cx.readX 1) 15 33 = 0 ∧ s.tw.foliotab ≠ 0 ∧ s.tw.foliotab.toNat + 64 * fld (s.cx.readX 1) 0 12 + 64 ≤ 2 ^ 39 ∧
     (match s.physical (s.tw.foliotab.toNat + 64 * fld (s.cx.readX 1) 0 12) 64 with
       | some ls => !s.poisoned (.g ls) && !s.blocked s.cx (.g ls) 64 && !s.layerWaits (some s.cx.coreid) (.g ls) &&
           State.poisoned { s with poison := [0x30000 / 128] } (.g ls)
       | none => false) = true ∧ s.physical (2 ^ 40) 64 = none ∧
     s.folioEntry 0 0 = heldRow.entry ∧ entryOk (s.folioEntry 0 0) (s.cx.readX 1) (fld s.cx.ptbase 48 16) = true ∧
     (s.cx.handle 0).group.claim = none ∧ fld (s.cx.readX 2) 12 3 ≠ (towerOf s.cx.coreid).toNat) ∧
    entryOk 0 0 0 = false ∧ (withHandle c0 heldRow |>.handle 0).group.claim.isSome = true ∧
    (let s := (bound0 .none 0).upd fun c => { c with h := c.h.set 0 { c.h[0] with issuing := some (c.pc, 0) } }
     (s.cx.handle 0).issuing = some (s.cx.pc, 0) ∧ (s.cx.handle 0).group = .none ∧ issues (.rowact {} 0 0) s ∧
       (bound0 (.claimed 0) 0 |>.cx.handle 0).issuing ≠ some (s.cx.pc, 0)) ∧
    (let s := (bound0 (.claimed 0) 0).upd fun c => { c with h := c.h.set 0 { c.h[0] with issuing := some (c.pc, 0) } }
     (s.cx.handle 0).issuing = some (s.cx.pc, 0) ∧ (s.cx.handle 0).group = .claimed 0) ∧
    (let l : List (Nat × Nat) := [(0x4000000, 0x4000000)]
     let s : State := { bound0 .none 0 with pend := [.store (some 9) 0 l [(0xff, 1)] none false] }
     s.layer s.cx.coreid 0 = .idle ∧ s.claims s.cx.coreid = [] ∧ l.length = 1 ∧
       ∀ x ∈ l, onRow s.cx.coreid (layerOf (s.cx.handle 0).entry 0) (rowIn (s.cx.handle 0).entry 0) x = true) ∧
    ([.none, .claimed 0, .opening 0, .held 0, .lost 0].all fun g => allIssue (bound0 g 0) [.frel {} 0, .frel {} 15, .fseek {} 0 1, .fseek {} 0 2,
      .rowact {} 0 1, .rowact {} 1 0, .rowclose {} 0, .rowstat {} 1, .rowstatH {} 1 0, .rowstatH {} 63 15]) = true ∧
    (let s := bound0 .none 0
     (s.cx.readX 3).toNat % 2048 = 0 ∧ (s.cx.readX 2).toNat % 2048 ≠ 0 ∧ (s.cx.handle 0).bound = true ∧ (s.cx.handle 1).bound = false ∧
     entGroups (s.cx.handle 0).entry = 1 ∧ entCore (s.cx.handle 0).entry = columnOf s.cx.coreid ∧ s.cx.stall = .none ∧
     (s.cx.handle 0).group.claim = none ∧ (∀ x ∈ s.claims s.cx.coreid, x.layer ≠ layerOf (s.cx.handle 0).entry 0) ∧
     s.layer s.cx.coreid 0 = .idle ∧ (layer0 .streaming s).layer s.cx.coreid 0 ≠ .idle) ∧
    (∃ x ∈ (bound0 (.held 0) 0).claims 0, x.layer = layerOf heldRow.entry 0) ∧ heldRow.pos < 2 ^ 28 := by
  decide +kernel

theorem test_hyp_StreamsMoveABrick :
    (let s := bound0 .none 0
     let h := s.cx.handle 0
     allIssue s [.sld {} 1 0, .sst {} 1 0, .sld {} 1 15, .sst {} 1 15] = true ∧ h.bound = true ∧ (s.cx.handle 15).bound = false ∧
     entCore h.entry = columnOf s.cx.coreid ∧ h.pos ≠ entGroups h.entry * 16384 ∧
     folioAddr h.tower.toNat h.entry h.pos = some 0x4000000 ∧ s.poisoned (.g h.stream) = false ∧
     s.blocked s.cx (.g h.stream) 2048 = false ∧ s.layer 0 0 = .idle ∧ (layer0 .streaming s).layer 0 0 = .streaming ∧
     State.poisoned { s with poison := [0x4000000 / 128] } (.g h.stream) = true ∧
     entWrite h.entry = true ∧ ((s.claims 0).find? fun x => x.layer == 0).isNone = true) ∧
    ((bound0 .none 16384).cx.handle 0).pos = entGroups ((bound0 .none 16384).cx.handle 0).entry * 16384 ∧
    entWrite (BitVec.ofNat 512 (2 ^ 48)) = false ∧
    got (match (bound0 (.held 0) 0).claims 0 with | x :: _ => Except.ok x | [] => .error ())
      (fun x => decide (x.layer = 0 ∧ x.row = rowIn heldRow.entry 0 ∧ x.id = 1 ∧ x.h = 0)) = true ∧
    ((bound0 (.held 0) 0).ctx? 1).map (fun c => c.h[0].group) = some (.held 0) ∧
    (let s := dm.upd fun c => { withHandle c { heldRow with entry := BitVec.ofNat 512 (2 ^ 48 + 2 ^ 49 + 2 ^ 56 + 0x20001 * 2 ^ 128), group := .held 0 } with
       h := ((withHandle c { heldRow with entry := BitVec.ofNat 512 (2 ^ 48 + 2 ^ 49 + 2 ^ 56 + 0x20001 * 2 ^ 128), group := .held 0 }).h).set 1 { heldRow with group := .none } }
     got (match s.claims 0 with | x :: _ => Except.ok x | [] => .error ())
      (fun x => decide (x.layer = layerOf (s.cx.handle 1).entry 0 ∧ x.row ≠ rowIn (s.cx.handle 1).entry 0)) = true) := by
  decide +kernel

/-- What is at an address, and what the contexts hold by address, is what another state holds. -/
theorem canonical_like {s t : State} (h : canonical s) (hm : t.mem = s.mem) (ht : t.tags = s.tags)
    (hc : ∀ c ∈ t.ctxs, ∃ d ∈ s.ctxs, c.scratch = d.scratch ∧ c.cave = d.cave ∧ c.caveTags = d.caveTags) : canonical t := by
  obtain ⟨⟨h1, h2⟩, h3, h4⟩ := h
  refine ⟨⟨hm ▸ h1, fun c hc' => ?_⟩, ht ▸ h3, fun c hc' => ?_⟩ <;> obtain ⟨d, hd, e1, e2, e3⟩ := hc c hc'
  · rw [e1, e2]; exact h2 d hd
  · rw [e3]; exact h4 d hd

theorem test_hyp_StreamsMoveABrick_canonical : canonical (bound0 .none 0) :=
  canonical_like dm_canonical rfl rfl fun c hc => ⟨dm.cx, .head _, by
    have : c = (bound0 .none 0).cx := by simpa [State.ctxs, bound0, State.upd, dm, paged, code, st, withC, State.withFetchWord] using hc
    rw [this]; exact ⟨rfl, rfl, rfl⟩⟩

/-- A folio whose spare lies on layer 1. -/
def spared : BitVec 512 := BitVec.ofNat 512 (2 ^ 48 + 2 ^ 49 + 2 ^ 56 + 0x10001 * 2 ^ 128 + 0x20010001 * 2 ^ 384)

theorem test_hyp_RowControllerMovesGroupsOn :
    ([.claimed 0, .opening 0, .held 0].all fun g => decide ((bound0 g 0).rowHandle 1 0 = some ((bound0 g 0).cx, (bound0 g 0).cx.h[0]) ∧
      (bound0 g 0).cx.h[0].group = g)) = true ∧
    (bound0 (.claimed 0) 0).layer 0 (layerOf heldRow.entry 0) = .idle ∧
    (layer0 .closing (bound0 (.claimed 0) 0)).layer 0 (layerOf heldRow.entry 0) ≠ .idle ∧
    (let s := layer0 .pending dm
     s.layer 0 (0 : BitVec 3).toNat = .pending ∧ ∀ q ∈ (s.core 0).queue, q.readsLayer 0 = false) ∧
    (MOp.mopa 1 0 .i8 0 0 none none [] (some 0) none).readsLayer 0 = true ∧
    (layer0 .closing dm).layer 0 (0 : BitVec 3).toNat = .closing ∧ (layer0 .closing dm).pend = [] ∧
    ((layer0 .closing dm).setLayer 0 0 .idle).rowsLet (some 1) true [(0x4000000, 0x4000000)] = true ∧
    (let l : List (Nat × Nat) := [(0x4000000, 0x4000000)]
     let s : State := { layer0 .closing dm with pend := [.store (some 1) 0x5000 l [(0xff, 7)] none false] }
     s.layer 0 (0 : BitVec 3).toNat = .closing ∧ s.pend = [.store (some 1) 0x5000 l [(0xff, 7)] none false]) ∧
    (isDram 0x4000000 = true ∧ isPeer 0x4000000 = false ∧ (rowOf 0x4000000).1 = 0 ∧ (rowOf 0x4000000).2.1 = 0) ∧
    (layer0 .streaming dm).layer 0 (0 : BitVec 3).toNat = .streaming ∧
    (let s := tab spared
     let e := s.folioEntry 0 0
     (s.tower 0).foliotab ≠ 0 ∧ e = spared ∧ entValid spared = true ∧ (0 : BitVec 3).toNat < min 8 (entNext spared) ∧
     entSpare spared ≠ 0 ∧ (∀ j < min 8 (entNext spared), extRows (entExt spared j) ≤ extRows (entSpare spared)) ∧
     extRows (entExt spared 0) = extRows (entSpare spared) ∧ s.folioQuiet 0 0 = true ∧ s.mem.wf = true ∧
     (let touches (l : Nat × Nat) : Bool := (isAperture l.1 && (l.1 - 2 ^ 51) / 2 ^ 27 == 0) ||
        inExtent 0 (entCore e) (entExt e 0) l.2 || inExtent 0 (entCore e) (entSpare e) l.2
      s.inFlightAt touches = false ∧
        State.inFlightAt { s with pend := [.store (some 1) 0x5000 [(0x4000000, 0x4000000)] [(0xff, 7)] none false] } touches = true) ∧
     extLayer (entExt spared 0) ≠ extLayer (entSpare spared) ∧ extRow0 (entSpare spared) = 1 ∧ extRows (entExt spared 0) = 1) := by
  decide +kernel

theorem test_hyp_RowControllerMovesGroupsOn_apart :
    ∀ r < 1, ∀ o < 16384, ∀ j < 64, rowAddr 0 0 1 (1 + r) o ≠ 0x30000 + j := by
  intro r _ o _ j _
  simp only [rowAddr]
  omega

/-- A context that holds tile 0, in i8 with the shape of mopa, its group 0 of handle 0 in a state. -/
def tiled (g : Group) (map : BitVec 4) : State := withC fun c =>
  withHandle { c with vtype := 0x2e0, vatmap := map, vatn := 1, x := xs 0 15 0 } { heldRow with group := g }

theorem test_hyp_MatrixInstructionsQueueTheirWork :
    (allIssue (tiled .none 1) [.mzero 0, .mzero 3, .mopa {} 0 1 2, .mopaRows {} 0 1 0, .mflush {} .i32 .c 1 0 0 0,
      .mflush { form := .s } .f64 .g 1 0 3 0xff] = true ∧ (tiled .none 1).ahead.length < 4) ∧
    ((tiled .none 1).cx.vatmap.getLsbD 0 = true ∧ (tiled .none 0).cx.vatmap.getLsbD 0 = false ∧ 0 < (tiled .none 0).cx.vatn ∧
      (tiled .none 0).tileLeaves false 0 = false ∧ (tiled .none 1).tileLeaves true 0 = false ∧
      (let s : State := { tiled .none 1 with co := { st.co with queue := [.mflush 1 .i32 0 .g [] true] } }
       allIssue s [.mzero 0] = true ∧ s.tileLeaves false 0 = true) ∧
      (let s : State := { tiled .none 1 with co := { st.co with queue := List.replicate 4 (.mzero 1 3) } }
       allIssue s [.mzero 0] = true ∧ s.tileLeaves false 0 = false ∧ 4 ≤ s.ahead.length) ∧
      (tiled .none 0).vatFree 0 ≠ 0 ∧ (tiled .none 0).vatCapped (tiled .none 0).cx = false ∧ (tiled .none 0).cx.vatn ≤ (3 : Reg).toNat) ∧
    (let s := tiled (.held 0) 1
     mopaK s.cx.fmt = some 64 ∧ mopaShape 64 s.cx.vtype = true ∧ bitOf s.cx.vtype 19 = false ∧ bitOf s.cx.vtype 23 = false ∧
     s.cx.fmt ≠ .f64 ∧ s.cx.tileMissing false 0 = none ∧ s.cx.tileMissing false 1 = some 1 ∧ (2 : Reg).toNat ≤ 56 ∧
     (s.cx.handle 0).group = .held 0 ∧ folioAddr (s.cx.handle 0).tower.toNat (s.cx.handle 0).entry (0 * 16384) = some 0x4000000 ∧
     (∀ j < 8, (0 : BitVec 131072).extractLsb' (16384 * j) 16384 = s.cx.v.toList.getD ((2 : Reg).toNat + j) 0)) ∧
    ((tiled (.lost 0) 1).cx.handle 0).group = .lost 0 ∧ ((tiled (.opening 0) 1).cx.handle 0).group = .opening 0 ∧
    ((tiled .none 1).cx.readX 1).toNat % 128 = 0 ∧ (0x81 : Word).toNat % 128 ≠ 0 ∧
    (let s (l : List MOp) : State := { st.upd fun c => { c with vatmap := 1, x := xs 0 15 0 } with co := { st.co with queue := l } }
     let place : MOp := .move 1 (s []).cx.pc
     let full : List MOp := List.replicate 4 (.mzero 1 3)
     allIssue (s []) [.mrd {} 1 0 2, .mrd { form := .s, la := true } 1 0 2, .mrd {} 1 1 2, .mwr {} 0 1 2] = true ∧
     allIssue (tiled .none 1) [.mrd {} 1 0 2, .mwr {} 0 1 2] = true ∧ (tiled .none 1).cx.fmt.sew = 8 ∧
     ((s []).cx.readX 2).toNat < 16 ∧ 16 ≤ ((st.upd fun c => { c with x := xs 0 16 0 }).cx.readX 2).toNat ∧ (s []).cx.fmt.sew = 32 ∧
     (s []).tileLeaves false 0 = false ∧ (s []).cx.vatmap.getLsbD 0 = true ∧ (s []).cx.vatmap.getLsbD 1 = false ∧
     (s []).ahead = [] ∧ place ∉ (s []).co.queue ∧ (s [place]).co.queue.head? = some place ∧ (s [place]).tileLeaves false 0 = false ∧
     place ∉ (s [.mzero 9 0]).co.queue ∧ (s [.mzero 9 0]).ahead ≠ [] ∧ (s [.mzero 9 0]).ahead.length < 4 ∧
     place ∈ (s [.mzero 9 0, place]).co.queue ∧ (s [.mzero 9 0, place]).co.queue.head? ≠ some place ∧
     place ∉ (s full).co.queue ∧ 4 ≤ (s full).ahead.length ∧ (s full).tileLeaves false 0 = false) := by
  decide +kernel

theorem test_hyp_MatrixInstructionsQueueTheirWork_reserved :
    mopaReserved .i8 64 0 0 none none [0] = none ∧ mopaReserved .m8 64 0 0 (some (0, 0)) none [] = none := by decide +kernel

theorem test_hyp_MatrixInstructionsQueueTheirWork_rows :
    ∀ j < 16384, (0 : BitVec 131072).extractLsb' (8 * j) 8 = (tiled (.held 0) 1).mem.byte (0x4000000 + j) := by
  intro j _
  have : (tiled (.held 0) 1).mem = [] := rfl
  rw [this]; simp [Memory.byte]

/-- The lines of a tile in the cave window. -/
theorem test_hyp_MatrixInstructionsQueueTheirWork_lines :
    got ((tiled .none 1).flushLines .c ((List.range 32).flatMap fun r => (List.range 8).map fun k =>
      (0 : Word) + BitVec.ofNat 64 r * 1024 + BitVec.ofNat 64 (128 * k)) []) (fun q => decide (q.1.length = 256) && decide (q.2.ahead.length < 4)) = true := by
  decide +kernel

def queued1 (q : MOp) : State := { st with co := { st.co with queue := [q] } }

theorem test_hyp_TheMatrixEngineRunsItsQueue :
    (let s := queued1 (.mzero 1 3)
     (s.core 0).queue = [.mzero 1 3] ∧ s.ctx? 1 = some s.cx) ∧
    (∀ f ∈ [Fmt.i8, .bf16, .f64], let q : MOp := .mopa 1 2 f 0 0 none none [0, 31] none none
     let s := queued1 q
     (s.core 0).queue = [q] ∧ s.ctx? 1 = some s.cx ∧ (mopaK f).isSome = true ∧ (2 : BitVec 2).toNat % 2 = 0) ∧
    Fmt.i8.intClass = true ∧ Fmt.bf16.intClass = false ∧
    (let q : MOp := .mopa 1 0 .m8 0 0 (some 0) (some 0) [0] (some 0) (some 0)
     let s : State := { tiled (.held 0) 1 with co := { st.co with queue := [q] } }
     (s.core 0).queue = [q] ∧ s.ctx? 1 = some s.cx ∧ (mopaK .m8).isSome = true ∧ (s.cx.h[(0 : BitVec 4).toNat]).group = .held 0 ∧
       some (layerOf (s.cx.h[(0 : BitVec 4).toNat]).entry 0) = some 0) ∧
    (let s := queued1 (.mflush 1 .i32 0 .g [] false)
     (s.core 0).queue = [.mflush 1 .i32 0 .g [] false] ∧ s.ctx? 1 = some s.cx ∧ MKind.i32 ≠ .f64) ∧
    (∀ cnt ∈ [true, false], let e : Pend := .flush 1 .g [(0x20000, 0x20000), (0x20001, 0x20001), (0x20002, 0x20002), (0x20003, 0x20003)] .i32 cnt 0x7fffffff
     let s : State := { dm with pend := [e] }
     s.pend[0]? = some e ∧ s.earlier 0 e = false ∧ s.rowsLet (some 1) true e.locs = true ∧ (e.locs.map Prod.snd).Nodup ∧ e.locs.length = 4) := by
  decide +kernel

theorem test_hyp_TheMatrixEngineRunsItsQueue_canonical : canonical ({ dm with pend := [waiting4 1] } : State) :=
  canonical_like dm_canonical rfl rfl fun c hc => ⟨c, hc, rfl, rfl, rfl⟩

/-- Products that add: a zero sum, an infinity, a mixture. -/
theorem test_hyp_TheMatrixEngineRunsItsQueue_block :
    sumsTo [.num true ⟨0, 1⟩] (.num true ⟨0, 1⟩) ∧ sumsTo [.inf true] (.inf true) ∧
    (∃ p ∈ [Val.nan false], p.isNan = true) := by
  refine ⟨⟨by simp, fun _ => ⟨true, ⟨0, 1⟩, rfl, by simp [valRat, ratOf], by simp [valRat, ratOf], by simp⟩⟩, ⟨by simp, by simp⟩, ?_⟩
  exact ⟨_, .head _, rfl⟩

/-- A record that copies one word from `src` to 0x1800. -/
def copyRec (src : Nat) : Nat := src + 0x1800 * 2 ^ 64 + 2 ^ 128 + 2 ^ 224 + 2 * 2 ^ 240
/-- The same as the record of a node. -/
def nodeRec (id pred src : Nat) : Nat := copyRec src + id * 2 ^ 896 + pred * 2 ^ 904 + 0xffffffff * 2 ^ 928
def chanOf (fifo : Nat) (running : List (BitVec 1024 × BitVec 128)) (ring : List (BitVec 128)) : Channel :=
  { fifo := List.replicate fifo ⟨BitVec.ofNat 1024 (copyRec 0x1000), 0⟩, running := running, ring := ring, scopes := ring.map fun _ => .sys }
/-- A context with a record in v2 and one of zeros in v3, x2 = 0, x3 = 1. -/
def channels (h : Channel) : State := dm.upd fun c => { c with
  v := c.v.set 2 (BitVec.ofNat 16384 (copyRec 0x1000)), x := xs 64 0 1, cp := h, gt := h }

theorem test_hyp_EngineChannelsQueueAndAnswer :
    ([0, 15, 16].all fun n => allIssue (channels (chanOf n [] [])) [.enq {} 1 2 2 false, .enq {} 1 3 2 true, .enq {} 1 2 1 false,
      .enqb {} 1 2 3 false, .enqb {} 1 2 1 true, .enqb {} 1 2 2 true, .epop {} 2 false, .epop {} 2 true, .estat {} 1 false, .estat {} 1 true,
      .estatN {} 1 1, .estatN {} 1 2]) = true ∧
    (let s := channels (chanOf 16 [] [7])
     16 ≤ (s.cx.readX 1).toNat ∧ (s.cx.readX 2).toNat < 16 ∧ recordBad false (BitVec.ofNat 1024 (copyRec 0x1000)) = none ∧
     s.cx.v[(2 : Reg).toNat].extractLsb' (1024 * (s.cx.readX 2).toNat) 1024 = BitVec.ofNat 1024 (copyRec 0x1000) ∧
     (recordBad false 0).isSome = true ∧ s.cx.lostStore = none ∧ 16 ≤ (s.cx.chan false).fifo.length ∧ (s.cx.chan true).ring = [7] ∧ (s.cx.chan true).scopes = [.sys] ∧
     (s.cx.readX 3).toNat = 1 ∧ (2 : Reg).toNat + (1 + 15) / 16 ≤ 64) ∧
    (chanOf 0 [] []).ring = [] ∧ (chanOf 0 [] []).fifo = [] ∧ (chanOf 0 [] []).running = [] ∧ (chanOf 1 [] []).fifo ≠ [] ∧
    (st.co.graph[Fin.ofNat 64 0].pred < 256 ∧ 64 ≤ ((channels {}).cx.readX 1).toNat) := by decide +kernel

/-- The record in `s:` and `c:` space, converted from f32 to f64, and gathered by the 4-byte index at 0x1100 with shift 2. -/
def spaceRec (spaces : Nat) : Nat := 0x100 + 0x180 * 2 ^ 64 + 2 ^ 128 + 2 ^ 224 + spaces * 2 ^ 232 + 2 * 2 ^ 240
def convRec : Nat := copyRec 0x1000 + (0x80 + 12) * 2 ^ 640 + 13 * 2 ^ 648
def gatherRec : Nat := copyRec 0x1000 + 4 * 2 ^ 672 + 0x1100 * 2 ^ 768
def recOfNat (n : Nat) : BitVec 1024 := BitVec.ofNat 1024 n

theorem test_hyp_EnginesRunTheirCommands :
    (let s := channels (chanOf 2 [] [])
     s.ctx? 1 = some s.cx ∧ (s.cx.chan false).fifo.length = 2 ∧ (s.cx.chan false).running.length < 4 ∧ s.writesOut 1 = false ∧
     s.cx.hostSave = .no ∧ s.cx.resident = true ∧
     (match (s.leavePeers (towerOf s.cx.coreid) fun _ => true).engRunAll (s.engineCtx s.cx) false (s.cx.chan false).lost (recOfNat (copyRec 0x1000)) with | some (_, 1, none) => true | _ => false) = true ∧
     (match (s.leavePeers (towerOf s.cx.coreid) fun _ => true).engRunAll (s.engineCtx s.cx) false false (recOfNat (copyRec 0x7000)) with | some (_, 0, some (.dataXlate, _)) => true | _ => false) = true) ∧
    (let s := channels (chanOf 0 [(recOfNat (copyRec 0x1000), 0)] (List.replicate 63 0))
     s.ctx? 1 = some s.cx ∧ (s.cx.chan true).running = [(recOfNat (copyRec 0x1000), 0)] ∧ (s.cx.chan true).ring.length < 64) ∧
    64 ≤ (chanOf 0 [(0, 0)] (List.replicate 64 0)).ring.length := by decide +kernel

/-- An iteration that moves an element of `n` bytes at `src` to `n'` bytes at `dst`: what the read and the write meet. -/
def engMoves (s : State) (sp sp' : Space) (src dst : Word) (n n' : Nat) : Bool :=
  got (s.resolve s.cx sp .load src n) fun a =>
    !a.2.inReg && !s.poisoned a.2 && !s.layerWaits none a.2 &&
    let u := (a.1.loadPlace s.cx .cave .sector a.2 n).2
    got (u.resolve s.cx sp' .store dst n') fun b => !b.2.inReg && !u.poisoned b.2 && RowMeet.isFree (u.rowMeets none b.2)

theorem test_hyp_EnginesRunTheirCommands_iteration :
    (let r := recOfNat (copyRec 0x1000)
     recSrcSpace r = 0 ∧ recDstSpace r = 0 ∧ recConv r = false ∧ recDir r = false ∧ recSize r = 4 ∧
     recAddr (BitVec.ofNat 64 (rb r 0 8)) (digits (recCounts r) 0) (recStrides r 0) = 0x1000 ∧
     recAddr (BitVec.ofNat 64 (rb r 8 8)) (digits (recCounts r) 0) (recStrides r 1) = 0x1800) ∧
    engMoves dm .g .g 0x1000 0x1800 4 4 = true ∧
    (let r := recOfNat (spaceRec 9)
     recSrcSpace r = 1 ∧ recDstSpace r = 2 ∧ recSize r = 4) ∧ engMoves dm .s .c 0x100 0x180 4 4 = true ∧
    (let r := recOfNat convRec
     recConv r = true ∧ recSfmt r = .f32 ∧ recDfmt r = .f64 ∧ recDstSize r = 8) ∧ engMoves dm .g .g 0x1000 0x1800 4 8 = true ∧
    (let r := recOfNat gatherRec
     recIndexSize r = 4 ∧ recShift r = 2 ∧ rb r 0x60 8 = 0x1100) ∧
    placedAnd dm .g .load 0x1100 4 (fun t p => !p.inReg && !dm.poisoned p && !dm.layerWaits none p &&
      engMoves (t.loadPlace dm.cx .cave .sector p 4).2 .g .g 0x1000 0x1800 4 4) = true ∧
    recDstSpace (recOfNat (spaceRec 12)) = 3 ∧ (0x7fff00000000000 : Word).extractLsb' 44 16 ∉ dm.dev.qps ∧
    (let s : State := { dm with dev := { dm.dev with qps := [7] } }
     (0x7000000000000 : Word).extractLsb' 44 16 ∉ s.dev.qps ∧ (0x70000000000 : Word).extractLsb' 40 16 ∈ s.dev.qps) := by
  decide +kernel

/-- A command of one word runs through its one iteration, or faults at it. -/
theorem test_hyp_EnginesRunTheirCommands_runs :
    (∃ u, along (fun s j t => s.engIter dm.cx false false (recOfNat (copyRec 0x1000)) j = .ok t)
      (List.range (recTotal (recOfNat (copyRec 0x1000)))) dm u) ∧ 0 < recTotal (recOfNat (copyRec 0x1000)) ∧
    (match dm.engIter dm.cx false false (recOfNat (copyRec 0x7000)) 0 with | .error (.fault .dataXlate _) => true | _ => false) = true := by
  refine ⟨?_, by decide +kernel, by decide +kernel⟩
  have h : recTotal (recOfNat (copyRec 0x1000)) = 1 := by decide +kernel
  obtain ⟨u, hu, -⟩ := got_ok (e := dm.engIter dm.cx false false (recOfNat (copyRec 0x1000)) 0) (f := fun _ => true) (by decide +kernel)
  rw [h]
  exact ⟨u, u, hu, rfl⟩

def entry1 (st : NodeSt) (pred : Nat) : GEntry := { st := st, owner := some (.ctx 1), pred := pred, image := BitVec.ofNat 1024 (nodeRec 1 pred 0x1000) }
/-- `dm` with an entry at 1, a node record at 0x1080, x1 = 0x1080, x2 = 1, x3 = 64. -/
def graphed (e : GEntry) (rec : Nat) : State :=
  { dx 0x1080 1 64 with mem := (dx 0 0 0).mem.writeN 0x20080 128 rec, co := { dm.co with graph := dm.co.graph.set 1 e } }
def graphLeaf : Node := { kind := .graph, placed := 1, count := 1, records := [BitVec.ofNat 1024 (nodeRec 5 0 0x1000)] }

theorem test_hyp_GraphNodesStartAndEnd :
    allIssue (graphed (entry1 .waiting 1) (nodeRec 2 0 0x1000)) [.gload {} 1 2, .gload {} 1 3, .gload {} 1 0, .gsig {} 2, .gsig {} 3,
      .gwait {} 2, .gwait {} 3] = true ∧ (0x1080 : Word).toNat % 128 = 0 ∧
    (∃ t v, loads (graphed {} (nodeRec 2 0 0x1000)) .l1 .sector .g 0x1080 (128 * 1) t v ∧ (v == nodeRec 2 0 0x1000) = true) ∧
    gloadBad [2] (fun _ => false) 0 (BitVec.ofNat 1024 (nodeRec 2 0 0x1000)) = none ∧ rb (BitVec.ofNat 1024 (nodeRec 2 0 0x1000)) 0x70 1 = 2 ∧
    rb (BitVec.ofNat 1024 (nodeRec 2 0 0x1000)) 0x72 1 ≠ 2 ∧ ((graphed (entry1 .waiting 1) 0).table.at 2).isPending = false ∧
    ((graphed (entry1 .waiting 1) 0).table.at 1).isPending = true ∧
    gloadBad [1] ((graphed (entry1 .waiting 1) 0).table.owned 1) 0 (BitVec.ofNat 1024 (nodeRec 1 0 0x1000)) = none ∧
    (let s := graphed (entry1 .waiting 1) 0
     (s.table.at 1).st = .waiting ∧ (s.table.at 1).owner = some (.ctx s.cx.id) ∧ rb (s.table.at 1).image 0x72 1 ≠ 2 ∧ released s ∧
     64 ≤ (s.cx.readX 3).toNat ∧ s.table.owned s.cx.id 1 = true ∧ s.table.owned s.cx.id 64 = false ∧ s.ownerStopped (.ctx 1) = false) ∧
    ([.done, .waiting, .running, .failed].all fun n => (graphed (entry1 n 0) 0).table.owned 1 1 && decide ((((graphed (entry1 n 0) 0).graph 0).at 1).st = n)) = true ∧
    (let s := graphed (entry1 .running 0) 0
     s.ctx? 1 = some s.cx ∧ s.cx.phase ≠ .ending ∧ s.writesOut 1 = false ∧
     (match (s.leavePeers (towerOf 0) fun _ => true).engRunAll (s.engineCtx s.cx) false false (BitVec.ofNat 1024 (nodeRec 1 0 0x1000)) with
       | some (t, _, none) => decide (t.graph 0 = s.graph 0 ∧ t.ownerStopped (.ctx 1) = false) | _ => false) = true ∧
     (match (s.leavePeers (towerOf 0) fun _ => true).engRunAll (s.engineCtx s.cx) false false (BitVec.ofNat 1024 (nodeRec 1 0 0x7000)) with | some (_, _, some _) => true | _ => false) = true) ∧
    (let s := leafy graphLeaf
     s.node? 0 0 = some graphLeaf ∧ graphLeaf.placed ≠ 0 ∧ graphLeaf.loaded = false ∧ graphLeaf.stopped = false ∧ graphLeaf.count ≤ (s.graph (auxCore graphLeaf.aux)).freeEntries.length ∧
     graphLeaf.records.length ≤ graphLeaf.count) := by
  iterate 2 refine ⟨by decide +kernel, ?_⟩
  refine ⟨loads_and (by decide +kernel), ?_⟩
  iterate 6 refine ⟨by decide +kernel, ?_⟩
  refine ⟨⟨?_, ?_, ?_, ⟨?_, rfl⟩, ?_⟩, ?_⟩ <;> decide +kernel

/-- A gang whose pipe 2 carries words and pipe 3 bricks, both from member 0 to itself; a copy with one member. -/
def ganged : Node := { kind := .gang, pipes := [⟨2, false, 0, 0⟩, ⟨3, true, 0, 0⟩] }
def pipes (l : List Pipe) (i : Instr) (stall : Stall) : State :=
  let s := code ((encode i).getD 0 0).toNat
  { s with
    cx := { s.cx with leaf := some (0, 0), gang := some (0, 0), stall := stall }
    dev := { s.dev with pipes := l, launches := [{ num := 0, st := .live, nodes := [ganged] }] } }
def holding (n : Nat) : List Pipe := [⟨0, 0, 0, ⟨2, false, 0, 0⟩, List.replicate n 1⟩, ⟨0, 0, 0, ⟨3, true, 0, 0⟩, List.replicate n 1⟩]

theorem test_hyp_PipesAndWatermarksCarryData :
    ([0, 1, 7, 8, 63, 64].all fun n => let s := pipes (holding n) .nop .none
      allIssue s [.qpush {} 2 1, .qpushBrick {} 3 1, .qpop {} 1 2, .qpopBrick {} 1 3] &&
      decide (s.pipeItems 0 0 0 2 = List.replicate n 1 ∧ s.pipeItems 0 0 0 3 = List.replicate n 1 ∧ s.writesOut s.cx.id = false ∧ s.cx.lostStore = none)) = true ∧
    st.cx.gang = none ∧ allIssue st [.qpush {} 2 1, .qpushBrick {} 3 1, .qpop {} 1 2, .qpopBrick {} 1 3] = true ∧
    (let s := pipes [] .nop .none
     s.cx.gang = some (0, 0) ∧ s.cx.leaf = some (0, 0) ∧ s.node? 0 0 = some ganged ∧
     ganged.pipes.find? (fun b => b.q == (2 : Reg).toNat) = some ⟨2, false, 0, 0⟩ ∧ ganged.pipes.find? (fun b => b.q == (3 : Reg).toNat) = some ⟨3, true, 0, 0⟩) ∧
    (let s := pipes [] (.qpop {} 1 2) .again
     s.copyOf 0 0 0 = [s.cx] ∧ s.pipeStall = some 2 ∧ s.engineBusy s.cx = false ∧ s.trapWaits s.cx = false) ∧
    ((pipes [] .nop .none).copyOf 0 0 0 = [(pipes [] .nop .none).cx] ∧ ((pipes [] .nop .none).focusOn 1).pipeStall = none) ∧
    allIssue (one 0x1000 0) [.wmpub {} 3 1, .wmpub {} 4 1, .wmpubInit {} 3 1, .wmrd {} 1 3, .wmrdBound {} 1 3, .wmrd {} 1 4] = true ∧
    (one 0 0).wmAllowed 3 true = true ∧ (one 0 0).wmAllowed 4 true = false ∧ (0x1000 : Word).toNat % 32 = 0 ∧ (0x1010 : Word).toNat % 32 ≠ 0 ∧
    (∃ t v, loads (one 0x1000 0) .l1 .sector .g 0x1000 32 t v ∧ (v == 0) = true) ∧
    (∃ t v, loads { one 0x1000 0 with mem := (one 0 0).mem.writeN 0x20000 32 (0x1000 + 4 * 2 ^ 64 + 8 * 2 ^ 128) } .l1 .sector .g 0x1000 32 t v ∧
      decide (v / 2 ^ 96 % 2 ^ 32 = 0 ∧ v / 2 ^ 192 = 0 ∧ 1 ≤ v / 2 ^ 64 % 2 ^ 32 ∧ v / 2 ^ 64 % 2 ^ 32 ≤ 65536) = true) := by
  iterate 11 refine ⟨by decide +kernel, ?_⟩
  refine ⟨loads_and ?_, loads_and ?_⟩ <;> decide +kernel

/-- `st` in supervisor mode, x2 = v. -/
def supState (v : Word) : State := withC fun c => { c with status := 1, x := xs 0 v 0 }
/-- Every register that R367 numbers, but cycle. -/
def numbered : List (BitVec 12) := [0x004, 0x005, 0x006, 0x007, 0x008, 0x009, 0x00c, 0x010, 0x013, 0x014, 0x017, 0x018, 0x01b, 0x020, 0x021, 0x022,
  0x023, 0x100, 0x101, 0x102, 0x110, 0x200, 0x201, 0x202, 0x203, 0x204, 0x205, 0x206, 0x300, 0x301, 0x302, 0x303, 0x304, 0x305,
  0x306, 0x307, 0x308, 0x30b, 0x400, 0x401, 0x402]

theorem test_hyp_ControlRegistersReadAndWrite :
    (numbered.all fun n => allIssue (supState 0) [.ctlr { form := .s } 1 n, .ctlw { form := .s } 1 2 n, .ctlwSet { form := .s } 0 2 n,
      .ctlwClr { form := .s } 63 2 n] && ((supState 0).ctlRead (supState 0).cx n.toNat).isSome && decide ((supState 0).ctlTrap n.toNat 0 = none)) = true ∧
    (supState 0).cx.sup = true ∧ st.cx.sup = false ∧ (supState 0).queued (supState 0).cx = false ∧
    supervisorOnly 0x30b ∧ ¬ supervisorOnly 0x004 ∧ 0x403 ∈ readOnlyRegisters ∧ 0x004 ∉ readOnlyRegisters ∧
    st.ctlRead st.cx 0xfff = none ∧ issues (.ctlr { form := .s } 1 0xfff) st ∧ st.ctlTrap 0x004 7 = some .illEnc ∧
    st.ctlTrap 0x020 5 = some .illOperand ∧ issues (.snap 1) (supState 0) ∧ (supState 0).dev.snapHeld = false ∧
    issues (.snap 1) { supState 0 with dev := { st.dev with snapHeld := true } } := by
  iterate 4 refine ⟨by decide +kernel, ?_⟩
  refine ⟨.inr (.inr (.inr ⟨by decide, by decide⟩)), ?_, by decide +kernel⟩
  rintro (h | h | h | ⟨h, -⟩) <;> revert h <;> decide

/-- A pool of two records at 0x1000, whose leaf runs a task. -/
def pool (prod : BitVec 32) : Node := { kind := .pool, code := 0x1000, count := 2, aux := 0x50, prod := prod, tickets := 1 }
def inTask (n : Node) (x : Vector Word 64) : State :=
  let s := dm
  { s with
    cx := { s.cx with leaf := some (0, 0), task := 0x8000000000050000, x := x, bound := 5 }
    dev := { s.dev with launches := [{ num := 0, st := .live, ptbase := s.cx.ptbase, sup := true, nodes := [n] }] } }
/-- A drained context. -/
def isDrained (s : State) : Bool := s.drained s.cx && decide (s.cx.lostStore = none)

theorem test_hyp_TasksEndBoundAndSpawn :
    (let s := leafy kern
     issues .exit s ∧ isDrained s = true ∧ s.cx.inTask = false ∧ s.cx.leaf = some (0, 0) ∧ s.cx.gang = none ∧ (s.ancestors (0, 0)).Nodup ∧
     allIssue s [.tdone {}, .kpt {}, .bnd {} 1, .suspend {}] = true) ∧
    (let s := inTask (pool 0) (xs 0 0 0)
     allIssue s [.exit, .tdone {}, .kpt {}, .bnd {} 1] = true ∧ isDrained s = true ∧ s.cx.inTask = true ∧
     bitOf s.cx.task 28 = false ∧ s.dev.incmode.getLsbD 0 = false ∧
     fld s.cx.bound 0 32 = 5 ∧ fld s.co.shadows[Fin.ofNat 16 0] 32 32 = 0x7fffffff ∧
     ({ s with dev := { s.dev with incmode := 1 } } : State).dev.incmode.getLsbD 0 = true ∧ (fmtVal .f32 0x7fc00000).isNan = true) ∧
    (let s := inTask (pool 0) (xs 0 0x500000 2)
     allIssue s [.spawn {} 1 1 2 0, .spawn { form := .s } 0 1 2 3] = true ∧ (2 : Reg).toNat % 2 = 0 ∧ fld (s.cx.readX 2) 4 15 = 0 ∧
     fld (s.cx.readX 1) 0 2 = 0 ∧ fld (s.cx.readX 1) 56 8 = 0 ∧ bitOf (s.cx.readX 3) 0 = false ∧
     ((List.range 64).filter fun j => bitOf (s.cx.readX 3) j).length ≤ 16 ∧
     (match s.spawnPool 5 with | some (l, k, n) => decide (l.num = 0 ∧ k = 0 ∧ (n.prod - n.cons).toNat < n.count) | none => false) = true ∧
     s.spawnPool 6 = none ∧ s.writesOut s.cx.id = false ∧ fld (0x10 : Word) 4 15 ≠ 0) ∧
    (pool 2).count ≤ ((pool 2).prod - (pool 2).cons).toNat := by
  decide +kernel

/-- Bounds that cannot improve on the objective of the shadow at reset, and one that can. -/
theorem test_hyp_TasksEndBoundAndSpawn_cut :
    noBetter false 0x7fffffff 0x7fffffff ∧ noBetter true 0x3f800000 0x3f800000 ∧ ¬ noBetter false 5 0x7fffffff := by
  refine ⟨?_, .inl (by decide +kernel), ?_⟩
  · show (BitVec.ofNat 32 _).toInt ≤ (BitVec.ofNat 32 _).toInt
    decide
  · show ¬ (BitVec.ofNat 32 _).toInt ≤ (BitVec.ofNat 32 _).toInt
    decide

theorem test_hyp_SuspensionsLeaveARecord :
    (let s := inTask (pool 0) (xs 0x1000 0x1008 1)
     allIssue s [.suspend {}, .suspendLd {} 8 1, .suspendLd {} 56 2, .suspendRow {} 0 1, .epopSus {} 2 false, .epopSus {} 2 true, .gwaitSus {} 3] = true ∧
     s.cx.inTask = true ∧ isDrained s = true ∧ s.tw.susp.length < 4096 ∧ (s.cx.readX 1).toNat % 64 = 0 ∧ (s.cx.readX 2).toNat % 64 ≠ 0 ∧
     placedAnd s .g .load (s.cx.readX 1) 64 (fun _ p => (match p with | .g (_ :: _) => true | _ => false) && !p.inReg && !s.poisoned p && !s.peerFails p) = true ∧
     (s.rowactTrap 0 0).isSome = true) ∧
    (let s := (inTask (pool 0) (xs 0 0 0)).upd fun c => withHandle c { heldRow with group := .none }
     issues (.suspendRow {} 0 1) s ∧ s.rowactTrap 0 (s.cx.readX 1) = none ∧ isDrained s = true) ∧
    (let s := (inTask (pool 0) (xs 0 0 0)).upd fun c => { c with cp := chanOf 1 [] [], gt := chanOf 0 [] [7] }
     (s.cx.chan true).ring = [7] ∧ (s.cx.chan true).scopes = [.sys] ∧ (s.cx.chan true).infl = 0 ∧ (s.cx.chan false).infl = 1 ∧
     1 < (chanOf 2 [] []).infl ∧ got (s.drainBut (some false) none) (fun t => decide (t = s)) = true) ∧
    (let s : State := { inTask (pool 0) (xs 0 0 1) with co := { st.co with graph := st.co.graph.set 1 (entry1 .running 0) } }
     s.table.owned s.cx.id (s.cx.readX 3).toNat = true ∧ (s.table.at 1).isPending = true ∧ got (s.drainBut none (some 1)) (fun t => decide (t = s)) = true) ∧
    (let e : Susp := ⟨(0, 0), 0, .ready, .none, none⟩
     let s : State := { inTask (pool 0) (xs 0 0 0) with tw := { st.tw with susp := [e] } }
     (s.tower 0).susp[0]? = some e ∧ s.launch? 0 = some { num := 0, st := .live, ptbase := dm.cx.ptbase, sup := true, nodes := [pool 0] } ∧
     s.node? 0 0 = some (pool 0) ∧ (pool 0).stopped = false ∧ ((pool 0).prod - (pool 0).cons).toNat < (pool 0).count) ∧
    (let e : Susp := ⟨(0, 0), 0, .load 0x20000 0x100 0x1000, .regs 8 8, none⟩
     let locs := (List.range 64).map fun k => (0x20000 + k, 0x20000 + k)
     let s : State := { inTask (pool 0) (xs 0 0 0) with tw := { st.tw with susp := [e] }, pend := [.load 0 (0, 0) locs false] }
     s.pend[0]? = some (.load 0 (0, 0) locs false) ∧ s.loadWaiter 0 (0, 0) 0x20000 = some (0, 0x100, 0x1000) ∧
     (s.tower 0).susp[0]? = some e ∧ locs.tail.length = 63 ∧ ∀ b ∈ locs, s.loadWaits none ⟨b.1, b.2, false⟩ = false) := by decide +kernel

theorem test_hyp_IncumbentsKeepTheBetterKey :
    allIssue (supState 5) [.incupd {} 1 2 0, .incupd {} 0 2 15, .incupdSet {} 1 2 0, .incrd {} 1 0, .incrd {} 63 15, .incrdSh {} 1 15] = true ∧
    allIssue st [.incupd {} 1 2 0, .incupdSet {} 1 2 0] = true ∧ (supState 0).cx.sup = true ∧ st.cx.sup = false ∧
    st.writesOut st.cx.id = false ∧ ({ st with dev := { st.dev with incmode := 0x8000 } } : State).dev.incmode.getLsbD (15 : Reg).toNat = true ∧
    (fmtVal .f32 (fld (0x7fc0000000000000 : Word) 32 32)).isNan = true ∧ (fmtVal .f32 (fld (0x8000000000000000 : Word) 32 32)).isNan = false := by
  decide +kernel

theorem test_hyp_IncumbentsKeepTheBetterKey_better :
    betterKey false (asKey false 0x7ffffffe) 0x7fffffff ∧ ¬ betterKey false (asKey false 0x7fffffff) 0x7fffffff ∧
    betterKey true (asKey true 0x8000000000000000) 0x7fffffff := by
  refine ⟨.inr ⟨by decide, by decide⟩, ?_, .inr (.inr ⟨by decide +kernel, by decide⟩)⟩
  rintro (h | ⟨-, h⟩) <;> revert h <;> decide

/-- The image of a kernel's region block with a class and a count, and a port whose launch is checked. -/
def block (kind flags count : Nat) : Nat := kind + flags * 2 ^ 8 + 2 ^ 16 + 2 ^ 32 + count * 2 ^ 192 + 2 ^ 256
def portAt (addr : Word) (wr : BitVec 4) (token : Word) : Port :=
  { st := 1, capWr := wr, capAddr := addr, capToken := token, granted := true, root := 0x10000 }
def launching (p : Port) (blk : Nat) : State :=
  { dx 0x1080 0x1081 0x7000 with
    mem := (dx 0 0 0).mem.writeN 0x20080 128 blk, dev := { dm.dev with ports := dm.dev.ports.set 63 p } }
/-- A tree that is accepted, or rejected with a code, and whether a walk of it waits to set ACC. -/
def treeIs (q : Req) (s : State) (root : Word) (code : Option (BitVec 8)) (waits : Bool := false) : Bool :=
  match s.checkTree q root, code with
  | (t, .error (c, _)), some d => c == d && s.marksWait t == waits
  | (t, .ok _), none => s.marksWait t == waits
  | _, _ => false
theorem tree_ok {q : Req} {s : State} {root : Word} {w : Bool} (h : treeIs q s root none w = true) :
    ∃ t nodes, s.checkTree q root = (t, .ok nodes) ∧ s.marksWait t = w := by
  unfold treeIs at h
  cases hc : s.checkTree q root with
  | mk t r =>
    rw [hc] at h
    cases r with
    | ok n => exact ⟨t, n, rfl, eq_of_beq h⟩
    | error _ => simp at h
theorem tree_error {q : Req} {s : State} {root : Word} {c : BitVec 8} (h : treeIs q s root (some c) = true) :
    ∃ t bad, s.checkTree q root = (t, .error (c, bad)) ∧ s.marksWait t = false := by
  unfold treeIs at h
  cases hc : s.checkTree q root with
  | mk t r =>
    rw [hc] at h
    cases r with
    | ok _ => simp at h
    | error e => simp only [Bool.and_eq_true, beq_iff_eq] at h; exact ⟨t, e.2, by rw [← h.1], h.2⟩

theorem test_hyp_LaunchPortsTakeTheirRegisters :
    st.dev.recov = false ∧
      (launching (portAt 0x1080 15 1) 0 |>.port 63).st = 1 ∧ (st.port 0).st ≠ 1 ∧
    ({ st with dev := { st.dev with recov := true, fwok := true } } : State).dev.recov = true ∧ (63 : BitVec 6) ≠ 0 := by decide +kernel

theorem test_hyp_LaunchesAreCheckedAndQueued :
    ([portAt 0x1080 15 1, portAt 0x1080 14 0, portAt 0x1081 15 0].all fun p => let s := launching p (block 1 0 4)
      decide ((s.port 63).st = 1 ∧ s.dev.launches = [])) = true ∧ (portAt 0x1080 14 0).capWr ≠ 15 ∧
    (portAt 0x1080 15 0x100000000).check ≠ (portAt 0x1080 15 0x100000000).capToken.extractLsb' 32 32 ∧
    (portAt 0x1081 15 0).capAddr &&& 0xff0000000000007f ≠ 0 ∧
    (let p := portAt 0x1080 15 1
     p.granted = true ∧ p.check = p.capToken.extractLsb' 32 32 ∧ p.asid = p.capToken.extractLsb' 16 16 ∧
     p.capAddr &&& 0xff0000000000007f = 0 ∧ p.capToken &&& 0xfffc = 0 ∧ p.capFlags &&& 0xfffffffffffffe00 = 0) ∧
    (∃ t nodes, (launching (portAt 0x1080 15 1) (block 1 0 4)).checkTree (portAt 0x1080 15 1).req 0x1080 = (t, .ok nodes) ∧
      (launching (portAt 0x1080 15 1) (block 1 0 4)).marksWait t = false) ∧
    (∃ t bad, (launching (portAt 0x1080 15 1) (block 5 0 4)).checkTree (portAt 0x1080 15 1).req 0x1080 = (t, .error (0x01, bad)) ∧
      (launching (portAt 0x1080 15 1) (block 5 0 4)).marksWait t = false) ∧
    (∃ t bad, (launching (portAt 0x1080 15 1) (block 1 8 4)).checkTree (portAt 0x1080 15 1).req 0x1080 = (t, .error (0x02, bad)) ∧
      (launching (portAt 0x1080 15 1) (block 1 8 4)).marksWait t = false) ∧
    (∃ t bad, (launching (portAt 0x1080 15 1) (block 1 0 0)).checkTree (portAt 0x1080 15 1).req 0x1080 = (t, .error (0x03, bad)) ∧
      (launching (portAt 0x1080 15 1) (block 1 0 0)).marksWait t = false) ∧
    (launching (portAt 0x1080 15 1) 0).treeRead (portAt 0x1080 15 1).req (0x7000 : Word).toNat 128 = none ∧ (0x1081 : Word).toNat % 128 ≠ 0 ∧
    allIssue (launching (portAt 0x1080 15 1) (block 1 0 4)) [.regl {} 1 1, .regl {} 1 3] = true ∧
    (∃ t nodes, (launching (portAt 0x1080 15 1) (block 1 0 4)).checkTree (launching (portAt 0x1080 15 1) (block 1 0 4)).reglReq 0x1080 = (t, .ok nodes) ∧
      (launching (portAt 0x1080 15 1) (block 1 0 4)).marksWait t = false) ∧
    (∃ t bad, (launching (portAt 0x1080 15 1) (block 1 0 4)).checkTree (launching (portAt 0x1080 15 1) (block 1 0 4)).reglReq 0x7000 = (t, .error (0x09, bad)) ∧
      (launching (portAt 0x1080 15 1) (block 1 0 4)).marksWait t = false) ∧
    (let l : Launch := { num := 0, st := .queued, nodes := [kern], towers := 255 }
     let s : State := { st with dev := { st.dev with launches := [l] } }
     s.launch? 0 = some l ∧ s.excluded l = false ∧ s.queuesFull l = false ∧ (s.dev.launches.takeWhile fun y => y.num != 0) = [] ∧
     l.inTower 7 = true) := by
  refine ⟨?_, ?_, ?_, ?_, ?_, tree_ok ?_, tree_error ?_, tree_error ?_, tree_error ?_, ?_, ?_, ?_, tree_ok ?_, tree_error ?_, ?_⟩ <;>
    decide +kernel

theorem one_of {α : Type} {l : List α} {f : α → Bool} (h : (match l with | [q] => f q | _ => false) = true) : ∃ q, l = [q] ∧ f q = true := by
  match l, h with
  | [q], h => exact ⟨q, rfl, h⟩

/-- The launch of `kern` in tower 0, which takes placements; nothing of it runs. -/
def placing : State := { st with
  tw := { st.tw with ready := true }
  dev := { st.dev with launches := [{ num := 0, st := .live, towers := 1, nodes := [{ kern with placed := 0, caps := { cores := 1 } }] }] }
  cx := {} }
def spotIs (o : Option Spot) (c : BitVec 12) : Bool :=
  match o with
  | some (.core d) => c == d
  | _ => false
theorem spot_of {o : Option Spot} {c : BitVec 12} (h : spotIs o c = true) : o = some (.core c) := by
  unfold spotIs at h
  split at h
  · rw [eq_of_beq h]
  · cases h

/-- A pool's slot that waits for the record at 0x1000: pc 0x100, no registers, a bound, phase 1. -/
def waiting (bound : Nat) : State :=
  let s := inTask (pool 1) (xs 0 0 0)
  { s with
    cx := { s.cx with phase := .awaitTask, task := 0 }
    mem := s.mem.writeN 0x20000 64 (0x100 + bound * 2 ^ 128 + 5 * 2 ^ 160 + 2 ^ 192) }

/-- `waiting` with a phase byte of 3 at the head, in a tower that takes placements. -/
def badRing : State :=
  let s := waiting 5
  { s with tw := { s.tw with ready := true }, mem := s.mem.writeN 0x20018 1 3 }

theorem test_hyp_WorkIsPlacedAndDispatched :
    (∃ q, (badRing.queuesOf 0).find? (fun q => q.n.kind == .pool && badRing.poolServed q.l q.k q.n && badRing.headBad q.l q.n) = some q ∧
      badRing.node? q.l.num q.k = some q.n) ∧
    (∃ q, ((placing.queuesOf 0).filter fun q => (placing.spotFor 0 q).isSome) = [q] ∧
      (q.n.kind == .kernel && spotIs (placing.spotFor 0 q) 0 && decide (0 < q.n.tickets)) = true) ∧
    ((placing.queuesOf 0).all fun q => q.n.kind == .kernel) = true ∧
    ((placing.queuesOf 1).all fun q => (placing.spotFor 1 q).isNone && q.n.kind != .pool) = true ∧
    (let s := waiting 5
     s.ctx? 1 = some s.cx ∧ s.cx.phase = .awaitTask ∧ s.cx.leaf = some (0, 0) ∧ s.node? 0 0 = some (pool 1) ∧ (pool 1).resumes = [] ∧
     (match s.launch? 0 with
       | some l => s.poolReady l 0 (pool 1) s.cx.coreid &&
           (match s.deviceRead l.ptbase ((pool 1).slotAddr (pool 1).cons) 256 with
             | some (v, _) => decide (v = 0x100 + 5 * 2 ^ 128 + 5 * 2 ^ 160 + 2 ^ 192) | none => false)
       | none => false) = true) ∧
    (∀ b ∈ [0, 0x7fffffff], let r : BitVec 2048 := BitVec.ofNat 2048 (0x100 + b * 2 ^ 128 + 5 * 2 ^ 160 + 2 ^ 192)
      recordInvalid r (auxPool (pool 1).aux) = false ∧ rb2 r 0x16 1 < 128 ∧ rb2 r 0x10 4 = b) ∧
    noBetter false 0x7fffffff (fld (waiting 5).tw.shadows[(0 : Fin 16)] 32 32) ∧
    ¬ noBetter false 0 (fld (waiting 5).tw.shadows[(0 : Fin 16)] 32 32) := by
  refine ⟨?_, one_of ?_, ?_, ?_, ?_, ?_, ?_, ?_⟩
  · have h : got (match (badRing.queuesOf 0).find? (fun q => q.n.kind == .pool && badRing.poolServed q.l q.k q.n && badRing.headBad q.l q.n)
        with | some q => Except.ok q | none => .error ()) (fun q => decide (badRing.node? q.l.num q.k = some q.n)) = true := by decide +kernel
    obtain ⟨q, h1, h2⟩ := got_ok h
    refine ⟨q, ?_, by simpa using h2⟩
    split at h1
    · injection h1 with h1; rw [← h1]; assumption
    · cases h1
  all_goals first | decide +kernel | (unfold noBetter; decide +kernel)

/-- Context 1 of a kernel of class 0 with one save slot, and a kernel of class 1 with PREEMPT that fits nowhere. -/
def victims : State :=
  let low : Node := { kern with cls := 0, save := 0x100000, saven := 1 }
  let high : Node := { kern with cls := 1, preempt := true, placed := 0, caps := {} }
  { leafy low with dev := { st.dev with launches := [{ num := 0, st := .live, towers := 1, nodes := [low] },
      { num := 1, st := .live, towers := 1, nodes := [high] }] } }
/-- The same context, switched out. -/
def out : State := (leafy { kern with save := 0x100000, saven := 1 }).upd fun c => { c with phase := .switchedOut, saveSlot := some 0 }

/-- The same over the pages of `dm`, whose save slots lie so that the bricks, or the predicates, fall on page 1. -/
def outPaged : State := { dm with
  cx := { dm.cx with phase := .switchedOut, saveSlot := some 0, leaf := some (0, 0) }, dev := out.dev }

theorem test_hyp_ContextsComeAndGoAndNodesRetire :
    (victims.ctx? 1 = some victims.cx ∧ victims.isVictim victims.cx = true ∧ victims.cx.gang = none ∧ victims.canSwitch victims.cx = true ∧
      victims.assisted 2 = false ∧ victims.saveSlots victims.cx = [0] ∧ victims.cx.id = 1 ∧ (leafy kern).isVictim (leafy kern).cx = false ∧
      victims.cx.replay = none ∧ victims.cx.stall = .none) ∧
    (let s : State := { victims with dev := { victims.dev with ha := 4 } }
     s.assisted 2 = true ∧ s.saving = false ∧ s.isVictim s.cx = true ∧ s.canSwitch s.cx = true ∧ s.ctx? 1 = some s.cx) ∧
    (let s := out.upd fun c => { c with phase := .stopped, hostSave := .answered }
     s.ctx? 1 = some s.cx ∧ s.cx.gang = none ∧ s.layersFree s.cx 0 = true ∧ s.cx.vp = none) ∧
    (let s := layer0 .streaming (out.upd fun c => withHandle { c with phase := .stopped, hostSave := .answered } heldRow)
     s.ctx? 1 = some s.cx ∧ s.layersFree s.cx 0 = false) ∧
    (out.ctx? 1 = some out.cx ∧ out.cx.id = 1 ∧ out.cx.phase = .switchedOut ∧ out.cx.gang = none ∧ out.resumeFits out.cx 0 = true ∧
      out.resumeFits out.cx 512 = false ∧ out.lowerOut out.cx = false ∧ st.cx.phase ≠ .switchedOut ∧ st.cx.phase ≠ .stopped ∧
      out.resumeCaps [out.cx] [0] (towerOf 0) = true) ∧
    (let s : State := { outPaged with cx := { c0 with id := 2 }, others := [outPaged.cx] }
     s.ctx? 1 = some outPaged.cx ∧ s.cx.id ≠ 1 ∧ outPaged.cx.vp = none ∧ s.resumeFits outPaged.cx 0 = true ∧
     s.slotAt outPaged.cx.ptbase (0x1000 - 0x3000) 0x3000 512 = some 0 ∧ s.slotAt outPaged.cx.ptbase (0x1000 - 0xd000) 0xd000 2048 = some 0) ∧
    (let l : Launch := { num := 0, st := .live, nodes := [{ kind := .interior, kids := [1], irq := true }, { kern with placed := 4, parent := some 0, retired := true }] }
     let s : State := { st with dev := { st.dev with launches := [l] } }
     s.launch? 0 = some l ∧ (l.nodes[0]?).isSome = true ∧ s.mayRetire l 0 { kind := .interior, kids := [1], irq := true } = true ∧
     ∀ z ∈ s.dev.launches, z.num = 0 → z.issuer = none) ∧
    (let y : Node := { kern with placed := 4, parent := some 0 }
     let l : Launch := { num := 0, st := .live, nodes := [{ kind := .interior, kids := [1] }, y] }
     let s : State := { st with dev := { st.dev with launches := [l] } }
     s.launch? 0 = some l ∧ l.nodes[1]? = some y ∧ s.mayRetire l 1 y = true ∧ s.mayRetire l 0 { kind := .interior, kids := [1] } = false ∧
     (s.retireNode l 1 y).pend = s.pend) ∧
    (let y : Node := { kern with placed := 4, done := 0x3f80 }
     let l : Launch := { num := 0, st := .live, ptbase := dm.cx.ptbase, nodes := [y] }
     let s : State := { otherRow with cx := { otherRow.cx with phase := .absent }, dev := { st.dev with launches := [l] } }
     s.launch? 0 = some l ∧ l.nodes[0]? = some y) ∧
    kern.flt = none ∧ ({ kern with flt := some (3, 0x0a) } : Node).flt = some (3, 0x0a) := by decide +kernel

/-- Memory with a pending access at the start of its list. -/
def waitsFor (e : Pend) : State := { dm with pend := [e] }
def word4 : List (Nat × Nat) := [(0x20000, 0x20000), (0x20001, 0x20001), (0x20002, 0x20002), (0x20003, 0x20003)]
/-- A store into the row that a context holds. -/
def rowStore : State := { selfRow with pend := [.store (some 9) 0 [(0x4000000, 0x4000000)] [(0xff, 1)] none false] }
/-- A place of peer memory. -/
def afar : Nat × Nat := (2 ^ 48, 2 ^ 48)

theorem test_hyp_OtherAgentsReadAndReplace :
    (let e : Pend := .store (some 1) 0x1000 word4 (whole 4 7) none false
     (waitsFor e).pend[0]? = some e ∧ (waitsFor e).earlier 0 e = false ∧ (waitsFor e).rowsLet (some 1) true word4 = true ∧
     word4.length = (whole 4 7).length ∧ (word4.map Prod.snd).Nodup) ∧
    (let e : Pend := .store (some 1) 0x1000 word4 (whole 4 7) (some 1) false
     let s : State := { dm with pend := [e, e] }
     s.pend[1]? = some e ∧ s.earlier 1 e = true) ∧
    rowStore.rowsLet (some 9) true [(0x4000000, 0x4000000)] = false ∧ selfRow.rowsLet none false [(0x4000000, 0x4000000)] = false ∧
    (let e : Pend := .update 1 .g word4 .f32 .rne 0x3f800000
     (waitsFor e).pend[0]? = some e ∧ (waitsFor e).earlier 0 e = false ∧ 8 * word4.length = Fmt.f32.sew ∧ Fmt.i32.sew = 8 * word4.length) ∧
    ([RangeOp.flush, .inval, .seal].all fun op =>
      let w : Walk := ⟨3, 1, op, [(0x20000, 4096)]⟩
      let s : State := { st with dev := { st.dev with walks := [w] } }
      let t : State := { s with pend := [.store (some 1) 0 word4 (whole 4 7) none false] }
      decide (s.dev.walks.find? (fun x => x.num == w.num) = some w) && !s.writesOut 1 && t.writesOut 1) = true ∧
    (0x20000 : Word).toNat + 16 ≤ 2 ^ 39 ∧ dm.rowsLet none false word4 = true ∧ isHost (0x100000000000 : Word).toNat = true ∧
    dm.layerWaits none (.g [⟨0x20000, 0x20000, false⟩]) = false ∧
    State.layerWaits { selfRow with tw := { selfRow.tw with arraysOff := true } } none (.g [⟨0x4000000, 0x4000000, false⟩]) = true ∧
    (0x20000 : Word).toNat % 4 = 0 ∧ (0x20000 : Word).toNat / 128 ∉ dm.poison ∧
    (st.ctx? 1 = some st.cx ∧ st.cx.phase = .running ∧ st.cx.stall = .none ∧ st.pend = [] ∧ st.cx.cp.fifo = [] ∧ st.cx.gt.fifo = [] ∧
     ∀ k : Fin 64, (st.core st.cx.coreid).graph[k].st ≠ .running) ∧
    (let s := st.upd fun c => { c with stall := .again, cp := { c.cp with fifo := [⟨0, 0⟩] } }
     s.ctx? 1 = some s.cx ∧ s.cx.stall ≠ .none ∧ s.cx.cp.fifo ≠ [] ∧ s.cx.gt.fifo = [] ∧
     ∀ k : Fin 64, (s.core s.cx.coreid).graph[k].st ≠ .running) ∧
    isPeer afar.1 = true ∧
    (let s : State := { st with
       cx := {}
       tw := { st.tw with susp := [⟨(0, 0), 0, .load (2 ^ 48) 0x100 0x7000, .none, none⟩] }
       pend := [.load 0 (0, 0) [afar] false] }
     s.ctx? 1 = none ∧ s.loadWaiter 0 (0, 0) afar.1 = some (0, 0x100, 0x7000) ∧ (s.tower 0).susp.length = 1) := by
  decide +kernel

/-- A context that the host has been asked about. -/
def asked (q : Ask) (f : Ctx → Ctx) : State :=
  let s := leafy { kern with fdom := some 1 }
  { s with cx := f { s.cx with phase := .stopped }, dev := { s.dev with asks := [(7, q)] } }

theorem test_hyp_TheHostAnswersItsEvents :
    (let s := asked (.xlate 1 .dataXlate 0x7000) id
     s.askOf 7 = some (.xlate 1 .dataXlate 0x7000) ∧ s.ctx? 1 = some s.cx ∧ s.cx.phase = .stopped ∧ s.askOf 8 = none) ∧
    (let s := asked (.fault 1) id
     s.askOf 7 = some (.fault 1) ∧ s.cx.leaf = some (0, 0) ∧ ((s.node? 0 0).bind Node.fdom) = some 1) ∧
    (let s := asked (.save 1) id
     s.askOf 7 = some (.save 1) ∧ s.ctx? 1 = some s.cx ∧ s.cx.id = 1 ∧ s.cx.gang = none ∧ s.cx.vp = none ∧ (s.ctxs.map Ctx.id).Nodup ∧
     (∀ k : Fin 16, s.cx.h[k].bound = false) ∧ ∀ y ∈ s.ctxs, y.hostSave ≠ .waits) ∧
    (asked (.poison 5) id).askOf 7 = some (.poison 5) ∧
    (let s : State := { st with dev := { st.dev with asks := [(7, .launch 0)], launches := [{ num := 0, st := .validating, page := some 63 }] } }
     s.askOf 7 = some (.launch 0) ∧ (s.launch? 0).map Launch.page = some (some 63)) := by decide +kernel

theorem test_hyp_TheControlBlockTakesItsWrites :
    st.live = false ∧ (leafy kern).live = true ∧ st.dev.evwait = [] ∧
    (let e : Event := ⟨2, 0, 0, 0, 0, none⟩
     let d : Device := { st.dev with evwait := [e], evprod := 16 }
     d.evwait = [e] ∧ ringFull d = true ∧ ringFull { d with evcons := 1 } = false) ∧ st.inSlot 0 false = some st.cx ∧ st.dev.snapHeld = false ∧ st.assisted 4 = false ∧
    ({ st with dev := { st.dev with ha := 0x10, fwok := true } } : State).assisted 4 = true := by decide +kernel

theorem test_hyp_BringUpAndAttestation :
    (let s : State := { st with dev := { st.dev with fwok := true } }
     s.dev.fwok = true ∧ (s.tower 0).early = false ∧ (s.tower 0).ready = false ∧ (s.tower 1).early = false) ∧
    (let s : State := { st with dev := { st.dev with fwok := true }, towers := (List.range 8).map fun k => (k, { early := true }) }
     (s.tower 0).early = false ∧ ∀ k : BitVec 3, k ≠ 0 → (s.tower k).early = true) ∧ st.dev.fwok = false := by decide +kernel

/-- `st` with slice 3 of tower 0 at a level. -/
def hot (x : Slice) : State := (st.setSlice 0 3 x).upd fun c => { c with status := 0x40 }

theorem test_hyp_HeatErrorsAndClocks :
    ((hot {}).slice 0 3).level = 0 ∧ ((hot { level := 1 }).slice 0 3).level = 1 ∧
    ((hot { level := 2, evac := true }).slice 0 3).level = 2 ∧ ((hot { level := 2, evac := true }).slice 0 3).evac = true ∧
    ((hot {}).tower 0).arraysOff = false ∧ (hot {}).cool 0 = true ∧ (hot { level := 1 }).cool 0 = false ∧ bitOf (hot {}).cx.status 6 = true ∧
    bitOf (hot {}).cx.tvec 0 = true ∧ towerOf (hot {}).cx.coreid = 0 ∧ (hot {}).cx.phase = .running ∧ 0 < (hot {}).cx.cavepart ∧
    ({ (hot {}).tw with tlim := true, arraysOff := true } : Tower).tlim = true ∧
    isDram (0x7fffffffff : Word).toNat = true ∧ isHost (0x100000000000 : Word).toNat = true ∧ (7 : BitVec 8).toNat ≤ 7 ∧
    st.ctx? 1 = some st.cx := by decide +kernel

/-! #### Clauses about what an access meets, and others that stand apart -/

/-- `code w` whose last table lies in peer memory, with a peer access that gets no completion. -/
def farCode (w : Nat) : State :=
  { (code w).upd fun c => { c with stall := .peerLost 0 } with mem := (code w).mem.writeN 0x13000 8 (2 ^ 48 + 1) }
/-- `code w` with the arrays of the tower off and a context of core 4 that holds the row of its tables. -/
def barred (w : Nat) : State := { code w with
  tw := { (code w).tw with arraysOff := true }
  others := [withHandle { c0 with id := 2, coreid := 4 } { heldRow with entry := BitVec.ofNat 512 (4 + 2 ^ 48 + 2 ^ 49 + 2 ^ 56 + 2 ^ 128) }] }

theorem test_hyp_StepRunsTheDecodedInstruction_meets :
    (code 0xfec10c10).fetchMeets = none ∧ ((code 0).upd fun c => { c with pc := 2 }).fetchMeets = none ∧
    (pendingTrap 0).fetchMeets = none ∧ (pendingTrap 3).fetchMeets = none ∧
    (∀ c v, (farCode 0).cx.stall ≠ .raise c v) ∧ (barred 0).fetchMeets = some (0, false) ∧ (barred 0).asyncDue = false ∧
    (barred 0).cx.stall = .none ∧ (∀ c ∈ st.ctxs, ∀ k : Fin 16, c.h[k].group.claim = none) ∧ ∀ k, st.cx.stall ≠ .peerLost k := by
  refine ⟨?_, ?_, ?_, ?_, by simp [farCode, State.upd], ?_, ?_, rfl, ?_, by simp [st, c0]⟩ <;> decide +kernel

/-- Where peer 0 is there, its first bytes lie where their addresses say. -/
theorem locate_far (s : State) (hp : Config.peerPresent 0 = true) (hi : Config.peerIndex.toNat ≠ 0) {k : Nat} (hk : k < 4096) :
    s.locate false (2 ^ 48 + k) = some ⟨2 ^ 48 + k, 2 ^ 48 + k, false⟩ := by
  have h1 : (2 ^ 48 + k - 2 ^ 48) / 2 ^ 41 = 0 := by omega
  have h2 : (2 ^ 48 + k - 2 ^ 48) % 2 ^ 41 < 2 ^ 39 := by omega
  have h3 : isDram (2 ^ 48 + k) = false ∧ isReg (2 ^ 48 + k) = false ∧ isHost (2 ^ 48 + k) = false ∧ isPeer (2 ^ 48 + k) = true := by
    simp only [isDram, isReg, isHost, isPeer, decide_eq_false_iff_not, decide_eq_true_eq]; omega
  have h4 : (2 ^ 48 + k - 2 ^ 48) % 2 ^ 41 ≥ 2 ^ 39 ↔ False := by
    simp only [ge_iff_le, iff_false, not_le]; exact h2
  simp only [State.locate, h3, h1, hp, Ne.symm hi, h4]
  rfl

/-- Where peer 0 is there and does not answer, a fetch through its tables fails. -/
theorem test_hyp_StepRunsTheDecodedInstruction_lost (hp : Config.peerPresent 0 = true) (hi : Config.peerIndex.toNat ≠ 0) :
    (farCode 0).fetchMeets = some (0, true) := by
  have h0 : walkLocs (farCode 0) (some 0) 0 0 (2 ^ 48) = [⟨2 ^ 48, 2 ^ 48, false⟩] := by
    have := locate_far (farCode 0) hp hi (k := 0) (by decide)
    simp only [Nat.add_zero] at this
    unfold walkLocs
    simp only [show pteAddr 0 0 (2 ^ 48) = 2 ^ 48 by decide, show isReg (2 ^ 48) = false by decide, Bool.false_eq_true, if_false, this]
  have step (k a n : Nat) (h : (farCode 0).locate false a = some ⟨a, a, false⟩) (hr : isReg a = false)
      (he : (let e := (farCode 0).readPte (some 0) ⟨a, a, false⟩
        (bitOf e 0 && !bitOf e 1 && !pteBad e) && fld e 12 40 * 4096 == n) = true)
      (hw : (walkLocs (farCode 0) (some 0) 0 k n).any (fun l => isPeer l.pa) = true) :
      (walkLocs (farCode 0) (some 0) 0 (k + 1) a).any (fun l => isPeer l.pa) = true := by
    have ha : pteAddr 0 (k + 1) a = a := by simp [pteAddr]
    simp only [Bool.and_eq_true, beq_iff_eq] at he
    unfold walkLocs
    simp only [ha, hr, h, Bool.false_eq_true, if_false, Bool.and_eq_true, he, and_self, if_true, List.any_append, hw, Bool.true_or]
  have hw : (walkLocs (farCode 0) (some 0) 0 4 0x10000).any (fun l => isPeer l.pa) = true := by
    refine (step 3 _ 0x11000 ?_ ?_ ?_ (step 2 _ 0x12000 ?_ ?_ ?_ (step 1 _ 0x13000 ?_ ?_ ?_ (step 0 _ (2 ^ 48) ?_ ?_ ?_ ?_))))
    any_goals rw [h0]
    all_goals decide +kernel
  have hm : (farCode 0).walkMeets (farCode 0).cx .g .fetch 0 4 = .lost := by
    have h1 : (farCode 0).walkMeetsAt (farCode 0).cx .fetch 0 = .lost := by
      unfold State.walkMeetsAt
      rw [if_neg (by decide +kernel)]
      rw [if_pos]
      have : walkLocs (farCode 0) (some (towerOf (farCode 0).cx.coreid)) (0 : Word).toNat 4 (fld (farCode 0).cx.ptbase 11 37 * 2048) = walkLocs (farCode 0) (some 0) 0 4 0x10000 := by
        congr 1
      rw [this, hw]; rfl
    unfold State.walkMeets
    simp only
    rw [if_neg (by decide +kernel)]
    rw [show (List.range (((0 : Word).toNat % 4096 + 4 + 4095) / 4096)) = [0] by decide]
    simp only [List.map_cons, List.map_nil, if_true, h1]
    rfl
  unfold State.fetchMeets
  rw [if_neg (by decide +kernel), show (farCode 0).cx.nestNow = none by decide +kernel]
  simp only [State.instrMeets, State.wordMeets]
  rw [show (farCode 0).cx.pc = 0 by rfl, hm]
  rfl

/-- A VP that has run its 256 instructions, one of a block that a handler holds, and one that runs. -/
theorem test_hyp_LastDecodeChecksInOrder_vp :
    (vpState 3 256 0).cx.spent = true ∧ (∃ b, (vpState 3 256 0).cx.vp = some b ∧ b.held = 0 ∧ 256 ≤ b.count ∧
      (vpState 3 256 0).cx.pc ≠ b.last) ∧ fetched (.add {} 1 2 (.reg 3)) = true ∧
    (∃ b, (withC fun c => { c with vp := some ⟨0x104, 0x200, false, [0], 0, [], 0, 1⟩ }).cx.vp = some b ∧ b.held ≠ 0) ∧
    vpRuns (.add {} 1 2 (.reg 3)) = true ∧ vpRuns (.vadd {} 1 2 3) = false ∧
    (vpState 3 0 0).cx.replay = none ∧ (vpState 3 0 0).cx.harm = false :=
  ⟨by decide +kernel, ⟨_, rfl, rfl, by decide, by decide⟩, rfl, ⟨_, rfl, by decide⟩, rfl, rfl, rfl, rfl⟩

/-- The end of the body of a nest. -/
theorem test_hyp_PressRunsItsNest_end :
    (let c := (inNest 2).cx
     c.replay = none ∧ c.vpNow = none ∧ c.nestNow = some (nestAt 2)) ∧
    ({ (inNest 2).cx with pc := 0x10c } : Ctx).pc + BitVec.ofNat 64 4 = (nestAt 2).after := by decide +kernel

/-- Entries of a walk: none at all, on a poisoned line, not valid, a leaf, and a table. -/
theorem test_hyp_TranslationAndPromotion_walk :
    isReg 0x8000000000 = true ∧ dm.locate false (2 ^ 40) = none ∧ isReg 0x14008 = false ∧
    dm.locate false 0x14008 = some ⟨0x14008, 0x14008, false⟩ ∧
    ({ dm with poison := [0x14008 / 128] } : State).poison.contains (lineOf 0x14008) = true ∧ dm.poison.contains (lineOf 0x14008) = false ∧
    (let e := dm.readPte none ⟨0x14100, 0x14100, false⟩
     bitOf e 0 = false) ∧
    (let e := dm.readPte none ⟨0x14008, 0x14008, false⟩
     bitOf e 0 = true ∧ fld e 52 2 = 0 ∧ fld e 7 2 = 0 ∧ bitOf e 1 = true ∧ (bitOf e 3 = true → bitOf e 2 = true) ∧
     fld e 12 40 * 4096 % 2 ^ 12 = 0) ∧
    (let e := dm.readPte none ⟨0x10000, 0x10000, false⟩
     bitOf e 0 = true ∧ fld e 52 2 = 0 ∧ fld e 7 2 = 0 ∧ bitOf e 1 = false ∧ fld e 54 2 = 0 ∧ fld e 9 3 = 0 ∧ fld e 2 5 = 0) ∧
    (∀ k < 8, isPeer (0x14008 + k) = false) ∧ dm.dev.frames.contains ((0x200000 : Word).toNat / 2 ^ 21) = false := by decide +kernel

/-- Tables that nothing holds back, for each access that a statement walks for. -/
theorem test_hyp_StoresWriteTheirBytes_walk :
    otherRow.walkMeets otherRow.cx .g .store 0x5000 8 = .free ∧ selfRow.walkMeets selfRow.cx .g .store 0x5000 8 = .free ∧
    (dx 0 0 0).walkMeets (dx 0 0 0).cx .g .atomic 0x3008 8 = .free ∧
    (dx 0x1ff0 0x20 0).walkMeets (dx 0x1ff0 0x20 0).cx .g .load 0x1ff0 0x20 = .free ∧
    (let s := inTask (pool 0) (xs 0x1000 0x1008 1)
     s.walkMeets s.cx .g .load (s.cx.readX 1) 64 = .free) ∧
    vendAt.wordMeets 4 = none ∧ vendAt.wordMeets 8 = none := by decide +kernel

/-- sscale.st as the first vector store of its context. -/
theorem test_hyp_VectorConfigurationIsSet_store :
    ∃ t p, canonical t ∧ stores (dx 0 0 0) { num := some (dx 0 0 0).cx.stores } .g 0x1000 128 t p :=
  stores_of (dx_canonical 0 0 0) (by decide +kernel)

/-- Between two values of f16, beyond the largest value of M4, and between neighbours of M4. -/
theorem test_hyp_RoundingChoosesANeighbour :
    (∃ c y, finite .f16 c y ∧ |ratOf ⟨1, 3⟩| ≤ |y|) ∧ (∀ c y, finite .m4 c y → |y| < |ratOf ⟨1000, 1⟩|) ∧
    (∃ c c' lo hi, finite .m4 c lo ∧ finite .m4 c' hi ∧ lo < ratOf ⟨1, 100⟩ ∧ ratOf ⟨1, 100⟩ < hi ∧
      ∀ e y, finite .m4 e y → ¬ (lo < y ∧ y < hi)) ∧ Fmt.f16.isInt = false ∧ Rm.rne ≠ .dyn ∧ (⟨1, 3⟩ : Frac).num ≠ 0 := by
  have h (P : Frac → Bool) (hp : ∀ c < 16, (match fmtVal .m4 c with | .num _ u => P u | _ => true) = true) :
      ∀ c y, finite .m4 c y → ∃ u, ratOf u = y ∧ P u = true := by
    rintro c y ⟨hc, n, u, hu, rfl⟩
    have := hp c hc
    rw [hu] at this
    exact ⟨u, rfl, this⟩
  refine ⟨⟨0x3c00, 1, ⟨by decide, false, ⟨1024, 1024⟩, by decide +kernel, by norm_num [ratOf]⟩, by norm_num [ratOf]⟩, fun c y hy => ?_,
    ⟨0, 1, 0, ratOf ⟨4, 40⟩, ⟨by decide, false, ⟨0, 1⟩, by decide +kernel, by norm_num [ratOf]⟩,
      ⟨by decide, false, ⟨4, 40⟩, by decide +kernel, rfl⟩, by norm_num [ratOf], by norm_num [ratOf], fun e y hy => ?_⟩, rfl, by decide, by decide⟩
  · obtain ⟨u, rfl, hu⟩ := h (fun u => decide ((u.den = 1 ∨ u.den = 40) ∧ u.num.natAbs < 1000)) (by decide +kernel) c y hy
    obtain ⟨hd, hn⟩ := of_decide_eq_true hu
    have hn' : |(u.num : ℚ)| < 1000 := by
      have : |u.num| < 1000 := by rw [Int.abs_eq_natAbs]; exact_mod_cast hn
      exact_mod_cast this
    rw [show |ratOf ⟨1000, 1⟩| = 1000 by norm_num [ratOf], ratOf, abs_div]
    obtain hd | hd := hd <;> rw [hd] <;> norm_num
    · exact hn'
    · rw [div_lt_iff₀ (by norm_num)]
      linarith
  · obtain ⟨u, rfl, hu⟩ := h (fun u => decide (u.num ≤ 0 ∨ (u.den = 40 ∧ 4 ≤ u.num))) (by decide +kernel) e y hy
    rintro ⟨h1, h2⟩
    obtain hn | ⟨hd, hn⟩ := of_decide_eq_true hu
    · have : ratOf u ≤ 0 := div_nonpos_of_nonpos_of_nonneg (by exact_mod_cast hn) (by positivity)
      linarith
    · have : ratOf ⟨4, 40⟩ ≤ ratOf u := by
        rw [ratOf, ratOf, hd]
        have : (4 : ℚ) ≤ u.num := by exact_mod_cast hn
        norm_num
        linarith
      linarith

/-- The square root, the minimum and the maximum of numbers: zeros, signs and an equal pair. -/
theorem test_hyp_ExactValuesBehindRounding_more :
    (⟨0, 1⟩ : Frac).num = 0 ∧ (⟨-1, 2⟩ : Frac).num ≠ 0 ∧ (0 : Int) < (⟨2, 1⟩ : Frac).num ∧ (⟨2, 1⟩ : Frac).den ≠ 0 ∧
    (Val.inf true).isNan = false ∧ Val.inf true ≠ .nar ∧ (Val.nan true).isNan = true := by decide

/-- The bounds that bnd meets on an f32 incumbent. -/
theorem test_hyp_TasksEndBoundAndSpawn_bounds :
    (fmtVal .f32 0x7fc00000).isNan = true ∧ (fmtVal .f32 5).isNan = false ∧
    (let s := inTask (pool 0) (xs 0x7fc00000 5 0)
     let t : State := { s with dev := { s.dev with incmode := 1 } }
     t.dev.incmode.getLsbD (fld t.cx.task 0 4) = true ∧ allIssue t [.bnd {} 1, .bnd {} 2] = true ∧
     (fmtVal .f32 (t.cx.bound.setWidth 32 : BitVec 32).toNat).isNan = false ∧
     (fmtVal .f32 ((t.cx.readX 1).setWidth 32 : BitVec 32).toNat).isNan = true) := by decide +kernel

/-- A folio table that lies with a peer that does not answer. -/
theorem test_hyp_HandlesBindOpenAndClose_lost :
    let s := dm.upd fun c => { c with stall := .peerLost 0 }
    s.poisoned (.g ((List.range 64).map fun k => ⟨2 ^ 48 + k, 2 ^ 48 + k, false⟩)) = false ∧
    s.peerFails (.g ((List.range 64).map fun k => ⟨2 ^ 48 + k, 2 ^ 48 + k, false⟩)) = true ∧
    fld (0 : Word) 12 3 = (towerOf s.cx.coreid).toNat ∧ fld (0 : Word) 15 33 = 0 := by decide +kernel

/-- Where peer 0 is there the table is found there. -/
theorem test_hyp_HandlesBindOpenAndClose_there (s : State) (hp : Config.peerPresent 0 = true) (hi : Config.peerIndex.toNat ≠ 0) :
    s.physical (2 ^ 48) 64 = some ((List.range 64).map fun k => ⟨2 ^ 48 + k, 2 ^ 48 + k, false⟩) := by
  have h : (List.range 64).mapM (fun k => s.locate false (2 ^ 48 + k)) = some ((List.range 64).map fun k => ⟨2 ^ 48 + k, 2 ^ 48 + k, false⟩) := by
    have : ∀ l : List Nat, (∀ k ∈ l, k < 4096) → l.mapM (fun k => s.locate false (2 ^ 48 + k)) = some (l.map fun k => ⟨2 ^ 48 + k, 2 ^ 48 + k, false⟩) := by
      intro l hl
      induction l with
      | nil => rfl
      | cons a l ih =>
        rw [List.mapM_cons, locate_far s hp hi (hl a (.head _)), ih fun k hk => hl k (.tail _ hk)]
        rfl
    exact this _ fun k hk => by have := List.mem_range.mp hk; omega
  unfold State.physical
  rw [h]
  simp only
  rw [if_neg (by decide +kernel)]

theorem test_hyp_RowControllerMovesGroupsOn_clean : (layer0 .closing dm).cleaning = [] := by decide

/-- A store that waits on the page, and a frame that holds one. -/
theorem test_hyp_PagePromotionMovesThePage_waits :
    State.inFlightAt { migrates 0x10000000080f with pend := [.store (some 1) 0x1000 [(0x100000000000, 0x100000000000)] [(0xff, 7)] none false] }
      (fun p => p.2 / 2 ^ 21 == (0x100000000000 : Nat) / 2 ^ 21) = true ∧
    ({ st.dev with frames := [1] } : Device).frames.contains ((0x200000 : Word).toNat / 2 ^ 21) = true := by decide +kernel

theorem test_hyp_TheMatrixEngineRunsItsQueue_f64 :
    let s := queued1 (.mflush 1 .f64 0 .g [] true)
    (s.core 0).queue = [.mflush 1 .f64 0 .g [] true] ∧ s.ctx? 1 = some s.cx := by decide +kernel

/-- The record of an event node, with its predecessors and its first successor. -/
def eventRec (id pred succ : Nat) : Nat := id * 2 ^ 896 + pred * 2 ^ 904 + 2 * 2 ^ 912 + (0xffffff00 + succ) * 2 ^ 928
/-- A table whose entry 1 is an event node that waits for one more, before node 2. -/
def events (succ : Nat) : Graph :=
  (dm.co.graph.set 1 { st := .waiting, owner := some (.ctx 1), pred := 1, image := BitVec.ofNat 1024 (eventRec 1 1 succ) }).set 2
    { st := .waiting, owner := some (.ctx 1), pred := 1, image := BitVec.ofNat 1024 (nodeRec 2 1 0x1000) }

theorem test_hyp_GraphNodesStartAndEnd_events :
    (∃ t v, loads (graphed {} (eventRec 2 0 0xff)) .l1 .sector .g 0x1080 (128 * 1) t v ∧ (v == eventRec 2 0 0xff) = true) ∧
    gloadBad [2] (fun _ => false) 0 (BitVec.ofNat 1024 (eventRec 2 0 0xff)) = none ∧ rb (BitVec.ofNat 1024 (eventRec 2 0 0xff)) 0x72 1 = 2 ∧
    gloadBad [2, 2] (fun _ => false) 0 (BitVec.ofNat 1024 (eventRec 2 0 0xff)) = none ∧
    gloadBad [2, 2] (fun _ => false) 1 (BitVec.ofNat 1024 (eventRec 2 0 0xff)) = some 0x70 ∧
    ((events 0xff).at 1).st = .waiting ∧ ((events 0xff).at 1).owner = some (.ctx 1) ∧ rb ((events 0xff).at 1).image 0x72 1 = 2 ∧
    ((events 0xff).at 1).pred ≤ 1 ∧ recSucc ((events 0xff).at 1).image = [] ∧ recSucc ((events 2).at 1).image = [2] ∧
    rb ((events 2).at 2).image 0x72 1 ≠ 2 ∧ recSucc ((events 2).at 2).image = [] ∧ ((events 2).at 3).st ≠ .waiting ∧
    (let s : State := { graphed {} 0 with co := { st.co with graph := (events 2).set 1 { (events 2).at 1 with pred := 0 } } }
     ((s.graph 0).at 1).st = .waiting ∧ ((s.graph 0).at 1).pred = 0 ∧ ((s.graph 0).at 1).owner = some (.ctx 1) ∧
       s.ownerStopped (.ctx 1) = false ∧ rb ((s.graph 0).at 1).image 0x72 1 = 2) ∧
    (let c : Ctx := { c0 with phase := .switchedOut }
     recSrcSpace (BitVec.ofNat 1024 (nodeRec 1 0 0x1000 + 2 ^ 232)) = 1 ∧ c.phase = .switchedOut) := by
  refine ⟨loads_and (by decide +kernel), ?_⟩
  decide +kernel

/-- A copy of two members that both stand stalled at pipe 2, which is empty. -/
def stuck : State :=
  let s := pipes [] (.qpop {} 1 2) .again
  { s with others := [{ s.cx with id := 2, coreid := 1, gang := some (0, 1) }] }

theorem test_hyp_PipesAndWatermarksCarryData_stuck :
    (stuck.copyOf 0 0 0).length = 2 ∧ (stuck.ctxs.map Ctx.id).Nodup ∧ stuck.copyOf 0 0 1 = [] ∧
    ∀ c ∈ stuck.copyOf 0 0 0, (stuck.focusOn c.id).pipeStall = some 2 ∧ stuck.engineBusy c = false ∧ stuck.trapWaits c = false ∧
      bitOf c.status 2 = false ∧ bitOf c.tvec 0 = true ∧ c.replay = none := by decide +kernel

/-! #### The draw, and what it places -/

/-- Two kernels of class 1 and one of class 0 with work that fits; the loss counters of the two. -/
def draws (a b : Nat) : State :=
  let k (cls loss : Nat) : Node := { kern with placed := 0, cls := cls, caps := { cores := 4 }, loss := Vector.replicate 8 loss }
  { placing with dev := { placing.dev with launches := [{ num := 0, st := .live, towers := 1, nodes := [k 0 5000, k 1 a, k 1 b] }] } }
/-- What the draw of tower 0 has to choose from, by leaf. -/
def eligible (s : State) : List Nat := ((s.queuesOf 0).filter fun q => (s.spotFor 0 q).isSome).map Queue.k

/-- The second of two queues wins when it has lost 4096 times, and by the walk the one whose tickets the number reaches. -/
theorem test_hyp_WorkIsPlacedAndDispatched_draw :
    ([draws 0 4096, draws 1 2].all fun s =>
      eligible s == [0, 1, 2] && ((s.queuesOf 0).all fun q => q.n.kind == .kernel && decide (q.n.cls ≤ 1)) &&
      decide ((s.dev.launches.map Launch.num).Nodup)) = true ∧
    (match (draws 0 4096).queuesOf 0 with
     | [_, p, q] => decide (4096 ≤ q.n.loss[(0 : BitVec 3).toNat] ∧ p.n.loss[(0 : BitVec 3).toNat] < 4096)
     | _ => false) = true ∧
    (match (draws 1 2).queuesOf 0 with
     | [_, p, q] => decide (p.n.loss[(0 : BitVec 3).toNat] < 4096 ∧ q.n.loss[(0 : BitVec 3).toNat] < 4096 ∧
         let w := (nextGen ((draws 1 2).tower 0).gen).toNat * (p.n.tickets + q.n.tickets) / 2 ^ 32
         (w < p.n.tickets ∨ (p.n.tickets ≤ w ∧ w < p.n.tickets + q.n.tickets)))
     | _ => false) = true := by decide +kernel

/-- Nodes of each kind of work in a launch. -/
theorem test_hyp_WorkIsPlacedAndDispatched_work :
    let gang : Node := { kern with kind := .gang, members := [⟨0x100, 12, 1, 0⟩, ⟨0x200, 0, 0, 2⟩] }
    ([gang, pool 1, graphLeaf].all fun n => decide ((leafy n).node? 0 0 = some n)) = true ∧ gang.kind = .gang ∧ (pool 1).kind = .pool ∧
    gang.members[1]? = some ⟨0x200, 0, 0, 2⟩ := by decide +kernel

/-! #### Saves and completion words -/

/-- A save of a context on core 0 that nothing holds back, one that a held row keeps waiting, and two contexts out of one kernel. -/
theorem test_hyp_ContextsComeAndGoAndNodesRetire_saves :
    (victims.switchAll [victims.cx] (victims.saveSlots victims.cx)).pend.length = victims.pend.length ∧
    victims.cx.mask.length ≤ 16 ∧ victims.cx.scrLog ≤ 19 ∧
    (let s := out.upd fun c => { c with phase := .stopped, hostSave := .answered }
     s.lowerOut s.cx = false) ∧ out.slotWaits out.cx = false ∧
    (let s : State := { leafy kern with cx := { out.cx with inst := 2 }, others := [{ out.cx with id := 2, inst := 1 }] }
     s.lowerOut s.cx = true) := by decide +kernel

/-- Places of the device's own writes: in a row that nothing holds, in a held one whose cave is off, and of a completion word. -/
theorem test_hyp_ContextsComeAndGoAndNodesRetire_words :
    got (dm.gLocs none dm.cx.ptbase true .store 0x1080 8 2) (fun q => decide (q.2.length = 8 ∧ (q.2.map Loc.pos).Nodup ∧
      (∀ l ∈ q.2, isReg l.pa = false)) && RowMeet.isFree (q.1.rowMeets none (.g q.2)) && q.1.mem.wf) = true ∧
    (let s : State := { otherRow with tw := { otherRow.tw with arraysOff := true } }
     got (s.gLocs none dm.cx.ptbase true .store 0x5000 8 2) (fun q => RowMeet.isWait (q.1.rowMeets none (.g q.2))) = true) ∧
    (let y : Node := { kern with placed := 4, parent := some 0, done := 0x1080 }
     let l : Launch := { num := 0, st := .live, ptbase := dm.cx.ptbase, nodes := [{ kind := .interior, kids := [1] }, y] }
     let s : State := { dm with dev := { st.dev with launches := [l] } }
     s.launch? 0 = some l ∧ s.mayRetire l 1 y = true ∧ (s.retireNode l 1 y).pend = s.pend ∧ y.done ≠ 0 ∧
     got (State.gLocs ((s.freeLeaf 0 1 y).mapNode 0 1 fun z => { z with retired := true }) none l.ptbase true .store y.done 8 2)
       (fun q => decide (q.2.length = 8 ∧ (q.2.map Loc.pos).Nodup)) = true) := by decide +kernel

/-- A context whose stall is none that a peer's silence strikes, with a command in its FIFO. -/
theorem test_hyp_OtherAgentsReadAndReplace_strikes :
    (let s := st.upd fun c => { c with stall := .host, cp := { c.cp with fifo := [⟨0, 0⟩] } }
     s.ctx? 1 = some s.cx ∧ ¬ (s.cx.phase = .running ∧ (s.cx.stall = .none ∨ s.cx.stall = .again ∨ s.cx.stall.isElem = true)) ∧
     s.cx.cp.fifo ≠ [] ∧ s.cx.gt.fifo = []) := by decide +kernel

/-! #### Clauses about what waits, and about the caches -/

/-- A rowact that its guard skips after a trap, and the handle whose group it was opening. -/
theorem test_hyp_ChecksAndGuardGovernEveryInstruction_rowact :
    fetched (.rowact { form := .s, g := 1 } 0 1) = true ∧ st.cx.issueTrap (.rowact { form := .s, g := 1 } 0 1) = none ∧
    st.cx.skips (Instr.attr (.rowact { form := .s, g := 1 } 0 1)) = true := by decide +kernel

/-- Records under the vl and vtype that the context stopped with, and under others. -/
theorem test_hyp_SysBrkAndEret_inForce :
    (let c := (withRecs 1).cx
     c.vtype ≠ c.stopVtype ∧ c.vl ≠ c.stopVl ∧ shapeLegal (BitVec.ofNat 64 (fld c.vtype 0 13 + 2 ^ 16 * fld c.vtype 16 8)) = true) ∧
    (let s := (withRecs 1).upd fun c => { c with stopVl := c.vl, stopVtype := c.vtype }
     let c := s.cx
     issues .eret s ∧ c.vtype = c.stopVtype ∧ c.vl = c.stopVl ∧
     shapeLegal (BitVec.ofNat 64 (fld c.ifrec[0] 24 13 + 2 ^ 16 * fld c.ifrec[0] 37 8)) = true) := by decide +kernel

/-- `st` with a write of its context that waits, with a peer store that was lost, and with that in supervisor mode. -/
def writing : State := { st with pend := [.store (some 1) 0 [] [] none false] }
def lostOne : State := supState 0 |>.upd fun c => { c with lostStore := some 0x1000 }
def tlbinvs : List Instr := [.tlbinvAll, .tlbinvAsid 1, .tlbinvPage 2 1, .tlbinvGpage 1, .tlbinvUser]

theorem test_hyp_BarriersWalkersAndCaves_wait :
    (let s : State := { st with co := { st.co with queue := [.mflush 1 .i32 0 .g [] false] } }
     allIssue s [.fence 0x20 .dev] = true ∧ s.flushesOut s.cx = true) ∧
    (let s := channels (chanOf 1 [] [])
     allIssue s [.fence 0x10 .dev] = true ∧ s.cx.commandsOut = true) ∧
    (let s := graphed (entry1 .running 0) 0
     allIssue s [.fence 0x10 .dev] = true ∧ s.cx.commandsOut = false ∧ s.nodesRunning s.cx = true) ∧
    (allIssue writing [.fence 0x20 .dev, .fence 4 .cor, .fence 8 .sys, .fence 3 .sys] = true ∧ writing.writesOut writing.cx.id = true ∧
      writing.flushesOut writing.cx = false) ∧
    (let s := { writing with cx := { writing.cx with status := 1 } }
     allIssue s tlbinvs = true ∧ s.writesOut s.cx.id = true ∧ fld (s.cx.readX 1) 16 48 = 0) ∧
    (allIssue lostOne (tlbinvs ++ [.drain, .fence 0x20 .dev, .fence 4 .cor, .fence 8 .sys, .fence 3 .sys]) = true ∧
      lostOne.cx.lostStore = some 0x1000 ∧ lostOne.writesOut lostOne.cx.id = false ∧ lostOne.drained lostOne.cx = true ∧
      lostOne.trapWaits lostOne.cx = false ∧ fld (lostOne.cx.readX 1) 16 48 = 0) ∧
    (let s : State := { dm with cx := { dm.cx with stall := .walk 0 }, dev := { dm.dev with walks := [⟨0, 1, .flush, [(0x20000, 128)]⟩] } }
     s.cx.stall = .walk 0 ∧ s.walksOut s.cx.id = true ∧ allIssue s [.flush {} true 1 2, .inval {} true 1 2, .seal {} 1 2] = true) ∧
    (let s : State := { sx 12 0 0 with pend := [.update 1 .c [] .i32 .rne 0] }
     s.cx.readX 1 ∈ ([0, 2, 4, 8, 12] : List Word) ∧ s.caveRefuses s.cx.cavepart 12 = false ∧ s.caveBusy s.cx = true ∧
     allIssue s [.cavecfg 1 1, .cavecfg 1 0] = true) := by decide +kernel

/-- Two elements under a watermark whose buffer holds the first index alone. -/
def two : State := (one 0x1000 0).upd fun c => { c with vl := 2 }

theorem test_hyp_VectorLoadsFillEachElement_waits :
    two.cx.elems {} = [] ++ 0 :: [1] ∧ two.cx.elems {} = [0] ++ 1 :: [] ∧ issues (.vld { form := .s } 2 1 .w .g (some 3) 0) two ∧
    two.wmAllowed 3 false = true ∧ vsizeBits .w = two.cx.fmt.sew ∧
    (∃ t, along (loadsUnder two {} 1 3 .g 0 2) [] two t ∧ (t.wm 3).waits (contiguousAddr two {} 1 0 1) = true) ∧
    (two.wm 3).waits (contiguousAddr two {} 1 0 0) = false ∧ (two.wm 3).indexed (contiguousAddr two {} 1 0 0) = true ∧ two.holdsWords = false ∧
    (one 0x1000 0).wmAllowed 3 false = true := by
  iterate 5 refine ⟨by decide +kernel, ?_⟩
  refine ⟨⟨two, rfl, ?_⟩, ?_⟩ <;> decide +kernel

/-- Sizes, index groups and strides that are refused; the index group of 512 elements of 64 bits is two bricks. -/
theorem test_hyp_VectorLoadsFillEachElement_refused :
    (let s := one 0x1000 0
     allIssue s [.vld { form := .s } 2 1 .b .g (some 3) 0, .vldro {} 2 1 .b 0, .vlds { form := .s } 2 1 2 .b .g 0,
       .vldx { form := .s } 2 1 3 .b .g false 2, .vsts { form := .s } 2 1 2 .b .g 0, .vstx { form := .s } 2 1 3 .b .g false 2] = true ∧
     vsizeBits .b ≠ s.cx.fmt.sew) ∧
    (let s := (one 0x1000 0x8000000000000000).upd fun c => { c with vtype := 0x1e4 }
     s.cx.cap = 512 ∧ ¬ groupFits s 63 true ∧ groupFits s 62 true ∧ vsizeBits .w = s.cx.fmt.sew ∧ bitOf (s.cx.readX 2) 63 = true ∧
     allIssue s [.vldx { form := .s } 2 1 63 .w .g true 2, .vldx { form := .s } 3 1 2 .w .g true 2, .vldx { form := .s } 2 1 2 .w .g false 2,
       .vstx { form := .s } 2 1 63 .w .g true 2, .vscadd { form := .s } 2 1 63 .rne .g true 2, .vsts { form := .s } 2 1 2 .w .g 0] = true ∧
     s.cx.fmt = .i32) ∧
    (let s := one 0x1000 0
     ¬ ((2 : Reg).toNat < (2 : Reg).toNat ∨ (2 : Reg).toNat + ((s.cx.cap - 1) * 32 / 16384 + 1) ≤ (2 : Reg).toNat)) ∧
    (let s : State := (one 0 0).upd fun c => { c with vtype := 0x1e4 }
     ¬ ((3 : Reg).toNat < (2 : Reg).toNat ∨ (2 : Reg).toNat + ((s.cx.cap - 1) * 64 / 16384 + 1) ≤ (3 : Reg).toNat)) := by
  unfold groupFits; decide +kernel

theorem test_hyp_SpineMovesElements_none :
    (let s := withC fun c => { c with vl := 0 }
     allIssue s [.vcompress {} 1 2, .vexpand {} 1 2] = true ∧ s.cx.vl.toNat = 0 ∧ s.cx.start = 0) ∧ st.cx.vl.toNat ≠ 0 := by decide +kernel

theorem test_hyp_ControlRegistersReadAndWrite_waits :
    let s : State := { supState 0 with co := behindQueue.co }
    s.queued s.cx = true ∧ ([0x005, 0x00c].all fun n => allIssue s [.ctlr { form := .s } 1 n, .ctlw { form := .s } 1 2 n, .ctlwSet { form := .s } 0 2 n,
      .ctlwClr { form := .s } 63 2 n] && (s.ctlRead s.cx (BitVec.toNat n)).isSome) = true := by decide +kernel

/-- A member of a gang's copy, alone in it or with another one left. -/
def member (l : List Ctx) : State :=
  let n : Node := { kern with kind := .gang, members := [⟨0x100, 12, 1, 0⟩, ⟨0x200, 0, 0, 2⟩] }
  { (leafy n).upd fun c => { c with gang := some (0, 0) } with others := l }

theorem test_hyp_TasksEndBoundAndSpawn_gang :
    (issues .exit (member []) ∧ isDrained (member []) = true ∧ (member []).cx.inTask = false ∧ (member []).cx.leaf = some (0, 0) ∧
      (member []).cx.gang = some (0, 0) ∧ ((member []).ancestors (0, 0)).Nodup ∧ ∀ o ∈ (member []).copyOf 0 0 0, o.id = (member []).cx.id) ∧
    (let s := member [{ c0 with id := 2, leaf := some (0, 0), gang := some (0, 1) }]
     issues .exit s ∧ isDrained s = true ∧ s.cx.inTask = false ∧ s.cx.leaf = some (0, 0) ∧ s.cx.gang = some (0, 0) ∧
     (s.ancestors (0, 0)).Nodup ∧ ∃ o ∈ s.copyOf 0 0 0, o.id ≠ s.cx.id) := by decide +kernel

/-- A task, and a context outside any, with a write that waits, or with a peer store that was lost. -/
theorem test_hyp_TasksEndBoundAndSpawn_waits :
    (let t := (inTask (pool 0) (xs 0 0 0)).upd fun c => { c with bound := 0x7fffffff }
     let s : State := { t with pend := [.store (some 1) 0 [] [] none false] }
     let u := t.upd fun c => { c with lostStore := some 0x1000 }
     (allIssue s [.exit, .tdone {}, .kpt {}] = true ∧ s.drained s.cx = false ∧ s.cx.inTask = true ∧ bitOf s.cx.task 28 = false) ∧
     allIssue u [.exit, .tdone {}, .kpt {}] = true ∧ u.drained u.cx = true ∧ u.cx.lostStore = some 0x1000 ∧ u.writesOut u.cx.id = false ∧
     u.trapWaits u.cx = false ∧ u.cx.inTask = true ∧ bitOf u.cx.task 28 = false ∧ fld u.cx.bound 0 32 = 0x7fffffff ∧
     u.dev.incmode.getLsbD (fld u.cx.task 0 4) = false ∧ fld u.co.shadows[Fin.ofNat 16 (fld u.cx.task 0 4)] 32 32 = 0x7fffffff) ∧
    issues .exit writing ∧ writing.drained writing.cx = false ∧ issues .exit lostOne := by decide +kernel

/-- A context of core 5 that holds the row of the leaf entries of `dm`: a walk of the device there waits to set ACC. -/
def leafHolder : Ctx := withHandle { c0 with id := 2, coreid := 5 } { heldRow with entry := BitVec.ofNat 512 (5 + 2 ^ 48 + 2 ^ 49 + 2 ^ 56 + 2 ^ 128) }
def treeHeld : State := { launching (portAt 0x1080 15 1) (block 1 0 4) with others := [leafHolder] }

theorem test_hyp_LaunchesAreCheckedAndQueued_waits :
    (∃ t nodes, treeHeld.checkTree (portAt 0x1080 15 1).req 0x1080 = (t, .ok nodes) ∧ treeHeld.marksWait t = true) ∧
    (∃ t nodes, treeHeld.checkTree treeHeld.reglReq 0x1080 = (t, .ok nodes) ∧ treeHeld.marksWait t = true) ∧
    allIssue treeHeld [.regl {} 1 1] = true ∧ treeHeld.writesOut treeHeld.cx.id = false ∧ treeHeld.cx.lostStore = none ∧
    (treeHeld.port 63).st = 1 ∧ (∀ l ∈ treeHeld.dev.launches, l.issuer ≠ some treeHeld.cx.id) := by
  refine ⟨tree_ok ?_, tree_ok ?_, ?_⟩ <;> decide +kernel

/-- Walks of the device in a row that another context holds, and walks that find the bits set. -/
theorem test_hyp_TranslationAndPromotion_marks :
    (let s : State := { dm with others := [leafHolder] }
     (∃ r, s.translate none s.cx.ptbase true .store 0x1000 = .ok r ∧ true = true) ∧
     leafThat (walkFrom s none 0x1000 4 (fld s.cx.ptbase 11 37 * 2048)) (fun l => decide (l.at_ = 0x14008)) = true ∧
     RowMeet.isFree (s.rowMeet none ⟨0x14008, 0x14008, false⟩) = false ∧ (0x2002f : Word).extractLsb' 48 8 &&& (0xc0 : Byte) ≠ 0xc0) ∧
    RowMeet.isFree (dm.rowMeet none ⟨0x14008, 0x14008, false⟩) = true ∧
    (let s := sc 0x24 0
     (∃ r, s.translate none s.cx.ptbase true .store 0x1000 = .ok r ∧ true = true) ∧
     (0xc000000002002f : Word).extractLsb' 48 8 &&& (0xc0 : Byte) = 0xc0) := by
  refine ⟨⟨ok_of ?_, ?_⟩, ?_, ok_of ?_, ?_⟩ <;> decide +kernel

/-- A word of a UC page that the rind buffers would hold otherwise. -/
theorem test_hyp_LoadsReadWhatMemoryHolds_uncached :
    (⟨32, 32, true⟩ : Loc).uc = true ∧ isPeer (⟨32, 32, true⟩ : Loc).pos = false ∧
    (keeping.rindWord (clusterOf c0.coreid) c0.asid (32 / 4)).isSome = true := by decide +kernel

/-- A write of the device behind another of its own, and behind nothing. -/
theorem test_hyp_ContextsComeAndGoAndNodesRetire_behind :
    (let s : State := { dm with pend := [.store none 0 [(0x20000, 0x20000)] [(0xff, 1)] none false] }
     got (s.gLocs none dm.cx.ptbase true .store 0x1080 8 2) (fun q => q.1.deviceOut && decide (∀ l ∈ q.2, isReg l.pa = false)) = true) ∧
    got (dm.gLocs none dm.cx.ptbase true .store 0x1080 8 2) (fun q => !q.1.deviceOut) = true := by decide +kernel

/-- No context; one node of a graph leaf runs on core 0, or none anywhere. -/
def lone (g : Graph) : State := { st with cx := {}, co := { st.co with graph := g } }
def leafRuns : Graph := st.co.graph.set 1 { st := .running, owner := some (.leaf 0 0) }

theorem lone_leaf {g : Graph} {k : Fin 64} (hg : ∀ j : Fin 64, g[j].st = .running → j = k) {core : BitVec 12} {j : Fin 64}
    (h : ((lone g).core core).graph[j].st = .running) : core = 0 ∧ j = k := by
  by_cases hc : core = 0
  · subst hc; exact ⟨rfl, hg j h⟩
  · exfalso
    have : ((lone g).core core).graph[j] = {} := by
      have hn : (lone g).core core = {} := by
        rw [State.core]; exact (if_neg hc).trans rfl
      rw [hn]
      have : ∀ i : Fin 64, (({} : Core).graph)[i] = {} := by decide +kernel
      exact this j
    rw [this] at h; cases h

theorem test_hyp_OtherAgentsReadAndReplace_leaves :
    (lone leafRuns).ctx? 1 = none ∧ (lone leafRuns).pend = [] ∧
    ((lone leafRuns).core 0).graph[(1 : Fin 64)].st = .running ∧ ((lone leafRuns).core 0).graph[(1 : Fin 64)].owner = some (.leaf 0 0) ∧
    (∀ (core : BitVec 12) (j : Fin 64) (o : Nat × Nat),
      ((lone leafRuns).core core).graph[j].st = .running ∧ ((lone leafRuns).core core).graph[j].owner = some (.leaf o.1 o.2) →
      core = 0 ∧ j = 1) ∧
    (∀ (core : BitVec 12) (j : Fin 64) (o : Nat × Nat),
      ¬ (((lone st.co.graph).core core).graph[j].st = .running ∧ ((lone st.co.graph).core core).graph[j].owner = some (.leaf o.1 o.2))) := by
  refine ⟨by decide +kernel, by decide +kernel, by decide +kernel, by decide +kernel, fun core j o h => lone_leaf (by decide +kernel) h.1,
    fun core j o h => ?_⟩
  have h0 : ∀ j : Fin 64, st.co.graph[j].st ≠ .running := by decide +kernel
  obtain ⟨rfl, -⟩ := lone_leaf (k := j) (fun i hi => absurd hi (h0 i)) h.1
  exact h0 j h.1

/-- A load of a suspension on a line that is poisoned. -/
theorem test_hyp_SuspensionsLeaveARecord_poison :
    let e : Susp := ⟨(0, 0), 0, .load 0x20000 0x100 0x1000, .regs 8 8, none⟩
    let locs := (List.range 64).map fun k => (0x20000 + k, 0x20000 + k)
    let s : State := { inTask (pool 0) (xs 0 0 0) with
      tw := { st.tw with susp := [e] }, pend := [.load 0 (0, 0) locs false], poison := [0x20000 / 128] }
    s.pend[0]? = some (.load 0 (0, 0) locs false) ∧ s.loadWaiter 0 (0, 0) 0x20000 = some (0, 0x100, 0x1000) ∧ (s.tower 0).susp[0]? = some e ∧
    (∀ b ∈ locs, s.loadWaits none ⟨b.1, b.2, false⟩ = false) ∧ (∃ b ∈ locs, lineOf b.2 ∈ s.poison) ∧
    ∀ b ∈ locs, lineOf b.2 ∉ (inTask (pool 0) (xs 0 0 0)).poison := by decide +kernel

/-- A range walk in flight, over the page and the folio that a promotion and a relocation move. -/
theorem test_hyp_PagePromotionMovesThePage_walks :
    ({ migrates 0x10000000080f with dev := { st.dev with walks := [⟨0, 1, .seal, [(0x100000000000, 128)]⟩] } } : State).dev.walks ≠ [] ∧
    (migrates 0x10000000080f).dev.walks = [] ∧ dm.dev.walks = [] := by decide +kernel

/-- A press over a page that no entry maps. -/
theorem test_hyp_PressRunsItsNest_unmapped :
    let s := (pressAt rec3 0).upd fun c => { c with pc := 0x6ff4 }
    issues thePress s ∧ s.cx.readX 1 + (0x80 : BitVec 32).signExtend 64 = 0x1080 ∧
    ∃ t v, loads s .l1 .sector .g 0x1080 128 t v ∧
      (t.noClaims && !t.cx.stall.lost && failsWith (t.fill 2 (s.cx.pc + 12)) .fetchXlate 0x7000) = true := by
  refine ⟨?_, ?_, loads_and ?_⟩ <;> decide +kernel

/-- A press whose body follows in a region with its table in the memory of a peer that does not answer. -/
def farPress : State :=
  let s := paged [0x8000000002002f]
  { s.upd fun c => { c with pc := 0x1ffff4, stall := .peerLost 0, x := xs 0x1000 0 0 } with
    mem := (s.mem.writeN 0x20080 128 rec3).writeN 0x13008 8 (2 ^ 48 + 1) }

theorem test_hyp_PressRunsItsNest_far :
    issues thePress farPress ∧ farPress.cx.stall.lost = true ∧ farPress.cx.pc + 12 = 0x200000 ∧
    ∃ t v, loads farPress .l1 .sector .g 0x1080 128 t v ∧ decide (t.mem = farPress.mem) = true := by
  refine ⟨?_, ?_, ?_, loads_and ?_⟩ <;> decide +kernel

theorem far_step {k a n b : Nat} (ha : pteAddr 0x200000 (k + 1) a = b) (h : farPress.locate false b = some ⟨b, b, false⟩)
    (hr : isReg b = false)
    (he : (let e := farPress.readPte (some 0) ⟨b, b, false⟩
      (bitOf e 0 && !bitOf e 1 && !pteBad e) && fld e 12 40 * 4096 == n) = true)
    (hw : (walkLocs farPress (some 0) 0x200000 k n).any (fun l => isPeer l.pa) = true) :
    (walkLocs farPress (some 0) 0x200000 (k + 1) a).any (fun l => isPeer l.pa) = true := by
  simp only [Bool.and_eq_true, beq_iff_eq] at he
  unfold walkLocs
  simp only [ha, hr, h, Bool.false_eq_true, if_false, Bool.and_eq_true, he, and_self, if_true, List.any_append, hw, Bool.true_or]

theorem far_walk (hp : Config.peerPresent 0 = true) (hi : Config.peerIndex.toNat ≠ 0) :
    (walkLocs farPress (some 0) 0x200000 4 0x10000).any (fun l => isPeer l.pa) = true := by
  have h0 : walkLocs farPress (some 0) 0x200000 0 (2 ^ 48) = [⟨2 ^ 48, 2 ^ 48, false⟩] := by
    have := locate_far farPress hp hi (k := 0) (by decide)
    simp only [Nat.add_zero] at this
    unfold walkLocs
    simp only [show pteAddr 0x200000 0 (2 ^ 48) = 2 ^ 48 by decide, show isReg (2 ^ 48) = false by decide, Bool.false_eq_true, if_false, this]
  refine (far_step (n := 0x11000) (b := 0x10000) ?_ ?_ ?_ ?_ (far_step (n := 0x12000) (b := 0x11000) ?_ ?_ ?_ ?_
    (far_step (n := 0x13000) (b := 0x12000) ?_ ?_ ?_ ?_ (far_step (n := 2 ^ 48) (b := 0x13008) ?_ ?_ ?_ ?_ ?_))))
  any_goals rw [h0]
  all_goals decide +kernel

theorem far_meets (hp : Config.peerPresent 0 = true) (hi : Config.peerIndex.toNat ≠ 0) :
    farPress.walkMeets farPress.cx .g .fetch 0x200000 4 = .lost := by
  have h1 : farPress.walkMeetsAt farPress.cx .fetch 0x200000 = .lost := by
    unfold State.walkMeetsAt
    rw [if_neg (by decide +kernel), if_pos]
    have e1 : towerOf farPress.cx.coreid = 0 := by decide +kernel
    have e2 : fld farPress.cx.ptbase 11 37 * 2048 = 0x10000 := by decide +kernel
    have e3 : farPress.cx.stall.lost = true := by decide +kernel
    simp only [e1, e2, e3, show (0x200000 : Word).toNat = 0x200000 by decide, far_walk hp hi, Bool.and_self]
  unfold State.walkMeets
  simp only
  rw [if_neg (by decide +kernel), show (List.range (((0x200000 : Word).toNat % 4096 + 4 + 4095) / 4096)) = [0] by decide]
  simp only [List.map_cons, List.map_nil, if_true, h1]
  decide

theorem test_hyp_PressRunsItsNest_lost (hp : Config.peerPresent 0 = true) (hi : Config.peerIndex.toNat ≠ 0) :
    farPress.runMeets 2 0x200000 = some (0x200000, true) := by
  have h1 : farPress.wordMeets 0x200000 = some (0x200000, true) := by unfold State.wordMeets; rw [far_meets hp hi]
  have h2 : farPress.instrMeets 0x200000 = some (0x200000, true) := by unfold State.instrMeets; rw [h1, Option.orElse_some]
  unfold State.runMeets
  rw [h2, Option.orElse_some]

/-- A record of an instruction that lies one iteration behind the nest. -/
theorem test_hyp_PressRunsItsNest_lag :
    let r : Replay := ⟨[BitVec.ofNat 64 (2 ^ 63 + 2 ^ 61)], 0x100, 4, 0x24, [], 0x110⟩
    let c : Ctx := { (inNest 2).cx with replay := some r }
    c.replay = some r ∧ nestFits (nestAt 2).image 0 [2] ∧ fld (BitVec.ofNat 64 (2 ^ 63 + 2 ^ 61) : Word) 61 2 = 1 ∧
    1 ≤ nestRank (nestAt 2).image 0 [2] ∧ (inNest 2).cx.replay = none ∧ c.nestNow = some (nestAt 2) := by
  refine ⟨rfl, ⟨?_, trivial⟩, ?_⟩ <;> decide +kernel

/-! ### Effects calculated by hand from the rules -/

/-- A scalar after an instruction on x1 = a, x2 = b, x3 = c. -/
def xAfter (i : Instr) (a b c : Word) (d : Reg) : Word := (cxOf i (sx a b c)).readX d
/-- Element `e` of v4 after an instruction on v1, v2, v3 under a vtype image. -/
def elAfter (i : Instr) (vt : Word) (a b c : Brick) (e : Nat) : Nat := (cxOf i (sv vt a b c)).el 4 e
def trapOf (i : Instr) (s : State) : BitVec 64 × Word := ((cxOf i s).cause, (cxOf i s).tval)

/-- One step from reset with addi x3, x1, −5 placed at the pc (R87): x1 is 0. -/
theorem test_step_runs_placed_word :
    ((nextOf (step (State.reset.withFetchWord 32 0xfec10c10))).cx.readX 3, (nextOf (step (State.reset.withFetchWord 32 0xfec10c10))).cx.pc) =
      (0xfffffffffffffffb, 4) := by decide +kernel
theorem test_add_wraps : xAfter (.add {} 3 1 (.reg 2)) 0xffffffffffffffff 2 0 3 = 1 := by decide +kernel
theorem test_sub_literal_is_signed : xAfter (.sub { form := .l } 3 1 (.lit 0xffffffff)) 1 0 0 3 = 2 := by decide +kernel
theorem test_andn_complements_b : xAfter (.andn {} 3 1 (.reg 2)) 0xff 0x0f 0 3 = 0xf0 := by decide +kernel
theorem test_shl_takes_b_modulo_64 : xAfter (.shl {} 3 1 (.reg 2)) 1 65 0 3 = 2 := by decide +kernel
theorem test_sra_keeps_the_sign : xAfter (.sraImm 3 1 63) 0x8000000000000000 0 0 3 = 0xffffffffffffffff := by decide +kernel
theorem test_rol_carries_round : xAfter (.rolImm 3 1 1) 0x8000000000000001 0 0 3 = 3 := by decide +kernel
theorem test_min_orders_signed : xAfter (.min {} 3 1 (.reg 2)) 0xffffffffffffffff 1 0 3 = 0xffffffffffffffff := by decide +kernel
theorem test_minu_orders_unsigned : xAfter (.minu {} 3 1 (.reg 2)) 0xffffffffffffffff 1 0 3 = 1 := by decide +kernel
theorem test_mulh_signs : xAfter (.mulh {} 3 1 2) 0xffffffffffffffff 2 0 3 = 0xffffffffffffffff := by decide +kernel
theorem test_mulhu_does_not : xAfter (.mulhu {} 3 1 2) 0xffffffffffffffff 2 0 3 = 1 := by decide +kernel
theorem test_div_overflow : xAfter (.div {} 3 1 2) 0x8000000000000000 0xffffffffffffffff 0 3 = 0x8000000000000000 := by decide +kernel
theorem test_div_towards_zero : xAfter (.div {} 3 1 2) 0xfffffffffffffff9 2 0 3 = 0xfffffffffffffffd := by decide +kernel
theorem test_rem_has_the_sign_of_a : xAfter (.rem {} 3 1 2) 0xfffffffffffffff9 2 0 3 = 0xffffffffffffffff := by decide +kernel
theorem test_rem_by_zero : xAfter (.remu {} 3 1 2) 7 0 0 3 = 7 := by decide +kernel
theorem test_clz_of_zero : xAfter (.clz {} 3 1) 0 0 0 3 = 64 := by decide +kernel
theorem test_ctz : xAfter (.ctz {} 3 1) 0x100 0 0 3 = 8 := by decide +kernel
theorem test_lea_scales_b : xAfter (.lea { form := .s } 3 1 2 4 0xfe) 0x100 3 0 3 = 0x12e := by decide +kernel
theorem test_sext_from_bit_n : xAfter (.sext 3 1 7) 0x180 0 0 3 = 0xffffffffffffff80 := by decide +kernel
theorem test_zext_to_bit_n : xAfter (.zext 3 1 7) 0x1ff 0 0 3 = 0xff := by decide +kernel
theorem test_lih_keeps_the_lower_half : xAfter (.lih { form := .l } 3 0xdeadbeef) 0 0 0x123456789 3 = 0xdeadbeef23456789 := by decide +kernel
theorem test_x0_discards : xAfter (.add {} 0 1 (.reg 2)) 1 2 0 0 = 0 := by decide +kernel
theorem test_cmp_fills_the_predicate : (cxOf (.cmp {} 5 1 (.reg 2) .lt) (sx 0xffffffffffffffff 1 0)).readP 5 = BitVec.allOnes 4096 := by
  decide +kernel
theorem test_cmp_ltu_clears_it : (cxOf (.cmp {} 5 1 (.reg 2) .ltu) (sx 0xffffffffffffffff 1 0)).readP 5 = 0 := by decide +kernel
theorem test_pfirst_of_nothing : xAfter (.pfirst {} 3 6) 0 0 0 3 = 0xffffffffffffffff := by decide +kernel
theorem test_pcount_below_vl : xAfter (.pcount {} 3 0) 0 0 0 3 = 4 := by decide +kernel
theorem test_guard_false_skips : xAfter (.add { form := .s, g := 5 } 3 1 (.reg 2)) 1 2 9 3 = 9 := by decide +kernel
theorem test_guard_negated_issues : xAfter (.add { form := .s, g := 5, gn := true } 3 1 (.reg 2)) 1 2 9 3 = 3 := by decide +kernel
theorem test_br_is_relative_to_itself : (cxOf (.br { form := .s } (-2)) st).pc = 0xf8 := by decide +kernel
theorem test_jal_links_the_next_word :
    ((cxOf (.jal { form := .s } 3 16) st).readX 3, (cxOf (.jal { form := .s } 3 16) st).pc) = (0x108, 0x140) := by decide +kernel
theorem test_jr_reads_before_it_links :
    ((cxOf (.jr {} 1 1) (sx 0x400 0 0)).pc, (cxOf (.jr {} 1 1) (sx 0x400 0 0)).readX 1) = (0x400, 0x104) := by decide +kernel
theorem test_strip_is_capped : ((cxOf (.strip {} 3 1) (sx 9 0 0)).readX 3, (cxOf (.strip {} 3 1) (sx 9 0 0)).strip) = (4, 9) := by decide +kernel
theorem test_snext_goes_round :
    ((cxOf (.snext { form := .s } 3 (-1)) (withC fun c => { c with strip := 5 })).readX 3, (cxOf (.snext { form := .s } 3 (-1)) (withC fun c => { c with strip := 5 })).pc) = (1, 0xfc) := by
  decide +kernel

/-! Memory: bytes 0x80 0x01 at 0x1000 of `dm`. -/

def m2 : State := { dx 0x1000 0xabcdef 0 with mem := (dx 0 0 0).mem.writeN 0x20000 2 0x0180 }
theorem test_ld_sign_extends : (cxOf (.ld {} 3 1 .b true .g none 0) m2).readX 3 = 0xffffffffffffff80 := by decide +kernel
theorem test_ld_is_little_endian : (cxOf (.ld {} 3 1 .h false .g none 0) m2).readX 3 = 0x0180 := by decide +kernel
theorem test_ld_may_be_unaligned : (cxOf (.ld { form := .l } 3 1 .w false .g none 1) m2).readX 3 = 1 := by decide +kernel
theorem test_st_writes_its_size :
    ((nextOf (exec (.st { form := .s } 2 1 .h .g none 1) m2)).mem.readN 0x20000 6) = 0xcdef0180 := by decide +kernel
theorem test_st_counts_the_line : (nextOf (exec (.st { form := .s } 2 1 .h .g none 63) m2)).tags.get 1024 = 1 := by decide +kernel
theorem test_st_without_right : trapOf (.st {} 2 1 .w .g none 0) (dx 0x6ffe 7 0) = (0x0b, 0x6ffe) := by decide +kernel
theorem test_ld_scratch_end : trapOf (.ld {} 3 1 .d false .s none 0) (dx 0xffc 0 0) = (0x0b, 0x1000) := by decide +kernel
theorem test_ld_cave_end : trapOf (.ld {} 3 1 .d false .c none 0) (dx 0x17ffffc 0 0) = (0x28, 0x1800000) := by decide +kernel
theorem test_ld_unmapped : trapOf (.ld {} 3 1 .w false .g none 0) (dx 0x7000 0 0) = (0x0a, 0x7000) := by decide +kernel
theorem test_atom_min_is_signed :
    ((cxOf (.atom { form := .s } 3 1 2 0 .min false .none .dev .g 0) (dx 0x1000 0xffffffff 0)).readX 3,
     (nextOf (exec (.atom { form := .s } 3 1 2 0 .min false .none .dev .g 0) (dx 0x1000 0xffffffff 0))).mem.readN 0x20000 8) = (0, 0xffffffff) := by
  decide +kernel
theorem test_atom_answers_the_tag_after : (cxOf (.atom { form := .s } 3 1 2 4 .add false .none .dev .g 0) (dx 0x1000 1 0)).readX 4 = 1 := by decide +kernel
theorem test_atom_align : trapOf (.atom { form := .s } 3 1 2 0 .add true .none .dev .g 0) (dx 0x1004 1 0) = (0x0c, 0x1004) := by decide +kernel
theorem test_cas_fails_and_answers :
    ((cxOf (.cas { form := .s } 3 1 2 0 .h .none .dev .g 0) m2).readX 3, (nextOf (exec (.cas { form := .s } 3 1 2 0 .h .none .dev .g 0) m2)).mem.readN 0x20000 2) = (0x0180, 0x0180) := by
  decide +kernel

/-! Vectors of four elements; i32 is 0x24, n32 0x25, f32 0x2c, i8 0x20. -/

theorem test_vadd_wraps_an_element : elAfter (.vadd {} 4 1 2) 0x20 0x01ff 0x0101 0 0 = 0 ∧ elAfter (.vadd {} 4 1 2) 0x20 0x01ff 0x0101 0 1 = 2 := by
  decide +kernel
theorem test_vsadd_saturates : elAfter (.vsadd {} 4 1 2) 0x20 0x7f 0x01 0 0 = 0x7f := by decide +kernel
theorem test_vssub_stops_at_zero : elAfter (.vssub {} 4 1 2) 0x25 1 2 0 0 = 0 := by decide +kernel
theorem test_vmulh_is_signed : elAfter (.vmulh {} 4 1 2) 0x24 0xffffffff 2 0 0 = 0xffffffff := by decide +kernel
theorem test_vector_guard_keeps_d :
    ((cxOf (.vadd { form := .s, g := 5 } 4 1 2) (sv 0x24 1 2 0)).v[4], (cxOf (.vadd { form := .s, g := 5 } 4 1 2) (sv 0x24 1 2 0)).vstart) = (0, 0) := by
  decide +kernel
theorem test_offset_reads_the_neighbour : elAfter (.vadd { form := .s, oa := { x := 1 } } 4 1 2) 0x24 0x0000000500000001 0 0 0 = 5 := by decide +kernel
theorem test_offset_outside_is_zero : elAfter (.vadd { form := .s, oa := { x := -1 } } 4 1 2) 0x24 7 0 0 0 = 0 := by decide +kernel
theorem test_vdot_adds_to_d : (cxOf (.vdot { form := .s } 3 1 2 .i8) (sv 0x24 0x01ff0202 0x01010303 10)).el 3 0 = 22 := by decide +kernel
/-- 1.0 + 2^−24 is a tie and rounds to even, inexact. -/
theorem test_vfadd_ties_to_even :
    (elAfter (.vfadd {} 4 1 2 .rne) 0x2c 0x3f800000 0x33800000 0 0, (cxOf (.vfadd {} 4 1 2 .rne) (sv 0x2c 0x3f800000 0x33800000 0)).fflags) = (0x3f800000, 16) := by
  decide +kernel
theorem test_vfadd_rounds_up : elAfter (.vfadd { form := .s } 4 1 2 .rup) 0x2c 0x3f800000 0x33800000 0 0 = 0x3f800001 := by decide +kernel
theorem test_vfdiv_by_zero :
    (elAfter (.vfdiv {} 4 1 2 .rne) 0x2c 0xbf800000 0 0 0, (cxOf (.vfdiv {} 4 1 2 .rne) (sv 0x2c 0xbf800000 0 0)).fflags &&& 2) = (0xff800000, 2) := by
  decide +kernel
theorem test_vfsqrt_of_four : elAfter (.vfsqrt {} 4 1 .rne) 0x2c 0x40800000 0 0 0 = 0x40000000 := by
  decide +kernel
theorem test_vredsum_starts_from_b :
    ((cxOf (.vredsum {} 4 1 2 .rne) (sv 0x24 0x00000004000000030000000200000001 100 0)).vred, elAfter (.vredsum {} 4 1 2 .rne) 0x24 0x00000004000000030000000200000001 100 0 0) = (110, 110) := by
  decide +kernel
theorem test_vperm_beyond_vl : elAfter (.vperm {} 4 1 2) 0x24 0x0000000900000008 0x0000000400000001 0 0 = 9 ∧
    elAfter (.vperm {} 4 1 2) 0x24 0x0000000900000008 0x0000000400000001 0 1 = 0 := by decide +kernel
theorem test_vtype_sets_vl : ((cxOf (.vtype { form := .s } 3 0x01e4) st).vl, trapOf (.vtype { form := .s } 3 0x0264) st |>.1) = (512, 0x04) := by
  decide +kernel
theorem test_mask_depth : trapOf (.mpush {} 0) (maskDepth 16) = (0x13, 16) ∧ trapOf (.mpop {}) (maskDepth 0) = (0x14, 0) := by decide +kernel

/-! Traps, control registers, tasks and incumbents. -/

theorem test_sys_saves_the_next_word :
    let c := cxOf (.sys 0x123) (withC fun c => { c with status := 0x20 })
    (c.cause, c.tval, c.epc, c.fromReg) = (0x3f, 0x123, 0x104, 0x100) ∧ (c.pc, c.status) = (0x4000, 0x25) := by decide +kernel
theorem test_brk_saves_itself : (cxOf (.brk 1) st).epc = 0x100 ∧ (cxOf (.brk 1) st).tval = 0x8000000000000001 := by decide +kernel
theorem test_eret_returns : ((cxOf .eret (withRecs 0)).pc, (cxOf .eret (withRecs 0)).status) = (0x104, 0) := by decide +kernel
theorem test_eret_needs_supervisor : (trapOf .eret st).1 = 0x06 := by decide +kernel
theorem test_ctlw_swaps :
    ((cxOf (.ctlw { form := .s } 3 2 0x306) (supState 9)).tscratch, (cxOf (.ctlw { form := .s } 3 2 0x306) (supState 9)).readX 3) = (9, 0) := by decide +kernel
theorem test_ctlw_read_only : trapOf (.ctlw { form := .s } 3 2 0x400) (supState 9) = (0x04, 9) := by decide +kernel
theorem test_incupd_keeps_the_better :
    ((nextOf (exec (.incupd {} 3 1 2) (sx 0x100000000 0 0))).dev.inc[2], (cxOf (.incupd {} 3 1 2) (sx 0x100000000 0 0)).readX 3) = (0x100000000, 0x7fffffffffffffff) := by
  decide +kernel
theorem test_mzero_allocates : (cxOf (.mzero 0) (tiled .none 0)).vatmap = 1 ∧ trapOf (.mzero 3) (tiled .none 0) = (0x20, 3) := by decide +kernel
theorem test_rowact_opens : ((cxOf (.rowact {} 0 1) (bound0 .none 0)).h[0]).group = .opening 0 ∧ trapOf (.rowact {} 1 1) (bound0 .none 0) = (0x1c, 0xffffffffffffffff) := by
  decide +kernel
theorem test_qpop_takes_the_oldest :
    ((cxOf (.qpop {} 1 2) (pipes [⟨0, 0, 0, ⟨2, false, 0, 0⟩, [5, 6]⟩] .nop .none)).readX 1) = 5 := by decide +kernel
theorem test_cavewb_has_nothing_to_do : xAfter (.cavecfg 3 1) 0 0 7 3 = 0 ∧ trapOf (.cavecfg 3 1) (sx 3 0 0) = (0x04, 3) := by decide +kernel
/-- The copy of one word by the engine. -/
theorem test_engine_copies :
    (nextOf (exec (.engineCommandStart 1 false) { channels (chanOf 1 [] []) with mem := dm.mem.writeN 0x20000 4 0x11223344 })).mem.readN 0x20800 4 = 0x11223344 := by
  decide +kernel
theorem test_launch_go_captures :
    ((nextOf (exec (.lpGo 3 0x1234) st)).port 3).seq = 0x1234 ∧ ((nextOf (exec (.lpAddr 3 9) st)).port 3).wr = 1 := by decide +kernel
/-- √0.01 is 0.1 exactly in M8, whose codes are decimal: nothing is inexact (R174). -/
theorem test_vfsqrt_of_a_decimal :
    (elAfter (.vfsqrt { form := .s } 4 1 .rtz) 0x2e 2 0 0 0, (cxOf (.vfsqrt { form := .s } 4 1 .rtz) (sv 0x2e 2 0 0)).fflags) = (4, 0) := by
  decide +kernel
/-- With vl = 0 a packing writes nothing, and vred stays (R130). -/
theorem test_vcompress_of_nothing_keeps_vred : (cxOf (.vcompress {} 1 2) (withC fun c => { c with vl := 0, vred := 9 })).vred = 9 := by decide +kernel
/-- An mrd takes its place behind an older operation on another tile (R250). -/
theorem test_mrd_queues_behind_another_tile :
    let s : State := { st.upd fun c => { c with vatmap := 1, x := xs 0 0 0 } with co := { st.co with queue := [.mzero 9 0] } }
    ((nextOf (exec (.mrd {} 1 0 2) s)).co.queue, (cxOf (.mrd {} 1 0 2) s).pc) = ([.mzero 9 0, .move 1 0x100], 0x100) := by decide +kernel
/-- eret under a vl that the handler has changed keeps it; under the one the context stopped with it takes the record's (R112, R355). -/
theorem test_eret_takes_vl :
    ((cxOf .eret ((withRecs 1).upd fun c => { c with vl := 2, stopVl := 2, vtype := 0x24, stopVtype := 0x24 })).vl,
     (cxOf .eret ((withRecs 1).upd fun c => { c with vl := 2, stopVl := 4, vtype := 0x24, stopVtype := 0x24 })).vl) = (4, 2) := by decide +kernel

end Sys2Proof.Tests
end

section
/-! PROOFS. The traps of fetch and decode (R66, R67, R77, R79): what the length bits decide, which failures fetch answers with,
and that the events of the fetch traps turn the instruction away. -/

namespace Sys2Proof

/-! ### The form that bits 1:0 of word 0 name, and the words that count (R66, R67) -/

@[simp] theorem Form.ofCode_zero : Form.ofCode 0 = some .c := rfl
@[simp] theorem Form.ofCode_one : Form.ofCode 1 = some .s := rfl
@[simp] theorem Form.ofCode_three : Form.ofCode 3 = none := rfl

theorem Enc.ofWords_c (w0 w1 w2 : BitVec 32) : Enc.ofWords .c w0 w1 w2 = Enc.ofWords .c w0 0 0 := rfl
theorem Enc.ofWords_s (w0 w1 w2 : BitVec 32) : Enc.ofWords .s w0 w1 w2 = Enc.ofWords .s w0 w1 0 := rfl

variable {w0 : BitVec 32}

theorem decode_of_form {f : Form} (h : Form.ofCode (w0.extractLsb' 0 2) = some f) (w1 w2 : BitVec 32) :
    decode w0 w1 w2 = decodeEnc (Enc.ofWords f w0 w1 w2) := by
  simp [decode, h]

theorem decode_no_form (h : Form.ofCode (w0.extractLsb' 0 2) = none) (w1 w2 : BitVec 32) : decode w0 w1 w2 = .error .illLen := by
  simp [decode, h]

theorem decode_of_form_c (h : Form.ofCode (w0.extractLsb' 0 2) = some .c) (w1 w2 : BitVec 32) : decode w0 w1 w2 = decode w0 0 0 := by
  rw [decode_of_form h, decode_of_form h, Enc.ofWords_c]

theorem decode_of_form_s (h : Form.ofCode (w0.extractLsb' 0 2) = some .s) (w1 w2 : BitVec 32) : decode w0 w1 w2 = decode w0 w1 0 := by
  rw [decode_of_form h, decode_of_form h, Enc.ofWords_s]

namespace Machine

open Sys2Proof.Safety

variable {s t : State}

/-! ### What fetch answers outside a press nest (R66, R67, R79, R80) -/

theorem fetch_no_nest (hn : s.cx.nestNow = none) : s.fetch = s.fetchAt := by simp [State.fetch, hn]

theorem fetchAt_misaligned (hp : fld s.cx.pc 0 2 ≠ 0) : s.fetchAt = .error (.align, s.cx.pc) := by
  simp [State.fetchAt, hp]

/-- Fetch reads no further word behind a word 0 whose length bits name no form (R67). -/
theorem fetchAt_illLen (hp : fld s.cx.pc 0 2 = 0) (hw : s.fetchWord s.cx.pc = .ok (t, w0))
    (hf : Form.ofCode (w0.extractLsb' 0 2) = none) : s.fetchAt = .ok (t, .illLen w0) := by
  simp [State.fetchAt, hp, hw, hf]

theorem fetchAt_fault {e : Cause × Word} (hp : fld s.cx.pc 0 2 = 0) (hw : s.fetchWord s.cx.pc = .error e) :
    s.fetchAt = fetchFault s e := by
  simp [State.fetchAt, hp, hw]

/-! ### Addresses whose bits 63:56 are not all zero (R79) -/

variable {va : Word}

theorem translate_noncanonical (hv : fld va 56 8 ≠ 0) (who : Option (BitVec 12)) (root : Word) (sup : Bool) (acc : Acc) :
    s.translate who root sup acc va = .error acc.xlate := by
  simp [State.translate, hv]

theorem gLocs_noncanonical (hv : fld va 56 8 ≠ 0) (who : Option (BitVec 12)) (root : Word) (sup : Bool) (acc : Acc) (n fuel : Nat) :
    s.gLocs who root sup acc va (n + 1) (fuel + 1) = .error (acc.xlate, va) := by
  simp [State.gLocs, translate_noncanonical hv]

theorem fetchWord_noncanonical (hv : fld va 56 8 ≠ 0) : s.fetchWord va = .error (.fetchXlate, va) := by
  simp [State.fetchWord, gLocs_noncanonical hv, Acc.xlate]

/-! ### An instruction that fetch or decode turns away (R250, R351, R353) -/

/-- While something has to come before the trap, only the mark of the stall changes, and a mark stands. -/
theorem turnAway_waits (c : Cause) (v : Word) (h : s.trapWaits s.cx = true) :
    ∃ st, st ≠ .none ∧ s.turnAway c v = s.upd fun x => { x with stall := st } := by
  simp only [State.turnAway, h, if_true, State.upd]
  split
  · exact ⟨.due, by simp, rfl⟩
  · exact ⟨.due, by simp, rfl⟩
  · next hnone _ => exact ⟨s.cx.stall, hnone, rfl⟩

theorem turnAway_takes (c : Cause) (v : Word) (h : s.trapWaits s.cx = false) : s.turnAway c v = s.takeTrap c v false 4 false := by
  simp [State.turnAway, h]

theorem turnedAway_turnAway (c : Cause) (v : Word) (s : State) : turnedAway c v s (.next (s.turnAway c v)) := by
  cases h : s.trapWaits s.cx with
  | true =>
    obtain ⟨st, hst, e⟩ := turnAway_waits c v h
    simpa [turnedAway, h] using ⟨st, hst, e⟩
  | false => simp [turnedAway, h, turnAway_takes]

theorem exec_illLen (w0 : BitVec 32) (s : State) : exec (.illLen w0) s = .next (s.turnAway .illLen (w0.setWidth 64)) := rfl

theorem exec_illOp (w0 w1 : BitVec 32) (s : State) : exec (.illOp w0 w1) s = .next (s.turnAway .illOp (w1 ++ w0)) := rfl

theorem exec_fetchXlate (va : Word) (access : Bool) (s : State) :
    exec (.fetchXlate va access) s = .next (s.turnAway (if access then .fetchAccess else .fetchXlate) va) := rfl

/-! ### The statement -/

theorem illLen_turnedAway (s : State) (w0 : BitVec 32) : turnedAway .illLen (w0.setWidth 64) s (exec (.illLen w0) s) := by
  rw [exec_illLen]; exact turnedAway_turnAway ..

theorem illOp_turnedAway (s : State) (w0 w1 : BitVec 32) : turnedAway .illOp (w1 ++ w0) s (exec (.illOp w0 w1) s) := by
  rw [exec_illOp]; exact turnedAway_turnAway ..

theorem fetchXlate_turnedAway (s : State) (va : Word) (access : Bool) :
    turnedAway (if access then .fetchAccess else .fetchXlate) va s (exec (.fetchXlate va access) s) := by
  rw [exec_fetchXlate]; exact turnedAway_turnAway ..

/-- Settles O4: the length bits pick the form before any other word counts, and each event of a fetch or decode trap is the
`turnAway` of its cause. -/
theorem fetchAndDecodeTrapsAreTaken : Obligations.FetchAndDecodeTrapsAreTaken := by
  unfold Obligations.FetchAndDecodeTrapsAreTaken
  refine ⟨⟨?noForm, ?formC, ?formS, ?fetchNoForm, illLen_turnedAway⟩, fun s w0 w1 va =>
    ⟨illLen_turnedAway s w0, illOp_turnedAway s w0 w1, fetchXlate_turnedAway s va false, fetchXlate_turnedAway s va true,
      ?misaligned, ?noncanonical⟩⟩
  case noForm => exact fun w0 w1 w2 h => decode_no_form (by rw [h]; exact Form.ofCode_three) w1 w2
  case formC => exact fun w0 w1 w2 h => decode_of_form_c (by rw [h]; exact Form.ofCode_zero) w1 w2
  case formS => exact fun w0 w1 w2 h => decode_of_form_s (by rw [h]; exact Form.ofCode_one) w1 w2
  case fetchNoForm =>
    intro s t w0 hn hp hw h
    rw [fetch_no_nest hn]
    exact fetchAt_illLen hp hw (by rw [h]; exact Form.ofCode_three)
  case misaligned =>
    intro hn hp
    rw [fetch_no_nest hn]
    exact fetchAt_misaligned hp
  case noncanonical =>
    intro hn hp hv
    rw [fetch_no_nest hn, fetchAt_fault hp (fetchWord_noncanonical hv)]
    rfl

end Machine

end Sys2Proof
end

section
/-! PROOFS. Multiplication, division, counts, addresses, extensions and literals (R88 to R92): what each word that the scalar
instructions compute stands for, and how sext and zext decode. -/

namespace Sys2Proof

variable {e : Enc} {w0 : BitVec 32}

/-! ### Decoding an instruction whose row is fixed (R77) -/

/-- Past the list of R76, only a field that the picked instruction does not use can refuse the words. -/
theorem decodeEnc_of_pick {i : Instr} (hl : e.listed = true) (hp : pick e = some i) (hi : i.encodable = true) :
    decodeEnc e = if i.enc = e then .ok i else .error .illEnc := by
  simp [decodeEnc, hl, hp, hi]

theorem Enc.ofWords_c_eq : Enc.ofWords .c w0 0 0 =
    { op := w0.extractLsb' 2 8, f4 := w0.extractLsb' 28 4, b := w0.extractLsb' 22 6, a := w0.extractLsb' 16 6,
      d := w0.extractLsb' 10 6 } := rfl

/-- The low six bits of imm10 are the field b, and its high four the field f4 (R68, R75). -/
theorem imm10_low : (w0.extractLsb' 22 10).extractLsb' 0 6 = w0.extractLsb' 22 6 := by
  ext k hk
  simp [show k < 10 by omega]

theorem imm10_high : (w0.extractLsb' 22 10).extractLsb' 6 4 = w0.extractLsb' 28 4 := by
  ext k hk
  simp [show 6 + k < 10 by omega, show 22 + (6 + k) = 28 + k by omega]

theorem Enc.listed_of_c (hf : e.form = .c) (hm : cMajors.contains e.op.toNat = true) (h4 : f4Max.lookup e.op.toNat = none) :
    e.listed = true := by
  simp only [Enc.listed, hf, hm, h4, Bool.and_self]

/-- A C-form row with the operands d, a and b alone refuses a nonzero f4. -/
theorem decode_of_dab {op : BitVec 8} {f : Reg → Reg → Reg → Instr} (hf : w0.extractLsb' 0 2 = 0) (ho : w0.extractLsb' 2 8 = op)
    (hm : cMajors.contains op.toNat = true) (h4 : f4Max.lookup op.toNat = none)
    (hp : ∀ f4 b a d, pick { op := op, f4 := f4, b := b, a := a, d := d } = some (f d a b))
    (he : ∀ d a b, (f d a b).enc = { op := op, d := d, a := a, b := b }) (hw : ∀ d a b, (f d a b).encodable = true) :
    decode w0 0 0 =
      if (w0.extractLsb' 22 10).extractLsb' 6 4 = 0 then
        .ok (f (w0.extractLsb' 10 6) (w0.extractLsb' 16 6) ((w0.extractLsb' 22 10).extractLsb' 0 6))
      else .error .illEnc := by
  rw [imm10_low, imm10_high, decode_of_form (f := .c) (by rw [hf]; rfl), Enc.ofWords_c_eq, ho,
    decodeEnc_of_pick (Enc.listed_of_c rfl hm h4) (hp ..) (hw ..), he]
  simp [eq_comm]

theorem decode_sext (hf : w0.extractLsb' 0 2 = 0) (ho : w0.extractLsb' 2 8 = 0x0c) :
    decode w0 0 0 =
      if (w0.extractLsb' 22 10).extractLsb' 6 4 = 0 then
        .ok (.sext (w0.extractLsb' 10 6) (w0.extractLsb' 16 6) ((w0.extractLsb' 22 10).extractLsb' 0 6))
      else .error .illEnc :=
  decode_of_dab hf ho rfl rfl (fun _ _ _ _ => rfl) (fun _ _ _ => rfl) (fun _ _ _ => rfl)

theorem decode_zext (hf : w0.extractLsb' 0 2 = 0) (ho : w0.extractLsb' 2 8 = 0x0d) :
    decode w0 0 0 =
      if (w0.extractLsb' 22 10).extractLsb' 6 4 = 0 then
        .ok (.zext (w0.extractLsb' 10 6) (w0.extractLsb' 16 6) ((w0.extractLsb' 22 10).extractLsb' 0 6))
      else .error .illEnc :=
  decode_of_dab hf ho rfl rfl (fun _ _ _ _ => rfl) (fun _ _ _ => rfl) (fun _ _ _ => rfl)

namespace Machine

open Sys2Proof.Safety

/-! ### From the word that an instruction computes to what it writes (R84) -/

theorem regOp3_of_toX {f : Mods → Reg → Reg → Reg → Instr} {P : Word → Word → Word → Prop} (v : Word → Word → Word)
    (e : ∀ m d a b s, exec (f m d a b) s = toX (f m d a b) s d fun c => v (c.readX a) (c.readX b)) (hP : ∀ A B, P A B (v A B)) :
    regOp3 f P :=
  fun m d a b s h => toX_writes h (hP _ _) (e m d a b s)

theorem countOp_of_toX {f : Mods → Reg → Reg → Instr} {P : Word → Word → Prop} (v : Word → Word)
    (e : ∀ m d a s, exec (f m d a) s = toX (f m d a) s d fun c => v (c.readX a)) (hP : ∀ A, P A (v A)) : countOp f P :=
  fun m d a s h => toX_writes h (hP _) (e m d a s)

/-! ### Halves of a product (R88) -/

/-- The product of two signed words lies within 2^126 of 0, so its upper half is a signed word. -/
theorem toInt_mulHigh (a b : Word) : (BitVec.ofInt 64 (a.toInt * b.toInt / 2 ^ 64)).toInt = a.toInt * b.toInt / 2 ^ 64 := by
  have hl : -2 ^ 126 ≤ a.toInt * b.toInt := BitVec.le_toInt_mul_toInt
  have hu : a.toInt * b.toInt ≤ 2 ^ 126 := BitVec.toInt_mul_toInt_le
  apply BitVec.toInt_ofInt_eq_self <;> omega

theorem toNat_mulHigh (a b : Word) : (BitVec.ofNat 64 (a.toNat * b.toNat / 2 ^ 64)).toNat = a.toNat * b.toNat / 2 ^ 64 := by
  have h : a.toNat * b.toNat < 2 ^ 64 * 2 ^ 64 := Nat.mul_lt_mul'' a.isLt b.isLt
  rw [BitVec.toNat_ofNat, Nat.mod_eq_of_lt (Nat.div_lt_of_lt_mul h)]

/-! ### Quotients and remainders (R88) -/

theorem divWord_value (a b : Word) :
    if b = 0 then divWord a b = BitVec.allOnes 64 else (divWord a b).toInt = Int.bmod (a.toInt.tdiv b.toInt) (2 ^ 64) := by
  unfold divWord
  split
  · rfl
  · exact BitVec.toInt_sdiv a b

theorem divuWord_value (a b : Word) :
    if b = 0 then divuWord a b = BitVec.allOnes 64 else (divuWord a b).toNat = a.toNat / b.toNat := by
  unfold divuWord
  split
  · rfl
  · exact BitVec.toNat_udiv

theorem remWord_value (a b : Word) :
    if b = 0 then remWord a b = a else (remWord a b).toInt = a.toInt - b.toInt * a.toInt.tdiv b.toInt := by
  unfold remWord
  split
  · rfl
  · rw [BitVec.toInt_srem, Int.tmod_def]

theorem remuWord_value (a b : Word) :
    if b = 0 then remuWord a b = a else (remuWord a b).toNat = a.toNat - b.toNat * (a.toNat / b.toNat) := by
  unfold remuWord
  split
  · rfl
  · rw [BitVec.toNat_umod, Nat.mod_def]

/-! ### Counts (R89) -/

theorem toNat_clzWord_zero : (clzWord 0).toNat = 64 := rfl

theorem toNat_clzWord {a : Word} (h : a ≠ 0) : (clzWord a).toNat = 63 - Nat.log2 a.toNat := by
  rw [clzWord, if_neg h, BitVec.toNat_ofNat, Nat.mod_eq_of_lt (by omega)]

/-- The highest set bit is bit log2: every bit above it is clear, and 63 less the count of those is its place. -/
theorem clzWord_value (a : Word) :
    (clzWord a).toNat ≤ 64 ∧ (∀ k < 64, 64 - (clzWord a).toNat ≤ k → a.getLsbD k = false) ∧
      ((clzWord a).toNat < 64 → a.getLsbD (63 - (clzWord a).toNat) = true) := by
  by_cases h : a = 0
  · rw [h, toNat_clzWord_zero]
    simp
  · have h0 : a.toNat ≠ 0 := fun e => h (BitVec.eq_of_toNat_eq e)
    have hlog : Nat.log2 a.toNat < 64 := (Nat.log2_lt h0).mpr a.isLt
    rw [toNat_clzWord h]
    refine ⟨by omega, fun k _ hk => ?above, fun _ => ?top⟩
    case above =>
      exact Nat.testBit_lt_two_pow (Nat.lt_log2_self.trans_le (Nat.pow_le_pow_right (by omega) (by omega)))
    case top =>
      rw [show 63 - (63 - Nat.log2 a.toNat) = Nat.log2 a.toNat by omega]
      exact Nat.testBit_log2 h0

theorem lowBit_le (n x : Nat) : lowBit n x ≤ n := by
  induction n generalizing x with
  | zero => exact Nat.le_refl 0
  | succ n ih =>
    have := ih (x / 2)
    simp only [lowBit]
    split <;> omega

theorem testBit_below_lowBit (n x k : Nat) (hk : k < lowBit n x) : x.testBit k = false := by
  induction n generalizing x k with
  | zero => exact absurd hk (Nat.not_lt_zero k)
  | succ n ih =>
    simp only [lowBit] at hk
    split at hk
    · omega
    · next hodd =>
      cases k with
      | zero => simpa using hodd
      | succ k => exact (Nat.testBit_succ x k).trans (ih (x / 2) k (by omega))

theorem testBit_lowBit (n x : Nat) (h : lowBit n x < n) : x.testBit (lowBit n x) = true := by
  induction n generalizing x with
  | zero => exact absurd h (Nat.not_lt_zero _)
  | succ n ih =>
    simp only [lowBit] at h ⊢
    split
    · next hodd => simpa using hodd
    · next hodd =>
      rw [if_neg hodd] at h
      rw [Nat.add_comm, Nat.testBit_succ]
      exact ih (x / 2) (by omega)

theorem toNat_ctzWord (a : Word) : (ctzWord a).toNat = lowBit 64 a.toNat := by
  have := lowBit_le 64 a.toNat
  rw [ctzWord, BitVec.toNat_ofNat, Nat.mod_eq_of_lt (by omega)]

theorem ctzWord_value (a : Word) :
    (ctzWord a).toNat ≤ 64 ∧ (∀ k, k < (ctzWord a).toNat → a.getLsbD k = false) ∧
      ((ctzWord a).toNat < 64 → a.getLsbD (ctzWord a).toNat = true) := by
  rw [toNat_ctzWord]
  exact ⟨lowBit_le 64 a.toNat, testBit_below_lowBit 64 a.toNat, testBit_lowBit 64 a.toNat⟩

theorem toNat_popWord (a : Word) : (popWord a).toNat = ((List.range 64).filter fun k => a.getLsbD k).length := by
  have h : (List.range 64).countP (fun k => a.getLsbD k) ≤ 64 := by simpa using List.countP_le_length (l := List.range 64)
  rw [popWord, BitVec.toNat_ofNat, Nat.mod_eq_of_lt (by omega), List.countP_eq_length_filter]

/-! ### Addresses, extensions and literals (R90 to R92) -/

theorem ofInt_two_pow (n : Nat) : BitVec.ofInt 64 (2 ^ n) = BitVec.twoPow 64 n := by
  rw [show (2 : Int) ^ n = ((2 ^ n : Nat) : Int) from (Nat.cast_pow 2 n).symm, BitVec.ofInt_natCast]
  exact BitVec.eq_of_toNat_eq (by simp)

/-- A scaled address is the sum of the integers, wrapped to 64 bits: each of its terms is the word of its integer. -/
theorem toInt_scaledAddress (a b : Word) (n : Nat) (disp : BitVec 8) :
    (a + b <<< n + disp.signExtend 64).toInt = Int.bmod (a.toInt + b.toInt * 2 ^ n + disp.toInt) (2 ^ 64) := by
  have hb : b <<< n = BitVec.ofInt 64 (b.toInt * 2 ^ n) := by
    rw [BitVec.ofInt_mul, BitVec.ofInt_toInt, BitVec.shiftLeft_eq_mul_twoPow, ofInt_two_pow]
  have hsum : a + b <<< n + disp.signExtend 64 = BitVec.ofInt 64 (a.toInt + b.toInt * 2 ^ n + disp.toInt) := by
    rw [BitVec.ofInt_add, BitVec.ofInt_add, BitVec.ofInt_toInt, hb]; rfl
  rw [hsum, BitVec.toInt_ofInt]

theorem sextN_eq (n : Nat) (a : Word) : sextN n a.toNat = (a.setWidth n).signExtend 64 := by
  rw [← BitVec.ofNat_toNat]; rfl

/-- Bits above bit n repeat it (R91). -/
theorem getLsbD_sextN (a : Word) {n k : Nat} (hk : k < 64) : (sextN (n + 1) a.toNat).getLsbD k = a.getLsbD (min k n) := by
  rw [sextN_eq, BitVec.getLsbD_signExtend, BitVec.msb_eq_getLsbD_last]
  by_cases h : k < n + 1
  · simp [hk, h, Nat.min_eq_left (Nat.le_of_lt_succ h)]
  · simp [hk, h, Nat.min_eq_right (show n ≤ k by omega)]

theorem getLsbD_zextN (a : Word) {n k : Nat} (hk : k < 64) :
    (BitVec.ofNat 64 (a.toNat % 2 ^ (n + 1))).getLsbD k = (decide (k ≤ n) && a.getLsbD k) := by
  rw [BitVec.getLsbD_ofNat, Nat.testBit_mod_two_pow]
  simp [hk, BitVec.getLsbD]

theorem toInt_litWord_short (i : BitVec 10) : (litWord (.short i)).toInt = i.toInt := BitVec.toInt_signExtend_of_le (by omega)

theorem toInt_litWord_long (k : BitVec 32) : (litWord (.long k)).toInt = k.toInt := BitVec.toInt_signExtend_of_le (by omega)

theorem toNat_upperReplaced (k : BitVec 32) (x : Word) : (k ++ x.setWidth 32).toNat = k.toNat * 2 ^ 32 + x.toNat % 2 ^ 32 := by
  rw [BitVec.toNat_append, BitVec.toNat_setWidth, ← Nat.shiftLeft_add_eq_or_of_lt (Nat.mod_lt _ (by omega)), Nat.shiftLeft_eq]

/-! ### The statement -/

/-- Settles O17: each instruction writes the word that its body computes, and that word stands for the number or the bits that
the rules name. -/
theorem productsCountsAndAddresses : Obligations.ProductsCountsAndAddresses := by
  unfold Obligations.ProductsCountsAndAddresses
  refine ⟨⟨?mul, ?mulh, ?mulhu, ?div, ?divu, ?rem, ?remu⟩, ⟨?clz, ?ctz, ?popc⟩, ?lea, ?sext, ?zext,
    fun w0 hf => ⟨decode_sext hf, decode_zext hf⟩, ?liShort, ?liLong, ?lih⟩
  case mul => exact regOp3_of_toX (· * ·) (fun _ _ _ _ _ => rfl) BitVec.toNat_mul
  case mulh => exact regOp3_of_toX (fun A B => BitVec.ofInt 64 (A.toInt * B.toInt / 2 ^ 64)) (fun _ _ _ _ _ => rfl) toInt_mulHigh
  case mulhu => exact regOp3_of_toX (fun A B => BitVec.ofNat 64 (A.toNat * B.toNat / 2 ^ 64)) (fun _ _ _ _ _ => rfl) toNat_mulHigh
  case div => exact regOp3_of_toX divWord (fun _ _ _ _ _ => rfl) divWord_value
  case divu => exact regOp3_of_toX divuWord (fun _ _ _ _ _ => rfl) divuWord_value
  case rem => exact regOp3_of_toX remWord (fun _ _ _ _ _ => rfl) remWord_value
  case remu => exact regOp3_of_toX remuWord (fun _ _ _ _ _ => rfl) remuWord_value
  case clz => exact countOp_of_toX clzWord (fun _ _ _ _ => rfl) clzWord_value
  case ctz => exact countOp_of_toX ctzWord (fun _ _ _ _ => rfl) ctzWord_value
  case popc => exact countOp_of_toX popWord (fun _ _ _ _ => rfl) toNat_popWord
  case lea =>
    intro m d a b sh disp s h
    refine toX_writes h ?_ rfl
    exact toInt_scaledAddress ..
  case sext =>
    intro d a n s h
    refine toX_writes h ?_ rfl
    exact fun k hk => getLsbD_sextN _ hk
  case zext =>
    intro d a n s h
    refine toX_writes h ?_ rfl
    exact fun k hk => getLsbD_zextN _ hk
  case liShort =>
    intro m d i s h
    refine toX_writes h ?_ rfl
    exact toInt_litWord_short i
  case liLong =>
    intro m d k s h
    refine toX_writes h ?_ rfl
    exact toInt_litWord_long k
  case lih =>
    intro m d k s h
    refine toX_writes h ?_ rfl
    exact toNat_upperReplaced ..

end Machine

end Sys2Proof
end
